-- ==== Sys2Proof/Word.lean ====
section
/-! DEFINITION. The word types of the W9 (R5, R65) and the type of a sparse table. -/

namespace Sys2Proof

/-- One byte (R5: addresses are byte addresses). -/
abbrev Byte := BitVec 8

/-- A 32-bit register value (R6). -/
abbrev Word := BitVec 32

/-- A 64-bit value: a register pair (R9), an address (R22), an instruction word (R29). -/
abbrev DWord := BitVec 64

/-- A sparse table: pairs of a key and a value, keys strictly rising. A key that is not listed has
the value that the table's reader names. -/
abbrev Tbl (α : Type) := List (Nat × α)

end Sys2Proof
end

