-- ==== Sys2Proof/Config.lean ====
section
/-! DEFINITION. The figures of R1 that the model uses, the fixed numbers other rules give, and the
free values: constants without a body, about which nothing can be proved. -/

namespace Sys2Proof.Config

/-- Cores of the package (R1). -/
def cores : Nat := 256
/-- Cores of a section (R1). -/
def coresPerSection : Nat := 4
/-- Sections of a die and of the package (R1). -/
def sectionsPerDie : Nat := 32
def sections : Nat := 64
/-- Warp positions of a core and of one issue slot (R141), lanes of a warp (R140). -/
def warpPositions : Nat := 48
def positionsPerSlot : Nat := 12
def lanes : Nat := 32
/-- Resident workgroups of a core (R141). -/
def maxResident : Nat := 32
/-- Granules of a core's pool, the floor of its L1 and the most a grow can ever have (R184, R189). -/
def granules : Nat := 768
def l1Floor : Nat := 32
def growMax : Nat := 736
/-- Bytes of a granule (R184) and frame units of a granule (R185). -/
def granuleBytes : Nat := 2048
def unitsPerGranule : Nat := 64
/-- Banks of a core's pool (R184), lines of a granule and bytes of a frame unit (R185). -/
def banks : Nat := 48
def granuleLines : Nat := 16
def unitBytes : Nat := 32
/-- Frame units of the trap-frame area (R185). -/
def trapUnits : Nat := 4
/-- Granules of the queue window of an apprentice pair (R158). -/
def windowGranules : Nat := 4
/-- Home slices (R202). -/
def slices : Nat := 128
/-- Lines of a home slice (R202: 1.5 MiB). -/
def sliceLines : Nat := 12288
/-- Entries of a core's TLB; sets and ways of a section's TLB (R208). -/
def coreTlb : Nat := 64
def sectTlbSets : Nat := 512
def sectTlbWays : Nat := 8
/-- Virtual functions (R391). -/
def functions : Nat := 1024
/-- The pool aperture (R197). -/
def apertureBase : Nat := 0x01F0000000000000
def apertureSize : Nat := 0x200000
/-- Device physical addresses lie below this bound (R204, R207). -/
def deviceTop : Nat := 0x6000000000
/-- Bytes of a channel's part of device memory (R204). -/
def channelBytes : Nat := 0x60000000
/-- Entries of a page request queue, those reserved for a partition, and those shared (R209). -/
def pageReqEntries : Nat := 4096
def pageReqReserved : Nat := 8
def pageReqShared : Nat := 3840
/-- Cycles after which a checkpoint request is abandoned (R348). -/
def ckptLapse : Nat := 17000
/-- Cycles after a tenure's start before its first command may begin (R270). -/
def tenureDelay : Nat := 1536
/-- Cycles a wait-list request ages before a down request is posted (R298). -/
def downAge : Nat := 1024
/-- Cycles between two drained residue granules (R387). -/
def drainPeriod : Nat := 4096
/-- Ticks of a bandwidth window (R401). -/
def windowTicks : Nat := 8192
/-- Depths of the command queues CP0, CP1, MX, SQ, TK and NE (R244) and of a completion queue (R247). -/
def depthCP : Nat := 16
def depthMX : Nat := 32
def depthSQ : Nat := 16
def depthTK : Nat := 8
def depthNE : Nat := 16
def depthCQ : Nat := 16
/-- Lines of a core's instruction cache (R1: 64 KiB), and words of a lane's loop buffer (R145). -/
def icacheLines : Nat := 512
def loopWords : Nat := 48
/-- Entries of a queue register q8 to q15 (R158). -/
def depthApq : Nat := 8
/-- Lines of a unit image (R346). -/
def unitImageLines : Nat := 5136

/-! ### Free values

Each is used where the manual fixes no value. A statement about one holds for every value. -/

/-- What the manual leaves to the SPDM responder in its `n`-th response (R406)
(DESIGN CHOICE, log 14, PRESUMED, log 16). -/
opaque spdmRest : Nat → List Byte
/-- Whether a unit's count of corrected errors has risen by 16 within one second when it reaches a count
(R422): the model keeps no wall time (DESIGN CHOICE, log 14). -/
opaque withinSecond : Nat → Nat → Bool
/-- How many checks in a row a Bluord lane fails before it is retired at its next replay (R410)
(DESIGN CHOICE, log 14). -/
opaque laneFailures : Nat → Nat
/-- How a read-back object whose layout the manual does not give is laid out, by KIND (R425)
(DESIGN CHOICE, log 14). -/
opaque readbackForm : Nat → List Byte → List Byte
/-- The event address of the management function (R405, R425) (DESIGN CHOICE, log 14). -/
opaque mgmtEventAddr : DWord
/-- The measurement of the firmware image that runs after the `n`-th start (R406) (DESIGN CHOICE, log 14). -/
opaque firmwareMeasurement : Nat → List Byte
/-- The version of the firmware image that runs after the `n`-th start (R406) (DESIGN CHOICE, log 14). -/
opaque firmwareVersion : Nat → DWord
/-- The CRC-16 of a flit's bits 239:0 (R410 gives no polynomial) (DESIGN CHOICE, log 14). -/
opaque bluordCrc : BitVec 240 → BitVec 16
/-- The port that an ROD pair of peer and queue uses (R411: a hash of the peer's address)
(DESIGN CHOICE, log 14). -/
opaque rodPort : BitVec 128 → Nat
/-- STATESZ for a partition of so many sections (R395) (DESIGN CHOICE, log 14). -/
opaque stateSize : Nat → DWord
/-- Cycles from the rise of the halt line to a unit's stop (R339), by unit and by halt
(DESIGN CHOICE, log 14). -/
opaque skid : Nat → Nat → Word
/-- How many K blocks, or beats of 128 bytes, or tiles, a command has done when a halt finds it (R286, R338)
(DESIGN CHOICE, log 14). -/
opaque stopReach : Nat → Nat
/-- The set of a home slice that a line falls in, and the lines of a set (R202 gives the slice's size alone)
(DESIGN CHOICE, log 8). -/
opaque sliceSet : Nat → Nat
opaque sliceWays : Nat
/-- The context-image address that the undo log gives a scratchpad line of a workgroup (R345; no rule lays
scratchpads out in the image) (DESIGN CHOICE, log 14). -/
opaque padImage : Nat → Nat → DWord
/-- Which bits of a signature that a thread's store and the step sequencer both reach come to be the store's (R289)
(DESIGN CHOICE, log 81). -/
opaque signatureMix : Nat → BitVec 128
/-- Which of the residue lines of a core's pool a miss pushes out (R387) (DESIGN CHOICE, log 88). -/
opaque residueVictim : Nat → Nat
/-- A byte of a line that a tag-array error has lost (R354) (DESIGN CHOICE, log 14, DEDUCED, log 22). -/
opaque lostByte : Nat → Byte
/-- A byte that a line gives once its function's tweak key is another than it was written under (R402)
(DESIGN CHOICE, log 14). -/
opaque garbledByte : Nat → Byte
/-- The management endpoint's fabric address and job identifier in the boot store (R392, R420)
(DESIGN CHOICE, log 14). -/
opaque bootFabricAddress : BitVec 128
/-- (DESIGN CHOICE, log 14). -/
opaque bootJob : Word

end Sys2Proof.Config
end

