-- ==== Sys2Proof/Syntax.lean ====
section
/-! DEFINITION. The instructions and device steps of the W9: one constructor of `Instr` for each row
of the table of operations and events. A program instruction carries the decoded fields of its first
word (R31) and its extension words, because an illegal encoding is an instruction too: it raises a
trap whose cause can depend on the running frame size (R49, R8). A device step carries the names of
what it acts on and, where it comes from outside the package, what arrives. -/

namespace Sys2Proof

/-- The fields of a full word (R31) with its extension words. `form` is bits 63:62: 00, 10 or 11. An
extension word that the form does not have is held as 0. -/
structure Fields where
  form : BitVec 2
  gp : BitVec 3
  gn : Bool
  stop : Bool
  td : Bool
  lua : Bool
  lub : Bool
  luc : Bool
  dst : BitVec 8
  sa : BitVec 8
  sb : BitVec 8
  sc : BitVec 8
  mod : BitVec 11
  ext1 : DWord
  ext2 : DWord
  deriving DecidableEq, Repr

/-- One half of a pair word (R44). -/
structure Half where
  hop : BitVec 7
  hd : BitVec 8
  hs : BitVec 8
  lud : Bool
  lus : Bool
  ht : Bool
  imm5 : BitVec 5
  deriving DecidableEq, Repr

/-- A command queue: its kind (R244) and its owner, a workgroup or, for MX and SQ, a cohort. -/
inductive QRef where
  | cp0 (wg : Nat)
  | cp1 (wg : Nat)
  | mx (cohort : Nat)
  | sq (cohort : Nat)
  | tk (wg : Nat)
  | ne (wg : Nat)
  deriving DecidableEq, Repr

/-- What the world outside decides about one start (R420): the stage that fails, if any, with its
reason code or that it does not end, the sections that stage 5 retires, by section the defective physical rows that its
self-test finds (R268), and the channel that a minimal start brings up (R421). -/
structure StartOutcome where
  failAt : Option Nat
  hangs : Bool
  reason : BitVec 8
  retired : List Nat
  defects : Tbl (List Nat)
  channel : Nat
  deriving DecidableEq, Repr

/-- Where an error was detected (R195, R422): a parity error in a line of the pool has consequences of its own. -/
inductive ErrorSite where
  /-- No line of the pool. -/
  | elsewhere
  /-- A line of a thread's frame or trap-frame area, a workgroup's scratchpad or queue window, an L1 line of a core. -/
  | frame (thread line : Nat)
  | scratchpad (wg : Nat)
  | window (wg : Nat)
  | l1 (core line : Nat)
  deriving DecidableEq, Repr

/-- A detected error: whether it was corrected, and where it was. -/
structure ErrorSeen where
  corrected : Bool
  site : ErrorSite
  deriving DecidableEq, Repr

/-- A return of a function's context to a checkpoint: `sound` is whether the store delivers its image without an
uncorrectable error (R353). -/
structure ImageUse where
  fn : Nat
  sound : Bool
  deriving DecidableEq, Repr

/-- How a packet is delivered (R411): unordered, ordered, or by another mode of UEC 1.0. -/
inductive Delivery where
  | rud
  | rod
  | other
  deriving DecidableEq, Repr

/-- An endpoint as a packet names it (R412): the fabric address, and the endpoint index, which is its function's number;
with the packet's delivery mode, its flow, and its packet sequence number in that. A packet may have been trimmed. -/
structure EndpointName where
  addr : BitVec 128
  fn : Nat
  mode : Delivery
  flow : Nat
  seq : Nat
  trimmed : Bool
  deriving DecidableEq, Repr

/-- What a notify write names beside its endpoint (R397, R412): the job identifier that it carries, and the slot. -/
structure NotifySlot where
  job : Word
  slot : Nat
  deriving DecidableEq, Repr

/-- A flit of Bluord (R410): as its sender's replay buffer holds it, and as it comes out of the lane. -/
structure Flit where
  held : BitVec 256
  got : BitVec 256
  deriving DecidableEq, Repr

/-- What UET brings back from a peer for an outstanding network operation (R415). -/
inductive PeerAnswer where
  /-- Every byte is acknowledged. -/
  | ack
  /-- Bytes that were asked for, from an offset on, at most one packet of them. -/
  | data (offset : Nat) (bytes : List Byte)
  /-- The packet of a number was trimmed on its way. -/
  | trimmed (packet : Nat)
  /-- A refusal; `n` bytes had been delivered. -/
  | error (n : Nat)
  deriving DecidableEq, Repr

/-- One constructor for each row of the table; the rows without data of their own stand last. The
request that an SPDM step answers is the oldest in `Spdm.inbox` (State). -/
inductive Instr where
  /-- IADD (R93): Adds two integers, wrapping or saturating per .sat. -/
  | iadd (f : Fields)
  /-- ISUB (R93): Subtracts two integers, wrapping or saturating per .sat. -/
  | isub (f : Fields)
  /-- IADDC (R96): Adds with carry in and carry out through a predicate. -/
  | iaddc (f : Fields)
  /-- ISUBB (R96): Subtracts with borrow in and borrow out through a predicate. -/
  | isubb (f : Fields)
  /-- IMUL (R93): Multiplies two integers, keeping the low bits or saturating. -/
  | imul (f : Fields)
  /-- IMULH (R94): Writes the upper half of the exact double-width product. -/
  | imulh (f : Fields)
  /-- IMAD (R93): Integer multiply-add a*b+c. -/
  | imad (f : Fields)
  /-- IMADW (R95): 32x32-bit multiply added to a 64-bit accumulator pair. -/
  | imadw (f : Fields)
  /-- IDIV (R97): Integer divide truncating toward zero, with defined special cases or DIV_CHECK under .chk. -/
  | idiv (f : Fields)
  /-- IREM (R97): Integer remainder with the sign of the dividend, with DIV_CHECK under .chk. -/
  | irem (f : Fields)
  /-- IMIN (R93): Signed or unsigned integer minimum. -/
  | imin (f : Fields)
  /-- IMAX (R93): Signed or unsigned integer maximum. -/
  | imax (f : Fields)
  /-- IABS (R93): Integer absolute value. -/
  | iabs (f : Fields)
  /-- INEG (R93): Integer negation. -/
  | ineg (f : Fields)
  /-- AND (R98): Bitwise and. -/
  | and (f : Fields)
  /-- OR (R98): Bitwise or. -/
  | or (f : Fields)
  /-- XOR (R98): Bitwise exclusive or. -/
  | xor (f : Fields)
  /-- ANDN (R98): Bitwise a and not b. -/
  | andn (f : Fields)
  /-- ORN (R98): Bitwise a or not b. -/
  | orn (f : Fields)
  /-- BLUT (R99): Three-input bitwise look-up through an 8-bit truth table. -/
  | blut (f : Fields)
  /-- SHL (R100): Shift left with zero fill. -/
  | shl (f : Fields)
  /-- SHR (R100): Logical shift right with zero fill. -/
  | shr (f : Fields)
  /-- SAR (R100): Arithmetic shift right. -/
  | sar (f : Fields)
  /-- DSH (R101): Returns one word of a shifted 64-bit value formed from two registers. -/
  | dsh (f : Fields)
  /-- BFX (R102): Extracts a bit field, sign- or zero-extended. -/
  | bfx (f : Fields)
  /-- BFI (R102): Inserts a bit field into a base value. -/
  | bfi (f : Fields)
  /-- POPC (R103): Counts set bits. -/
  | popc (f : Fields)
  /-- CLZ (R103): Counts leading zero bits. -/
  | clz (f : Fields)
  /-- BREV (R103): Reverses the bit order. -/
  | brev (f : Fields)
  /-- PRMB (R104): Permutes bytes of two sources by a selector, with sign replication. -/
  | prmb (f : Fields)
  /-- ICMP (R105): Integer compare writing a predicate. -/
  | icmp (f : Fields)
  /-- SEL (R106): Selects one of two sources by a predicate. -/
  | sel (f : Fields)
  /-- MOV (R107): Copies 32, 64 or 128 bits unchanged. -/
  | mov (f : Fields)
  /-- MOVI (R108): Moves an immediate into a register. -/
  | movi (f : Fields)
  /-- LEA (R109): Computes a memory-operand address without accessing memory. -/
  | lea (f : Fields)
  /-- MOVS (R112): Reads a special value such as thread coordinates, ARGS or SPORD. -/
  | movs (f : Fields)
  /-- PLOG (R110): Computes a predicate from three predicates through a truth table. -/
  | plog (f : Fields)
  /-- PGET (R111): Copies the predicates into a register. -/
  | pget (f : Fields)
  /-- PSET (R111): Sets masked predicates from register bits. -/
  | pset (f : Fields)
  /-- BRA (R114): Branches to a PC-relative target. -/
  | bra (f : Fields)
  /-- BRX (R114): Branches to an address held in a register pair. -/
  | brx (f : Fields)
  /-- CALL (R114): Sets LNK and branches to a PC-relative target. -/
  | call (f : Fields)
  /-- CALLX (R114): Sets LNK and branches to a register target. -/
  | callx (f : Fields)
  /-- RET (R115): Branches to LNK or a register target. -/
  | ret (f : Fields)
  /-- LOOP (R116): Pushes a loop-stack entry with a trip count or branches to the exit when the count is zero. -/
  | loop (f : Fields)
  /-- ENDL (R116): Decrements the top loop count and branches back or pops. -/
  | endl (f : Fields)
  /-- EXIT (R117): Ends the thread, dropping it from barriers, collectives and rounds. -/
  | exit (f : Fields)
  /-- NOP (R118): Does nothing; may be a safe point. -/
  | nop (f : Fields)
  /-- FGROW (R119): Grows the frame through the Pool Allocator, waiting or failing. -/
  | fgrow (f : Fields)
  /-- FSHRK (R119): Shrinks the frame after pending loads to removed registers return. -/
  | fshrk (f : Fields)
  /-- OCFIL (R120): Requests operand-cache fills of named registers. -/
  | ocfil (f : Fields)
  /-- OCDROP (R120): Marks named registers dead and frees their entries. -/
  | ocdrop (f : Fields)
  /-- OCSYNC (R121): Writes every dirty live operand-cache entry back to the frame. -/
  | ocsync (f : Fields)
  /-- PAIR_WORD (R47): Executes two half instructions as one, reading all sources before writing. -/
  | pairWord (a b : Half)
  /-- FADD (R126): FP32 add rounded once. -/
  | fadd (f : Fields)
  /-- FSUB (R126): FP32 subtract rounded once. -/
  | fsub (f : Fields)
  /-- FMUL (R126): FP32 multiply rounded once. -/
  | fmul (f : Fields)
  /-- FFMA (R126): FP32 fused multiply-add rounded once. -/
  | ffma (f : Fields)
  /-- FDIV (R126): FP32 or FP64 divide rounded once. -/
  | fdiv (f : Fields)
  /-- DADD (R126): FP64 add. -/
  | dadd (f : Fields)
  /-- DMUL (R126): FP64 multiply. -/
  | dmul (f : Fields)
  /-- DFMA (R126): FP64 fused multiply-add. -/
  | dfma (f : Fields)
  /-- PKADD (R126): Packed FP16/BF16 add per element. -/
  | pkadd (f : Fields)
  /-- PKMUL (R126): Packed FP16/BF16 multiply per element. -/
  | pkmul (f : Fields)
  /-- PKFMA (R126): Packed FP16/BF16 fused multiply-add per element. -/
  | pkfma (f : Fields)
  /-- FMIN (R127): Floating-point minimumNumber. -/
  | fmin (f : Fields)
  /-- FMAX (R127): Floating-point maximumNumber. -/
  | fmax (f : Fields)
  /-- FCMP (R128): FP32 compare writing a predicate. -/
  | fcmp (f : Fields)
  /-- DCMP (R128): FP64 compare writing a predicate. -/
  | dcmp (f : Fields)
  /-- FCLS (R129): Writes a one-hot class of a floating-point operand. -/
  | fcls (f : Fields)
  /-- FRCP (R130): Correctly rounded reciprocal. -/
  | frcp (f : Fields)
  /-- FRSQ (R130): Correctly rounded reciprocal square root. -/
  | frsq (f : Fields)
  /-- FSQRT (R130): Correctly rounded square root. -/
  | fsqrt (f : Fields)
  /-- FEX2 (R130): Correctly rounded 2^a. -/
  | fex2 (f : Fields)
  /-- FLG2 (R130): Correctly rounded log2 a. -/
  | flg2 (f : Fields)
  /-- FSIN (R130): Correctly rounded sine. -/
  | fsin (f : Fields)
  /-- FCOS (R130): Correctly rounded cosine. -/
  | fcos (f : Fields)
  /-- FRND (R131): Rounds to an integral value in the same format. -/
  | frnd (f : Fields)
  /-- F2I (R133): Converts float to integer with range check. -/
  | f2i (f : Fields)
  /-- I2F (R134): Converts integer to float. -/
  | i2f (f : Fields)
  /-- F2F (R135): Converts between floating-point formats. -/
  | f2f (f : Fields)
  /-- SCLQ (R136): Divides by a scale and rounds once to a narrow type. -/
  | sclq (f : Fields)
  /-- BPACK (R137): Packs one bit of 32 bytes into a plane word. -/
  | bpack (f : Fields)
  /-- BPEXT (R138): Reconstructs one element from leading plane words. -/
  | bpext (f : Fields)
  /-- LD (R123): Loads bytes from memory, plain or acquire, with hints. -/
  | ld (f : Fields)
  /-- ST (R123): Stores bytes to memory, plain or release. -/
  | st (f : Fields)
  /-- ATOM (R229): Atomic read-modify-write at the home slice or pool, returning the old value. -/
  | atom (f : Fields)
  /-- ACAS (R230): Atomic compare and swap. -/
  | acas (f : Fields)
  /-- RED (R232): Atomic reduction to memory returning only an optional tag. -/
  | red (f : Fields)
  /-- FENCE (R234): Acquire, release or full fence at a scope. -/
  | fence (f : Fields)
  /-- FENCE_CODE (R235): Waits for stores to be acknowledged and discards the instruction cache, loop buffers and pre-decode. -/
  | fenceCode (f : Fields)
  /-- PREF (R236): Prefetches a line into the named levels with a hint. -/
  | pref (f : Fields)
  /-- LDEM (R237): Demotes a resident line's eviction priority. -/
  | ldem (f : Fields)
  /-- PGROW (R238): Grows the workgroup's scratchpad through the Pool Allocator. -/
  | pgrow (f : Fields)
  /-- PSHRK (R239): Shrinks the scratchpad once claims, engine writes and accesses to the range are done. -/
  | pshrk (f : Fields)
  /-- PQRY (R240): Returns a snapshot of pool occupancy. -/
  | pqry (f : Fields)
  /-- RCLEAN (R241): Waits until stores to a region are acknowledged. -/
  | rclean (f : Fields)
  /-- RINV (R241): Invalidates L1 lines overlapping a region. -/
  | rinv (f : Fields)
  /-- BAR (R170): Arrives at a barrier and waits for the generation to complete. -/
  | bar (f : Fields)
  /-- BARA (R170): Arrives at a barrier without waiting. -/
  | bara (f : Fields)
  /-- BARW (R170): Waits for the generation the thread arrived in. -/
  | barw (f : Fields)
  /-- PCOLL (R174): Warp predicate collective: and, or, same or gather. -/
  | pcoll (f : Fields)
  /-- LXCH (R175): Warp lane exchange of 32-bit values. -/
  | lxch (f : Fields)
  /-- MATCH (R176): Returns the mask of warp members with an equal value. -/
  | matchLanes (f : Fields)
  /-- REDH (R177): Contributes a value to a harvest reduction. -/
  | redh (f : Fields)
  /-- HGET (R178): Waits for a harvest sequence and reads its value to an s-register. -/
  | hget (f : Fields)
  /-- PAUSE (R179): Lowers the thread's issue level for n cycles. -/
  | pause (f : Fields)
  /-- SUSPEND (R180): Suspends the thread until an event counter reaches a target. -/
  | suspend (f : Fields)
  /-- EVADD (R181): Atomically adds to a workgroup event counter. -/
  | evadd (f : Fields)
  /-- EVGET (R181): Reads a workgroup event counter. -/
  | evget (f : Fields)
  /-- CDECL (R182): Declares or releases a convergence register of the section. -/
  | cdecl (f : Fields)
  /-- ACP (R303): Pushes a per-thread copy from device memory to scratchpad with a batch tag. -/
  | acp (f : Fields)
  /-- TAGW (R305): Waits until a batch tag counter falls to a bound. -/
  | tagw (f : Fields)
  /-- CPY (R306): Pushes a descriptor tensor copy to a copy channel. -/
  | cpy (f : Fields)
  /-- WPTR (R307): Reads a write pointer as an acquire. -/
  | wptr (f : Fields)
  /-- SCPY (R310): Signs a scale-memory load command. -/
  | scpy (f : Fields)
  /-- MLDW (R311): Signs a shadow-plane weight load command. -/
  | mldw (f : Fields)
  /-- MSWP (R312): Signs a stationary/shadow plane swap command. -/
  | mswp (f : Fields)
  /-- MMUL (R313): Signs a matrix multiply command. -/
  | mmul (f : Fields)
  /-- MOUT (R315): Signs an accumulator drain command. -/
  | mout (f : Fields)
  /-- MZERO (R312): Signs an accumulator clear command. -/
  | mzero (f : Fields)
  /-- QFENCE (R316): Places fence entries in the named queues. -/
  | qfence (f : Fields)
  /-- GUARD (R317): Opens a guard slot. -/
  | guard (f : Fields)
  /-- GRES (R317): Resolves an open guard slot true or false, releasing or discarding held commands. -/
  | gres (f : Fields)
  /-- WAIT (R318): Waits until the outstanding-operation counters are within bounds. -/
  | wait (f : Fields)
  /-- TKPUSH (R319): Reads a task record and pushes it to the TK queue. -/
  | tkpush (f : Fields)
  /-- TKPOP (R321): Pushes a task pop command to the TK queue. -/
  | tkpop (f : Fields)
  /-- TKDONE (R322): Pushes a task completion command to the TK queue. -/
  | tkdone (f : Fields)
  /-- SQCFG (R323): Pushes a sequencer region-configuration command. -/
  | sqcfg (f : Fields)
  /-- SQSIG (R323): Pushes a sequencer signature command. -/
  | sqsig (f : Fields)
  /-- SQCMP (R323): Pushes a sequencer compare command. -/
  | sqcmp (f : Fields)
  /-- SQMAP (R323): Pushes a skip-map write-out command. -/
  | sqmap (f : Fields)
  /-- SQSTEP (R323): Pushes a step dispatch command. -/
  | sqstep (f : Fields)
  /-- VSWPT (R299): Collective variant switch point that may move the workgroup to another variant. -/
  | vswpt (f : Fields)
  /-- TRAP (R373): Takes a software trap with a code. -/
  | trap (f : Fields)
  /-- BKPT (R373): Takes a breakpoint trap with a code. -/
  | bkpt (f : Fields)
  /-- TRET (R334): Checks the trap frame and returns from a trap. -/
  | tret (f : Fields)
  /-- CKPT (R375): Requests a checkpoint, optionally waiting for it. -/
  | ckpt (f : Fields)
  /-- SRD (R376): Reads a system register. -/
  | srd (f : Fields)
  /-- SWR (R377): Writes a system register field by field. -/
  | swr (f : Fields)
  /-- BARSTALL_WRITE (R378): A write to BARSTALL re-compares every running stall count with the new limit. -/
  | barstallWrite (core : Nat) (value : Word)
  /-- POOLWAIT_WRITE (R378): A write to POOLWAIT re-compares waiting requests with the new limit. -/
  | poolwaitWrite (core : Nat) (value : Word)
  /-- CKPTINT_WRITE (R378): A write to CKPTINT reschedules the next periodic checkpoint request. -/
  | ckptintWrite (fn : Nat) (value : Word)
  /-- POOLCFG_WRITE (R191): A write to POOLCFG resizes the L1 and may drop duplicates. -/
  | poolcfgWrite (core : Nat) (value : Word)
  /-- TRACESTAT_WRITE (R361): A write to TRACESTAT clears STOP and resumes trace writing. -/
  | tracestatWrite (fn : Nat) (value : DWord)
  /-- TMARK (R379): Writes a trace mark record when enabled. -/
  | tmark (f : Fields)
  /-- CSUMR (R380): Reads the workgroup's latest barrier checksum. -/
  | csumr (f : Fields)
  /-- IDLE (R381): Waits for n cycles or a wake event. -/
  | idle (f : Fields)
  /-- NPUT (R414): Pushes a network put command. -/
  | nput (f : Fields)
  /-- NGET (R414): Pushes a network get command. -/
  | nget (f : Fields)
  /-- NSIG (R414): Pushes a network signal command. -/
  | nsig (f : Fields)
  /-- NWAIT (R416): Waits until a memory word reaches a target, then acquires at .sys. -/
  | nwait (f : Fields)
  /-- LOAD_DATA_RETURN (R123): Returned load data writes its destination and lowers the ld counter. -/
  | loadDataReturn (id : Nat)
  /-- STORE_ACKNOWLEDGE (R225): A home-slice acknowledgement with sequence tag lowers the st counter. -/
  | storeAcknowledge (id : Nat)
  /-- HOME_SLICE_ACCESS (R203): A home slice performs an arriving store, atomic, reduction or fill in arrival order. -/
  | homeSliceAccess (id : Nat)
  /-- OPERAND_CACHE_FILL (R14): A Frame Engine fill of an operand-cache entry completes. -/
  | operandCacheFill (thread reg : Nat)
  /-- REGROUP_BOUNDARY (R142): Every fourth cycle the Bundle Former rebuilds the bundles of each slot. -/
  | regroupBoundary (core : Nat)
  /-- PAUSE_EXPIRY (R161): A pause ends and the thread returns to its workgroup's level. -/
  | pauseExpiry (thread : Nat)
  /-- IDLE_WAKE (R381): An idling thread's count expires. -/
  | idleWake (thread : Nat)
  /-- BARRIER_STALL (R155): A barrier count reaches BARSTALL, trapping waiters and withdrawing arrivals. -/
  | barrierStall (wg bar : Nat)
  /-- COLLECTIVE_STALL (R173): A warp collective times out and its arrived members trap. -/
  | collectiveStall (wg warp : Nat) (pc : DWord)
  /-- HGET_STALL (R178): A waiting HGET times out with BARRIER_STALL. -/
  | hgetStall (thread : Nat)
  /-- VSWPT_STALL (R324): A switch-point wait times out with BARRIER_STALL. -/
  | vswptStall (wg : Nat)
  /-- SIGNING_ROUND_COMPLETE (R271): The last signature completes a round and its command enters MX when there is room. -/
  | signingRoundComplete (sect cn : Nat)
  /-- SIGNING_ROUND_DISCARD (R272): An open signing round times out and is discarded. -/
  | signingRoundDiscard (sect cn : Nat)
  /-- POOL_GRANT (R187): The oldest wait-list request becomes free to grant and is granted. -/
  | poolGrant (core : Nat)
  /-- POOL_WAIT_TIMEOUT (R187): A wait-list request reaches POOLWAIT and fails. -/
  | poolWaitTimeout (core thread : Nat)
  /-- CLAIM_RELEASE (R198): A store held by an engine claim is released when the read pointer passes it. -/
  | claimRelease (id : Nat)
  /-- WORKGROUP_PLACEMENT (R165): The dispatcher places a workgroup or cohort when resources fit. -/
  | workgroupPlacement (launch : Nat)
  /-- LAUNCH_ADMISSION (R166): The dispatcher tests a launch against an empty partition and admits or rejects it. -/
  | launchAdmission (launch : Nat)
  /-- DOWN_REQUEST (R298): A wait-list request aged 1,024 cycles posts a variant down request. -/
  | downRequest (core : Nat)
  /-- UP_REQUEST (R298): An empty wait list with free granules posts a variant up request. -/
  | upRequest (core : Nat)
  /-- QUADRANT_TENURE_GRANT (R270): A freed quadrant and step sequencer pass to the oldest waiting cohort. -/
  | quadrantTenureGrant (sect : Nat)
  /-- PAGE_REQUEST_COMPLETE (R209): A page request entry completes, re-executing parked threads and retrying retry lists. -/
  | pageRequestComplete (die entry : Nat)
  /-- COMMAND_COMPLETE (R246): An engine command completes and pushes its completion word. -/
  | commandComplete (q : QRef)
  /-- CPY_COMMAND (R256): The Copy Engine begins and runs a tensor copy. -/
  | cpyCommand (wg ch steps : Nat)
  /-- ACP_COMMAND (R258): CP1 runs a per-thread copy with zero fill. -/
  | acpCommand (wg : Nat)
  /-- SCPY_COMMAND (R275): The Matrix Engine writes scale memory. -/
  | scpyCommand (cohort : Nat)
  /-- MLDW_COMMAND (R276): The Matrix Engine loads the shadow plane. -/
  | mldwCommand (cohort : Nat)
  /-- MSWP_COMMAND (R277): The Matrix Engine exchanges the stationary and shadow planes. -/
  | mswpCommand (cohort : Nat)
  /-- MMUL_COMMAND (R279): The Matrix Engine streams activation rows into an accumulator bank. -/
  | mmulCommand (cohort : Nat)
  /-- MOUT_COMMAND (R281): The Matrix Engine drains a bank region to scratchpad. -/
  | moutCommand (cohort : Nat)
  /-- MZERO_COMMAND (R282): The Matrix Engine clears a bank. -/
  | mzeroCommand (cohort : Nat)
  /-- FUSED_COMMAND_JOIN (R283): Partner heads match and a fused command begins in all quadrants, or all complete BADDESC. -/
  | fusedCommandJoin (cohort : Nat)
  /-- SQCFG_COMMAND (R291): The step sequencer loads a region descriptor into a slot. -/
  | sqcfgCommand (cohort : Nat)
  /-- SQSIG_COMMAND (R292): The step sequencer computes pending tile signatures. -/
  | sqsigCommand (cohort : Nat)
  /-- SQCMP_COMMAND (R293): The step sequencer decides which tiles are skipped. -/
  | sqcmpCommand (cohort : Nat)
  /-- SQSTEP_COMMAND (R294): The step sequencer pushes or completes each tile's record. -/
  | sqstepCommand (cohort : Nat)
  /-- SQMAP_COMMAND (R295): The step sequencer writes the skip map to memory. -/
  | sqmapCommand (cohort : Nat)
  /-- TKPUSH_COMMAND (R261): The TQC places a pushed record and writes the status predicate. -/
  | tkpushCommand (wg : Nat)
  /-- TKPOP_COMMAND (R262): The TQC pops the highest-priority record into scratchpad or reports EMPTY. -/
  | tkpopCommand (wg : Nat)
  /-- TKDONE_COMMAND (R264): The TQC cleans regions, decrements the successor join and may release the successor. -/
  | tkdoneCommand (wg : Nat)
  /-- NPUT_COMMAND (R415): The Network Engine sends RMA writes of a local range. -/
  | nputCommand (wg : Nat)
  /-- NGET_COMMAND (R415): The Network Engine reads a remote range into local memory. -/
  | ngetCommand (wg : Nat)
  /-- NSIG_COMMAND (R415): The Network Engine sends an ordered remote max or add atomic. -/
  | nsigCommand (wg : Nat)
  /-- CHECKPOINT_REQUEST (R342): The periodic interval expires and a checkpoint is requested. -/
  | checkpointRequest (fn : Nat)
  /-- FORCED_CHECKPOINT (R347): The undo area falls below a quarter free and a checkpoint is forced. -/
  | forcedCheckpoint (fn : Nat)
  /-- CHECKPOINT_FORMATION (R344): All threads gathered and engines held, the state image is written and the epoch closes. -/
  | checkpointFormation (fn : Nat)
  /-- CHECKPOINT_LAPSE (R348): A checkpoint request not formed within 17,000 cycles is abandoned. -/
  | checkpointLapse (fn : Nat)
  /-- DEBUG_BREAKPOINT (R358): The target thread reaches the breakpoint ordinal and a debug checkpoint and halt follow. -/
  | debugBreakpoint (core : Nat)
  /-- SLICE_END (R352): A time slice ends and the partition is checkpointed or rolled back and switched out. -/
  | sliceEnd (fn : Nat)
  /-- ROLLBACK (R351): The context returns to its latest checkpoint by undo log and restore. -/
  | rollback (image : ImageUse)
  /-- RESTORE (R353): A switched-in context is rebuilt from its state image. -/
  | restore (fn : Nat) (sound : Bool)
  /-- RESIDUE_DRAIN (R387): Every 4,096 cycles one residue granule returns to the Pool Allocator. -/
  | residueDrain (core : Nat)
  /-- CONTEXT_FAULT (R338): A context fault raises the partition's halt line. -/
  | contextFault (fn code unit : Nat)
  /-- PARTITION_HALTED (R338): Every unit has stopped and written its stop record; the fault is reported. -/
  | partitionHalted (fn : Nat)
  /-- SLICE_TAG_ERROR (R354): A home-slice tag error invalidates a set and may raise POSSIBLE_DATA_LOSS. -/
  | sliceTagError (slice set : Nat) (lines : List Nat)
  /-- TRACE_SAMPLE (R362): The sampling period expires and a sample record is written. -/
  | traceSample (core : Nat)
  /-- REPLAY_START (R370): Setting RECCTL to replay rolls back and replays logged order. -/
  | replayStart (image : ImageUse) (older : Bool)
  /-- RECORD_START (R367): Setting RECCTL to record starts order logging and disables L1 load service. -/
  | recordStart (fn : Nat) (area : DWord)
  /-- NOTIFY_WRITE (R397): A write to a notify register wakes the mapped Foreman thread. -/
  | notifyWrite (dest : EndpointName) (slot : NotifySlot) (value : DWord)
  /-- APPEND_CONSUME (R399): The mapped thread checks stamps and consumes submission slots. -/
  | appendConsume (fn q : Nat)
  /-- STAMP_REREAD (R399): A stamp re-read retry after a mismatch, ending in TORN_APPEND after 2 us. -/
  | stampReread (fn q : Nat)
  /-- FOREMAN_TIMER (R389): A wait-packet timer expires and the Foreman thread runs. -/
  | foremanTimer (hw : Nat)
  /-- QUEUE_CREATE (R397): QCTL create checks and creates a queue. -/
  | queueCreate (fn q : Nat)
  /-- QUEUE_DESTROY (R397): QCTL destroy removes a queue once empty. -/
  | queueDestroy (fn q : Nat)
  /-- QUEUE_RESET (R397): QCTL reset clears an error status and resumes. -/
  | queueReset (fn q : Nat)
  /-- CONTEXT_TEAR_DOWN (R397): CTXCMD 1 tears the context down. -/
  | contextTearDown (fn : Nat)
  /-- CONTEXT_ROLL_BACK (R397): CTXCMD 2 rolls the context back. -/
  | contextRollBack (image : ImageUse)
  /-- CONTEXT_START (R349): CTXCMD 3 starts a context and forms its initial checkpoint. -/
  | contextStart (fn : Nat)
  /-- TLBINV_PAGE (R397): Invalidates one tenant-stage page. -/
  | tlbinvPage (fn page : Nat)
  /-- TLBINV_ALL (R397): Invalidates all tenant-stage entries. -/
  | tlbinvAll (fn : Nat)
  /-- HYP_TLBINV (R397): Invalidates hypervisor-stage entries of a function. -/
  | hypTlbinv (fn page : Nat) (all : Bool)
  /-- VFCTL_WRITE (R393): A write setting or clearing EN enables or disables a function after checks. -/
  | vfctlWrite (fn : Nat) (value : DWord)
  /-- VFBAND_WRITE (R401): A VFBAND write is accepted or refused against floor limits. -/
  | vfbandWrite (fn : Nat) (value : Word)
  /-- MGMT_REGISTER_WRITE (R391): A write to a management register without behaviour of its own. -/
  | mgmtRegisterWrite (offset : Nat) (value : DWord)
  /-- BANDWIDTH_WINDOW (R401): A channel window of 8,192 ticks ends and grants are recomputed. -/
  | bandwidthWindow (channel : Nat) (demand : Tbl Nat)
  /-- INBOUND_RMA_WRITE (R412): An inbound RMA write is translated and performed at the home slice. -/
  | inboundRmaWrite (dest : EndpointName) (job : Word) (addr : DWord) (bytes : List Byte)
  /-- INBOUND_RMA_READ (R412): An inbound RMA read is translated and served. -/
  | inboundRmaRead (dest : EndpointName) (job : Word) (addr : DWord) (len : Nat)
  /-- INBOUND_ATOMIC (R412): An inbound atomic is performed in one step at its home slice. -/
  | inboundAtomic (dest : EndpointName) (job : Word) (addr : DWord) (max : Bool) (value : DWord)
  /-- FIRMWARE_HANDOVER_LOAD (R407): Loads an incoming firmware image beside the running one. -/
  | firmwareHandoverLoad (version : DWord) (measurement : List Byte)
  /-- BLUORD_FLIT (R410): A Bluord flit arrives, is checked and delivered or replayed. -/
  | bluordFlit (die lane : Nat) (flit : Flit)
  /-- START (R420): A reset begins a start through the boot stages. -/
  | start (outcome : StartOutcome)
  /-- BOOTCMD_WRITE (R421): Writing 1 to BOOTCMD makes the next start a full start. -/
  | bootcmdWrite (value : DWord)
  /-- ERROR_DETECTED (R422): A detected error is counted and may mark the unit SUSPECT. -/
  | errorDetected (unit : Nat) (error : ErrorSeen)
  /-- SELF_TEST_BEGIN (R422): A targeted self-test of a SUSPECT unit begins once no context uses it. -/
  | selfTestBegin (unit : Nat)
  /-- SELF_TEST_END (R422): A self-test ends TRANSIENT or LASTING, retiring the unit if lasting. -/
  | selfTestEnd (unit : Nat) (lasting : Bool)
  /-- LOOP_SETPOINT_WRITE (R423): A write to an adaptive-loop register sets its setpoint and enable. -/
  | loopSetpointWrite (offset : Nat) (value : DWord)
  /-- RBCMD_WRITE (R425): A read-back command requests an object for delivery. -/
  | rbcmdWrite (value : DWord)
  /-- ILLEGAL_INSTRUCTION (R48): A fetched word whose opcode is unassigned, in class 7, 0x000, or in a form its Ext column excludes raises ILLEGAL_INSTRUCTION and moves nothing else. -/
  | illegalInstruction (word : DWord)
  /-- FETCH_FAULT (R26): The PC reaches an instruction whose bytes cannot be fetched and ACCESS_VIOLATION or a translation fault is raised before any part of it takes effect. -/
  | fetchFault (first : Nat) (recoverable : Bool) (kind : Nat)
  /-- PEER_RESPONSE (R415): A UET acknowledgement, read response, trimmed packet or error from a peer arrives for an outstanding NPUT, NGET or NSIG. -/
  | peerResponse (id : Nat) (r : PeerAnswer)
  /-- TRANSFER_ABANDONED (R415): UET abandons a transfer after its retries, and the network command completes with FAULT. -/
  | transferAbandoned (id n : Nat)
  /-- UNDO_ENTRY_ACCEPTED (R345): The undo log accepts an entry, and the write held at the home slice or pool takes effect, or UNDO_FAIL is raised. -/
  | undoEntryAccepted (id : Nat) (accepted : Bool)
  /-- ADAPTIVE_LOOP_ACTION (R423): An enabled adaptive loop adjusts its current value, and for BARSTALL and POOLWAIT writes the running context's register. -/
  | adaptiveLoopAction (loop : Nat) (value : DWord)
  /-- SPDM_GET_VERSION (R406): Answers an SPDM GET_VERSION request. -/
  | spdmGetVersion
  /-- SPDM_GET_CAPABILITIES (R406): Answers an SPDM GET_CAPABILITIES request. -/
  | spdmGetCapabilities
  /-- SPDM_NEGOTIATE_ALGORITHMS (R406): Answers an SPDM NEGOTIATE_ALGORITHMS request. -/
  | spdmNegotiateAlgorithms
  /-- SPDM_GET_DIGESTS (R406): Answers an SPDM GET_DIGESTS request. -/
  | spdmGetDigests
  /-- SPDM_GET_CERTIFICATE (R406): Answers an SPDM GET_CERTIFICATE request. -/
  | spdmGetCertificate
  /-- SPDM_CHALLENGE (R406): Answers an SPDM CHALLENGE request. -/
  | spdmChallenge
  /-- SPDM_GET_MEASUREMENTS (R407): Returns measurement blocks describing one firmware state. -/
  | spdmGetMeasurements
  /-- SPDM_KEY_EXCHANGE (R406): Answers an SPDM KEY_EXCHANGE request. -/
  | spdmKeyExchange
  /-- SPDM_FINISH (R406): Answers an SPDM FINISH request. -/
  | spdmFinish
  /-- SPDM_END_SESSION (R406): Answers an SPDM END_SESSION request. -/
  | spdmEndSession
  /-- FIRMWARE_HANDOVER_COMMIT (R407): Commits the incoming firmware image after pending responses. -/
  | firmwareHandoverCommit
  /-- START_TIMEOUT (R420): A start not at stage 7 within 30 s ends with 0x7F. -/
  | startTimeout
  /-- READBACK_DELIVER (R425): The Foreman delivers the read-back object and a kind-7 event. -/
  | readbackDeliver
  deriving DecidableEq, Repr

/-- Whose move is next: a slot of a core issues (R163), a device step happens, cycles of a
function's partition pass (R5), a tagged send brings an SPDM request (R406), or a thread's fetch unit reads
so many instructions of the run ahead of its program counter (R25). -/
inductive Turn where
  | issue (core slot : Nat)
  | event (i : Instr)
  | cycles (fn n : Nat)
  | request (bytes : List Byte)
  | readAhead (thread n : Nat)
  deriving DecidableEq, Repr

end Sys2Proof
end

