-- ==== Sys2Proof/Decode.lean ====
section
/-! DEFINITION. From instruction words to `Instr` and back (R29-R48). `decode` is total: a word that is
no instruction decodes to `illegalInstruction`, whose meaning is its trap (R49). Checks that need the
running frame size or an entry's field rules are made when the instruction executes, in the order of
R50; they are in Machine/Operands.lean. -/

namespace Sys2Proof

/-- Extension words that the form bits announce (R29). -/
def formExt (form : BitVec 2) : Nat :=
  if form = 0b10#2 then 1 else if form = 0b11#2 then 2 else 0

/-- The bytes of an instruction whose first word is `w` (R29, R30). -/
def wordLength (w : DWord) : Nat := 8 + 8 * formExt (w.extractLsb' 62 2)

/-- A row of the opcode map (R48): opcode, the most extension words, the instruction. -/
abbrev OpRow := Nat × Nat × (Fields → Instr)

/-- Opcodes of class 0, integer and logic (R48). -/
def opcodes0 : List OpRow :=
  [(0x001, 1, Instr.iadd), (0x002, 1, Instr.isub), (0x003, 1, Instr.iaddc),
   (0x004, 1, Instr.isubb), (0x005, 1, Instr.imul), (0x006, 1, Instr.imulh),
   (0x007, 1, Instr.imad), (0x008, 1, Instr.imadw), (0x009, 1, Instr.idiv),
   (0x00A, 1, Instr.irem), (0x00B, 1, Instr.imin), (0x00C, 1, Instr.imax)] ++
  [(0x00D, 0, Instr.iabs), (0x00E, 0, Instr.ineg), (0x010, 1, Instr.and),
   (0x011, 1, Instr.or), (0x012, 1, Instr.xor), (0x013, 1, Instr.andn),
   (0x014, 1, Instr.orn), (0x015, 1, Instr.blut), (0x018, 1, Instr.shl),
   (0x019, 1, Instr.shr), (0x01A, 1, Instr.sar), (0x01B, 1, Instr.dsh)] ++
  [(0x01C, 1, Instr.bfx), (0x01D, 1, Instr.bfi), (0x020, 0, Instr.popc),
   (0x021, 0, Instr.clz), (0x022, 0, Instr.brev), (0x023, 1, Instr.prmb),
   (0x028, 1, Instr.icmp), (0x029, 1, Instr.sel), (0x030, 0, Instr.mov),
   (0x031, 1, Instr.movi), (0x032, 1, Instr.lea), (0x033, 0, Instr.movs)] ++
  [(0x038, 0, Instr.plog), (0x039, 0, Instr.pget), (0x03A, 0, Instr.pset)]

/-- Opcodes of class 1, control and frame (R48). -/
def opcodes1 : List OpRow :=
  [(0x080, 1, Instr.bra), (0x081, 0, Instr.brx), (0x082, 1, Instr.call),
   (0x083, 0, Instr.callx), (0x084, 0, Instr.ret), (0x088, 1, Instr.loop),
   (0x089, 0, Instr.endl), (0x08C, 0, Instr.exit), (0x08D, 2, Instr.nop),
   (0x090, 0, Instr.fgrow), (0x091, 0, Instr.fshrk), (0x098, 0, Instr.ocfil)] ++
  [(0x099, 0, Instr.ocdrop), (0x09A, 0, Instr.ocsync)]

/-- Opcodes of class 2, floating point (R48). -/
def opcodes2 : List OpRow :=
  [(0x100, 1, Instr.fadd), (0x101, 1, Instr.fsub), (0x102, 1, Instr.fmul),
   (0x103, 1, Instr.ffma), (0x104, 1, Instr.fmin), (0x105, 1, Instr.fmax),
   (0x106, 1, Instr.fcmp), (0x107, 0, Instr.fcls), (0x108, 0, Instr.frcp),
   (0x109, 0, Instr.frsq), (0x10A, 0, Instr.fsqrt), (0x10B, 1, Instr.fdiv)] ++
  [(0x10C, 0, Instr.fex2), (0x10D, 0, Instr.flg2), (0x10E, 0, Instr.fsin),
   (0x10F, 0, Instr.fcos), (0x110, 0, Instr.frnd), (0x111, 0, Instr.f2i),
   (0x112, 0, Instr.i2f), (0x113, 0, Instr.f2f), (0x118, 1, Instr.pkadd),
   (0x119, 1, Instr.pkmul), (0x11A, 1, Instr.pkfma), (0x120, 1, Instr.dadd)] ++
  [(0x121, 1, Instr.dmul), (0x122, 1, Instr.dfma), (0x123, 1, Instr.dcmp),
   (0x128, 0, Instr.bpack), (0x129, 0, Instr.bpext), (0x12A, 0, Instr.sclq)]

/-- Opcodes of class 3, memory (R48). -/
def opcodes3 : List OpRow :=
  [(0x180, 1, Instr.ld), (0x181, 1, Instr.st), (0x188, 1, Instr.atom),
   (0x189, 1, Instr.acas), (0x18A, 1, Instr.red), (0x190, 0, Instr.fence),
   (0x191, 1, Instr.pref), (0x192, 1, Instr.ldem), (0x198, 0, Instr.pgrow),
   (0x199, 0, Instr.pshrk), (0x19A, 0, Instr.pqry), (0x1A0, 1, Instr.rclean)] ++
  [(0x1A1, 1, Instr.rinv)]

/-- Opcodes of class 4, parallel (R48). -/
def opcodes4 : List OpRow :=
  [(0x200, 0, Instr.bar), (0x201, 0, Instr.bara), (0x202, 0, Instr.barw),
   (0x208, 0, Instr.pcoll), (0x209, 0, Instr.lxch), (0x20A, 0, Instr.matchLanes),
   (0x210, 0, Instr.redh), (0x211, 0, Instr.hget), (0x218, 0, Instr.pause),
   (0x219, 1, Instr.suspend), (0x21A, 0, Instr.evadd), (0x21B, 0, Instr.evget)] ++
  [(0x220, 1, Instr.cdecl)]

/-- Opcodes of class 5, engines (R48). -/
def opcodes5 : List OpRow :=
  [(0x280, 1, Instr.acp), (0x281, 0, Instr.tagw), (0x282, 1, Instr.cpy),
   (0x283, 0, Instr.wptr), (0x288, 1, Instr.scpy), (0x289, 1, Instr.mldw),
   (0x28A, 0, Instr.mswp), (0x28B, 2, Instr.mmul), (0x28C, 1, Instr.mout),
   (0x28D, 0, Instr.mzero), (0x290, 0, Instr.qfence), (0x291, 0, Instr.guard)] ++
  [(0x292, 0, Instr.gres), (0x293, 0, Instr.wait), (0x298, 0, Instr.tkpush),
   (0x299, 0, Instr.tkpop), (0x29A, 0, Instr.tkdone), (0x2A0, 0, Instr.sqcfg),
   (0x2A1, 0, Instr.sqsig), (0x2A2, 0, Instr.sqcmp), (0x2A3, 0, Instr.sqmap),
   (0x2A4, 0, Instr.sqstep), (0x2A8, 0, Instr.vswpt)]

/-- Opcodes of class 6, system and network (R48). -/
def opcodes6 : List OpRow :=
  [(0x300, 0, Instr.trap), (0x301, 0, Instr.tret), (0x302, 0, Instr.bkpt),
   (0x303, 0, Instr.ckpt), (0x308, 0, Instr.srd), (0x309, 1, Instr.swr),
   (0x30A, 1, Instr.tmark), (0x30B, 0, Instr.csumr), (0x30C, 0, Instr.idle),
   (0x310, 2, Instr.nput), (0x311, 2, Instr.nget), (0x312, 1, Instr.nsig)] ++
  [(0x313, 0, Instr.nwait)]

/-- The opcode map (R48). -/
def opcodes : List OpRow :=
  opcodes0 ++ opcodes1 ++ opcodes2 ++ opcodes3 ++ opcodes4 ++ opcodes5 ++ opcodes6

/-- The row of an opcode. -/
def opRow (opc : Nat) : List OpRow → Option (Nat × (Fields → Instr))
  | [] => none
  | (k, e, c) :: t => if k = opc then some (e, c) else opRow opc t

/-- The fields of a full word (R31) with extension words; a word that the form does not have is 0. -/
def fieldsOf (w e1 e2 : DWord) : Fields :=
  let form := w.extractLsb' 62 2
  { form := form, gp := w.extractLsb' 49 3, gn := w.getLsbD 48, stop := w.getLsbD 47,
    td := w.getLsbD 46, lua := w.getLsbD 45, lub := w.getLsbD 44, luc := w.getLsbD 43,
    dst := w.extractLsb' 35 8, sa := w.extractLsb' 27 8, sb := w.extractLsb' 19 8,
    sc := w.extractLsb' 11 8, mod := w.extractLsb' 0 11,
    ext1 := if formExt form = 0 then 0 else e1, ext2 := if formExt form = 2 then e2 else 0 }

/-- One half of a pair word, from its 31 bits (R44). -/
def halfOf (h : BitVec 31) : Half :=
  { hop := h.extractLsb' 24 7, hd := h.extractLsb' 16 8, hs := h.extractLsb' 8 8,
    lud := h.getLsbD 7, lus := h.getLsbD 6, ht := h.getLsbD 5, imm5 := h.extractLsb' 0 5 }

/-- The instruction that a first word with its extension words encodes (R29, R31, R44, R48). -/
def decode (w e1 e2 : DWord) : Instr :=
  if w.extractLsb' 62 2 = 0b01#2 then
    .pairWord (halfOf (w.extractLsb' 31 31)) (halfOf (w.extractLsb' 0 31))
  else
    let f := fieldsOf w e1 e2
    match opRow (w.extractLsb' 52 10).toNat opcodes with
    | none => .illegalInstruction w
    | some (most, make) =>
      if most < formExt f.form then .illegalInstruction w
      else
        match make f with
        | .fence f => if f.mod.extractLsb' 9 2 = 0#2 then .fenceCode f else .fence f
        | i => i

/-- Bits 64k+63 down to 64k of a number, as the word that the hardware stores k-th (R5, R29). -/
def wordAt (v k : Nat) : DWord := BitVec.ofNat 64 (v / 2 ^ (64 * k))

/-- The little-endian bytes of the first `n` bytes of a number (R5). -/
def bytesOf : Nat → Nat → List Byte
  | 0, _ => []
  | n + 1, v => BitVec.ofNat 8 v :: bytesOf n (v / 256)

/-- The number that bytes hold, the first at the low end (R5). -/
def numberOf : List Byte → Nat
  | [] => 0
  | b :: l => b.toNat + 256 * numberOf l

/-- The instruction that bytes in memory encode, with its length; none when they are too few for the
form that the first word gives. -/
def decodeBytes (l : List Byte) : Option (Instr × Nat) :=
  if l.length < 8 then none
  else
    let w := wordAt (numberOf (l.take 8)) 0
    let n := wordLength w
    if l.length < n then none
    else
      some (decode w (wordAt (numberOf ((l.drop 8).take 8)) 0)
        (wordAt (numberOf ((l.drop 16).take 8)) 0), n)

/-- The decoder on an instruction given as one number, numbered as the opcode table numbers it; bits
from `nbits` up are 0. The bytes are laid out as memory holds them and given to `decodeBytes`. -/
def decodeTableWord (nbits w : Nat) : Option Instr :=
  (decodeBytes (bytesOf 24 (w % 2 ^ nbits))).map (·.1)

/-! ### The encoder -/

/-- The first word of a full instruction (R31). -/
def wordOf (opc : Nat) (f : Fields) : DWord :=
  (f.form ++ BitVec.ofNat 10 opc ++ f.gp ++ BitVec.ofBool f.gn ++ BitVec.ofBool f.stop ++
    BitVec.ofBool f.td ++ BitVec.ofBool f.lua ++ BitVec.ofBool f.lub ++ BitVec.ofBool f.luc ++
    f.dst ++ f.sa ++ f.sb ++ f.sc ++ f.mod : BitVec 64)

/-- The 31 bits of a half (R44). -/
def halfBits (h : Half) : BitVec 31 :=
  (h.hop ++ h.hd ++ h.hs ++ BitVec.ofBool h.lud ++ BitVec.ofBool h.lus ++ BitVec.ofBool h.ht ++
    h.imm5 : BitVec 31)

/-- The words of a full instruction: as many as its form gives (R29). -/
def wordsOf (opc : Nat) (f : Fields) : List DWord :=
  wordOf opc f ::
    (if formExt f.form = 0 then [] else if formExt f.form = 1 then [f.ext1] else [f.ext1, f.ext2])

/-- Opcode and fields of a full instruction (R48); none of a pair word, a word that is no instruction
and a device step. -/
def Instr.code : Instr → Option (Nat × Fields)
  | .iadd f => some (0x001, f)
  | .isub f => some (0x002, f)
  | .iaddc f => some (0x003, f)
  | .isubb f => some (0x004, f)
  | .imul f => some (0x005, f)
  | .imulh f => some (0x006, f)
  | .imad f => some (0x007, f)
  | .imadw f => some (0x008, f)
  | .idiv f => some (0x009, f)
  | .irem f => some (0x00A, f)
  | .imin f => some (0x00B, f)
  | .imax f => some (0x00C, f)
  | .iabs f => some (0x00D, f)
  | .ineg f => some (0x00E, f)
  | .and f => some (0x010, f)
  | .or f => some (0x011, f)
  | .xor f => some (0x012, f)
  | .andn f => some (0x013, f)
  | .orn f => some (0x014, f)
  | .blut f => some (0x015, f)
  | .shl f => some (0x018, f)
  | .shr f => some (0x019, f)
  | .sar f => some (0x01A, f)
  | .dsh f => some (0x01B, f)
  | .bfx f => some (0x01C, f)
  | .bfi f => some (0x01D, f)
  | .popc f => some (0x020, f)
  | .clz f => some (0x021, f)
  | .brev f => some (0x022, f)
  | .prmb f => some (0x023, f)
  | .icmp f => some (0x028, f)
  | .sel f => some (0x029, f)
  | .mov f => some (0x030, f)
  | .movi f => some (0x031, f)
  | .lea f => some (0x032, f)
  | .movs f => some (0x033, f)
  | .plog f => some (0x038, f)
  | .pget f => some (0x039, f)
  | .pset f => some (0x03A, f)
  | .bra f => some (0x080, f)
  | .brx f => some (0x081, f)
  | .call f => some (0x082, f)
  | .callx f => some (0x083, f)
  | .ret f => some (0x084, f)
  | .loop f => some (0x088, f)
  | .endl f => some (0x089, f)
  | .exit f => some (0x08C, f)
  | .nop f => some (0x08D, f)
  | .fgrow f => some (0x090, f)
  | .fshrk f => some (0x091, f)
  | .ocfil f => some (0x098, f)
  | .ocdrop f => some (0x099, f)
  | .ocsync f => some (0x09A, f)
  | .pairWord _ _ => none
  | .fadd f => some (0x100, f)
  | .fsub f => some (0x101, f)
  | .fmul f => some (0x102, f)
  | .ffma f => some (0x103, f)
  | .fdiv f => some (0x10B, f)
  | .dadd f => some (0x120, f)
  | .dmul f => some (0x121, f)
  | .dfma f => some (0x122, f)
  | .pkadd f => some (0x118, f)
  | .pkmul f => some (0x119, f)
  | .pkfma f => some (0x11A, f)
  | .fmin f => some (0x104, f)
  | .fmax f => some (0x105, f)
  | .fcmp f => some (0x106, f)
  | .dcmp f => some (0x123, f)
  | .fcls f => some (0x107, f)
  | .frcp f => some (0x108, f)
  | .frsq f => some (0x109, f)
  | .fsqrt f => some (0x10A, f)
  | .fex2 f => some (0x10C, f)
  | .flg2 f => some (0x10D, f)
  | .fsin f => some (0x10E, f)
  | .fcos f => some (0x10F, f)
  | .frnd f => some (0x110, f)
  | .f2i f => some (0x111, f)
  | .i2f f => some (0x112, f)
  | .f2f f => some (0x113, f)
  | .sclq f => some (0x12A, f)
  | .bpack f => some (0x128, f)
  | .bpext f => some (0x129, f)
  | .ld f => some (0x180, f)
  | .st f => some (0x181, f)
  | .atom f => some (0x188, f)
  | .acas f => some (0x189, f)
  | .red f => some (0x18A, f)
  | .fence f => some (0x190, f)
  | .fenceCode f => some (0x190, f)
  | .pref f => some (0x191, f)
  | .ldem f => some (0x192, f)
  | .pgrow f => some (0x198, f)
  | .pshrk f => some (0x199, f)
  | .pqry f => some (0x19A, f)
  | .rclean f => some (0x1A0, f)
  | .rinv f => some (0x1A1, f)
  | .bar f => some (0x200, f)
  | .bara f => some (0x201, f)
  | .barw f => some (0x202, f)
  | .pcoll f => some (0x208, f)
  | .lxch f => some (0x209, f)
  | .matchLanes f => some (0x20A, f)
  | .redh f => some (0x210, f)
  | .hget f => some (0x211, f)
  | .pause f => some (0x218, f)
  | .suspend f => some (0x219, f)
  | .evadd f => some (0x21A, f)
  | .evget f => some (0x21B, f)
  | .cdecl f => some (0x220, f)
  | .acp f => some (0x280, f)
  | .tagw f => some (0x281, f)
  | .cpy f => some (0x282, f)
  | .wptr f => some (0x283, f)
  | .scpy f => some (0x288, f)
  | .mldw f => some (0x289, f)
  | .mswp f => some (0x28A, f)
  | .mmul f => some (0x28B, f)
  | .mout f => some (0x28C, f)
  | .mzero f => some (0x28D, f)
  | .qfence f => some (0x290, f)
  | .guard f => some (0x291, f)
  | .gres f => some (0x292, f)
  | .wait f => some (0x293, f)
  | .tkpush f => some (0x298, f)
  | .tkpop f => some (0x299, f)
  | .tkdone f => some (0x29A, f)
  | .sqcfg f => some (0x2A0, f)
  | .sqsig f => some (0x2A1, f)
  | .sqcmp f => some (0x2A2, f)
  | .sqmap f => some (0x2A3, f)
  | .sqstep f => some (0x2A4, f)
  | .vswpt f => some (0x2A8, f)
  | .trap f => some (0x300, f)
  | .bkpt f => some (0x302, f)
  | .tret f => some (0x301, f)
  | .ckpt f => some (0x303, f)
  | .srd f => some (0x308, f)
  | .swr f => some (0x309, f)
  | .barstallWrite _ _ => none
  | .poolwaitWrite _ _ => none
  | .ckptintWrite _ _ => none
  | .poolcfgWrite _ _ => none
  | .tracestatWrite _ _ => none
  | .tmark f => some (0x30A, f)
  | .csumr f => some (0x30B, f)
  | .idle f => some (0x30C, f)
  | .nput f => some (0x310, f)
  | .nget f => some (0x311, f)
  | .nsig f => some (0x312, f)
  | .nwait f => some (0x313, f)
  | .loadDataReturn _ => none
  | .storeAcknowledge _ => none
  | .homeSliceAccess _ => none
  | .operandCacheFill _ _ => none
  | .regroupBoundary _ => none
  | .pauseExpiry _ => none
  | .idleWake _ => none
  | .barrierStall _ _ => none
  | .collectiveStall _ _ _ => none
  | .hgetStall _ => none
  | .vswptStall _ => none
  | .signingRoundComplete _ _ => none
  | .signingRoundDiscard _ _ => none
  | .poolGrant _ => none
  | .poolWaitTimeout _ _ => none
  | .claimRelease _ => none
  | .workgroupPlacement _ => none
  | .launchAdmission _ => none
  | .downRequest _ => none
  | .upRequest _ => none
  | .quadrantTenureGrant _ => none
  | .pageRequestComplete _ _ => none
  | .commandComplete _ => none
  | .cpyCommand _ _ _ => none
  | .acpCommand _ => none
  | .scpyCommand _ => none
  | .mldwCommand _ => none
  | .mswpCommand _ => none
  | .mmulCommand _ => none
  | .moutCommand _ => none
  | .mzeroCommand _ => none
  | .fusedCommandJoin _ => none
  | .sqcfgCommand _ => none
  | .sqsigCommand _ => none
  | .sqcmpCommand _ => none
  | .sqstepCommand _ => none
  | .sqmapCommand _ => none
  | .tkpushCommand _ => none
  | .tkpopCommand _ => none
  | .tkdoneCommand _ => none
  | .nputCommand _ => none
  | .ngetCommand _ => none
  | .nsigCommand _ => none
  | .checkpointRequest _ => none
  | .forcedCheckpoint _ => none
  | .checkpointFormation _ => none
  | .checkpointLapse _ => none
  | .debugBreakpoint _ => none
  | .sliceEnd _ => none
  | .rollback _ => none
  | .restore _ _ => none
  | .residueDrain _ => none
  | .contextFault _ _ _ => none
  | .partitionHalted _ => none
  | .sliceTagError _ _ _ => none
  | .traceSample _ => none
  | .replayStart _ _ => none
  | .recordStart _ _ => none
  | .notifyWrite _ _ _ => none
  | .appendConsume _ _ => none
  | .stampReread _ _ => none
  | .foremanTimer _ => none
  | .queueCreate _ _ => none
  | .queueDestroy _ _ => none
  | .queueReset _ _ => none
  | .contextTearDown _ => none
  | .contextRollBack _ => none
  | .contextStart _ => none
  | .tlbinvPage _ _ => none
  | .tlbinvAll _ => none
  | .hypTlbinv _ _ _ => none
  | .vfctlWrite _ _ => none
  | .vfbandWrite _ _ => none
  | .mgmtRegisterWrite _ _ => none
  | .bandwidthWindow _ _ => none
  | .inboundRmaWrite _ _ _ _ => none
  | .inboundRmaRead _ _ _ _ => none
  | .inboundAtomic _ _ _ _ _ => none
  | .firmwareHandoverLoad _ _ => none
  | .bluordFlit _ _ _ => none
  | .start _ => none
  | .bootcmdWrite _ => none
  | .errorDetected _ _ => none
  | .selfTestBegin _ => none
  | .selfTestEnd _ _ => none
  | .loopSetpointWrite _ _ => none
  | .rbcmdWrite _ => none
  | .illegalInstruction _ => none
  | .fetchFault _ _ _ => none
  | .peerResponse _ _ => none
  | .transferAbandoned _ _ => none
  | .undoEntryAccepted _ _ => none
  | .adaptiveLoopAction _ _ => none
  | .spdmGetVersion => none
  | .spdmGetCapabilities => none
  | .spdmNegotiateAlgorithms => none
  | .spdmGetDigests => none
  | .spdmGetCertificate => none
  | .spdmChallenge => none
  | .spdmGetMeasurements => none
  | .spdmKeyExchange => none
  | .spdmFinish => none
  | .spdmEndSession => none
  | .firmwareHandoverCommit => none
  | .startTimeout => none
  | .readbackDeliver => none

/-- The words of an instruction, the first at the lowest address. A device step has none, and a failed
fetch stands for bytes that could not be read. -/
def encode (i : Instr) : List DWord :=
  match i with
  | .pairWord a b => [(0b01#2 ++ halfBits a ++ halfBits b : BitVec 64)]
  | .illegalInstruction w => [w]
  | i =>
    match i.code with
    | some (opc, f) => wordsOf opc f
    | none => []

/-- The decoder on a list of words. -/
def decodeWords : List DWord → Option Instr
  | [] => none
  | [w] => some (decode w 0 0)
  | [w, e1] => some (decode w e1 0)
  | w :: e1 :: e2 :: _ => some (decode w e1 e2)

end Sys2Proof
end

