-- ==== Sys2Proof/Machine/State.lean ====
section
/-! DEFINITION. The state of the W9: everything the manual gives the machine, as plain data. Tables
are sparse (`Tbl`): what a key that is not listed means is said at the table. Numbers that the manual
only counts or compares are `Nat`; register contents, addresses and fields are bit vectors. -/

namespace Sys2Proof.Machine

/-! ### A thread (R6, R113) -/

/-- One operand-cache entry (R13). The list that holds the entries is in use order, latest first. -/
structure OcEntry where
  reg : Nat
  val : Word
  dirty : Bool
  deriving DecidableEq, Repr

/-- A transient value in the bypass network (R19): the results of the thread written since. -/
structure Transient where
  reg : Nat
  val : Word
  age : Nat
  deriving DecidableEq, Repr

/-- A loop-stack entry (R113). -/
structure LoopEntry where
  loop : DWord
  start : DWord
  count : Word
  deriving DecidableEq, Repr

/-- A trap frame (R331). -/
structure TrapFrame where
  rpc : DWord
  iaddr : DWord
  faddr : DWord
  ssw : Word
  fstat : Word
  lnk : DWord
  cause : Word
  detail : Word
  own : Word
  sibling : Word
  parent : Word
  deriving DecidableEq, Repr

/-- Waits that another step ends (R350's wait states). A wait that the thread ends itself, by trying
its instruction again, is a `Stall`. -/
inductive Wait where
  /-- 1: arrived at the barrier, waiting for the open generation (R170). -/
  | barrier (bar : Nat)
  /-- 1: a second arrival, waiting for the generation it is already in; then it arrives (R170). -/
  | barrierAgain (bar : Nat) (range : Word) (waits : Bool)
  /-- 2: arrived in a warp collective (R172). -/
  | collective (pc : DWord)
  /-- 4: at a switch point (R299). -/
  | vswpt (id : Nat)
  /-- 10: suspended (R162). -/
  | suspended (cont : DWord) (tq : Bool) (index : Nat) (target : Word)
  /-- 11: on the pool wait list (R187). -/
  | pool (scratch : Bool) (asked : Nat)
  /-- 12: parked on an entry of the page request queue (R209). -/
  | parked (die entry : Nat)
  /-- 12: on a retry list (R209). -/
  | listed (die stage page va kind : Nat)
  /-- 14: idling until the partition cycle given (R381). -/
  | idle (till : Nat)
  /-- 17: CKPT.w with the predicate it writes (R375). -/
  | ckpt (pred : Nat)
  deriving DecidableEq, Repr

/-- Why a thread did not issue when it was last tried: the stall reason of R364, the wait state of
R350 (0 where a checkpoint does not gather the thread) and the wait state's number, if it has one. -/
structure Stall where
  reason : Nat
  state : Nat
  arg : Nat
  deriving DecidableEq, Repr

/-- A trap that an instruction raises (R328): cause, detail word, reported data address; whether its
resume point is after the instruction, and for a pair word the half concerned (R51). -/
structure TrapReq where
  cause : Nat
  detail : Nat
  faddr : DWord
  after : Bool
  pair : Bool
  half : Bool
  deriving DecidableEq, Repr

/-- A trap whose handler-table read waits for translation (R330, R209): the trap, the address of its
instruction, the resume address and the fragment's lane masks (R336). -/
structure PendingTrap where
  req : TrapReq
  iaddr : DWord
  rpc : DWord
  own : Word
  sibling : Word
  deriving DecidableEq, Repr

/-- What is left to do when a wait ends: registers to mark dead, the stop bit, the destination and how
many registers it has, whether it is transient, the registers the instruction names, its length; and the
partition cycle in which it issued. -/
structure Pending where
  marks : List Nat
  stop : Bool
  dst : BitVec 8
  regs : Nat
  td : Bool
  named : List Nat
  len : Nat
  since : Nat
  deriving DecidableEq, Repr

/-- A thread (R6, R113, R250, R258, R304, R320). -/
structure Thread where
  fn : Nat
  wg : Nat
  tlin : Nat
  apprentice : Bool
  slot : Nat
  flim : Nat
  pc : DWord
  frame : List Word
  oc : List OcEntry
  fills : List Nat
  fsize : Nat
  dead : BitVec 192
  trans : List Transient
  preds : BitVec 7
  fstat : Word
  lnk : DWord
  loops : List LoopEntry
  tdepth : Nat
  frame1 : TrapFrame
  frame2 : TrapFrame
  /-- The address of the following instruction that the last encoding trap has reported (R51). -/
  following : DWord
  spord : BitVec 48
  ld : Nat
  st : Nat
  cp : Nat
  tl : Nat
  tags : List Nat
  latch : Option (Bool × DWord)
  arrived : BitVec 16
  withdrawn : BitVec 16
  pendP : BitVec 8
  pendG : List Nat
  acquiring : Nat
  wait : Option Wait
  stall : Option Stall
  polled : Bool
  /-- Source values that a stalled instruction has read (R343). -/
  held : Option (List Nat)
  trapping : Option PendingTrap
  pending : Option Pending
  stallFrom : Option Nat
  pauseTill : Option Nat
  readySince : Nat
  /-- Lines of the frame and trap-frame area that the pool holds, and whether they are dirty (R194). -/
  lines : Tbl Bool
  /-- Model: lines written by the step under way, oldest first. -/
  wrote : List Nat
  deriving DecidableEq, Repr

/-! ### Engine commands (R244-R254, R350) -/

/-- A queued command: the values it was pushed with, and how far it has come. -/
structure Cmd where
  id : Nat
  /-- The opcode; 0x290 for a fence entry (R350). -/
  op : Nat
  mod : BitVec 11
  /-- First-word bits 42:11 as issued. -/
  flds : BitVec 32
  /-- Value of the address operand. -/
  va : DWord
  /-- Value of the parameter word or second address. -/
  vb : DWord
  /-- Further values: the triangular operand, the valid-byte count, the value of NSIG. -/
  vc : DWord
  vd : DWord
  ext1 : DWord
  ext2 : DWord
  tlin : Nat
  wgic : Nat
  /-- The pushing thread's key, and its workgroup. -/
  pusher : Nat
  wg : Nat
  /-- Signers of a matrix command (R271). -/
  signers : List Nat
  /-- For each thread named, its memory operations with smaller names come first (R251). -/
  after : List (Nat × Nat)
  /-- A fence entry's name (R253). -/
  fence : Option Nat
  begun : Bool
  /-- STATUS and VALUE once its writes are performed (R248). -/
  done : Option (Nat × Nat)
  /-- Elements or bytes done. -/
  progress : Nat
  /-- Bytes the command holds: a task record, or a descriptor as it read it. -/
  data : List Byte
  /-- Claimed scratchpad (R198): workgroup, lowest byte, end, read pointer. -/
  claim : Option (Nat × Nat × Nat × Nat)
  /-- Parked for translation on an entry of a die's page request queue (R209). -/
  parked : Option (Nat × Nat)
  /-- The cause of R366 for which it last could not go on (0: none; 8: no entry of a page request queue was free). -/
  why : Nat
  /-- The pieces that are done, as its stop record shows them (R340): of an MMUL its K blocks, row by row. -/
  reach : List Nat
  /-- The descriptor of a network command, once it is read (R413). -/
  desc : List Byte
  /-- What has come back for an NGET, in order of arrival: offset and bytes (R411, R415). -/
  answers : List (Nat × List Byte)
  /-- In a replay, the logged status of a TKPUSH or TKDONE, taken at its issue (R370). -/
  fate : Option Bool
  deriving DecidableEq, Repr

/-! ### A workgroup (R147) -/

/-- A barrier (R154, R155). `origin` is the count origin on the context's count clock; `regs` holds, by
TLIN, the registers of each thread as they were at its arrival, while checksums are formed (R369). -/
structure Barrier where
  range : Word
  arrivals : Nat
  gen : Nat
  origin : Nat
  regs : Tbl (List (Nat × Word))
  deriving DecidableEq, Repr

/-- An open harvest reduction (R177): contributions by ascending TLIN. -/
structure Harvest where
  op : Nat
  ty : Nat
  rm : Nat
  range : Word
  seq : BitVec 16
  given : Tbl DWord
  deriving DecidableEq, Repr

/-- One arrival in a collective: the thread, its lane, the value it read and, for LXCH,
its selector. -/
structure Arrival where
  thread : Nat
  lane : Nat
  value : DWord
  sel : Word
  deriving DecidableEq, Repr

/-- An open warp collective (R172). -/
structure Collective where
  warp : Nat
  apprentice : Bool
  pc : DWord
  op : Nat
  mod : BitVec 11
  mask : Word
  here : List Arrival
  origin : Nat
  deriving DecidableEq, Repr

/-- An open switch point (R299, R324). `target` is the variant that the workgroup moves to once its loads
have returned, when everybody is there and the switch condition has held. -/
structure SwitchPoint where
  id : Nat
  here : List Nat
  origin : Nat
  target : Option Nat
  /-- Once the condition has held: the positions that new warps get, and the granules that the switch takes. -/
  spots : Tbl Nat
  room : Nat
  deriving DecidableEq, Repr

/-- A workgroup (R147) with the shared engine state it owns (R244, R247, R257, R259). The key of a
workgroup is 32 × global core + resident index. -/
structure Workgroup where
  fn : Nat
  core : Nat
  launch : Nat
  cohort : Nat
  kernel : DWord
  args : DWord
  wgx : Nat
  wgy : Nat
  wgz : Nat
  base : Nat
  level : Nat
  stage : Nat
  variant : Nat
  wgic : Nat
  chx : Nat
  chy : Nat
  chz : Nat
  lcx : Nat
  lcy : Nat
  lcz : Nat
  /-- Whether the kernel declares `.apprentice` (R157), and the pairs of warps that hold a window. -/
  hasApprentice : Bool
  windows : List Nat
  sreg : List Word
  /-- s-registers that a load in flight will write (R123). -/
  pendS : List Nat
  hval : List DWord
  hseq : List (BitVec 16)
  hlast : List Nat
  ev : List Word
  bars : List Barrier
  harvest : List (Option Harvest)
  colls : List Collective
  vsw : List SwitchPoint
  vreq : Option Nat
  pad : List Host.Cell
  spsize : Nat
  /-- Granules of the scratchpad in the order of its bytes, and of the queue windows (R185). -/
  padGrans : List Nat
  winGrans : List Nat
  /-- Those of the scratchpad that a restore gave and that hold no line of it yet (R353, R387). -/
  cold : List Nat
  /-- q8 to q15 of the pair with TLIN t at keys 8t to 8t+7 (R158); unlisted: empty. -/
  apq : Tbl (List Word)
  cq : List (List Word)
  /-- By completion queue: the records of the OK words of TKPOPs in it, oldest first (R262). -/
  popped : Tbl (List (List Byte))
  cp0 : List Cmd
  cp1 : List Cmd
  tk : List Cmd
  ne : List Cmd
  wptr : List DWord
  /-- Task-queue bindings 0 to 15; 0xFFFF: unbound. -/
  bind : List Nat
  /-- The current record (R321): its 64 bytes. -/
  record : Option (List Byte)
  stalls : List Word
  placedAt : Nat
  issued : Nat
  issuedNow : Bool
  csum : DWord
  deriving DecidableEq, Repr

/-- A cohort (R148) with its guard slots (R254: 0 FREE, 1 OPEN, 2 TRUE, 3 FALSE) and queues. -/
structure Cohort where
  fn : Nat
  launch : Nat
  sect : Nat
  csize : Nat
  stage : Nat
  index : Nat
  members : List Nat
  guards : List Nat
  mx : List Cmd
  sq : List Cmd
  deriving DecidableEq, Repr

/-! ### A core -/

/-- A request on the wait list (R187); `since` is on the context's count clock. -/
structure PoolReq where
  thread : Nat
  scratch : Bool
  asked : Nat
  since : Nat
  deriving DecidableEq, Repr

/-- Eviction priority (R201). -/
inductive Prio where
  | first
  | normal
  | last
  deriving DecidableEq, Repr

/-- A resident L1 line (R199-R201): its line address (device address ÷ 128), CID, way by its granule's number,
and bytes. -/
structure L1Line where
  line : Nat
  cid : Nat
  way : Nat
  bytes : List Byte
  readOnly : Bool
  prio : Prio
  use : Nat
  deriving DecidableEq, Repr

/-- A TLB entry (R208): one page of 2^`bits` bytes with the combined result of both stages. -/
structure TlbEntry where
  fn : Nat
  page : Nat
  bits : Nat
  pa : Nat
  cid : Nat
  r : Bool
  w : Bool
  x : Bool
  deriving DecidableEq, Repr

/-- A line of code that the instruction cache holds, and the name of its filling (R1, R28, R235). -/
structure CodeLine where
  fn : Nat
  va : Nat
  bytes : List Byte
  filling : Nat
  deriving DecidableEq, Repr

/-- An instruction word that a loop buffer or a pre-decoded run holds, and the filling of its line that it comes
from (R25, R28, R145). -/
structure CodeWord where
  fn : Nat
  va : Nat
  word : DWord
  filling : Nat
  deriving DecidableEq, Repr

/-- What another context has left on a core (R387): granules of scratchpad and queue windows by number, and
frame units by the granule that they are in, as the context counted its units; those that hold lines of it. -/
structure Residue where
  pads : List Nat
  units : Tbl (List Nat)
  deriving DecidableEq, Repr

/-- A duplicate of a thread's frame line, and the granule that holds it (R196). -/
structure Dup where
  thread : Nat
  line : Nat
  granule : Nat
  deriving DecidableEq, Repr

/-- A core. Unlisted cores are `Core.reset`. -/
structure Core where
  /-- Granules of the L1, and those of the frame class in the order of their units (R185, R199). -/
  l1Mask : BitVec 768
  frameGrans : List Nat
  dups : List Dup
  /-- Banks of the pool that have served an access in this cycle: the slot it was for (R184). -/
  bankUse : Tbl Nat
  bundles : List (List Nat)
  slotNext : Nat
  regroupAt : Option Nat
  waitList : List PoolReq
  l1 : List L1Line
  tlb : List TlbEntry
  /-- The instruction cache, latest filled first. -/
  icache : List CodeLine
  /-- By slot: the broadcast address, and the words of the stream's run that are read ahead (R25, R145). -/
  bcast : List (Option Nat)
  runs : List (List CodeWord)
  /-- The threads that have followed their slot's stream since the last boundary (R145). -/
  streaming : List Nat
  /-- Loop buffers by 32 × slot + lane, latest word first (R145). -/
  loopBufs : Tbl (List CodeWord)
  /-- Residue (R387): what still holds lines of a context, by function. -/
  residue : Tbl Residue
  drainAt : Nat
  /-- Misses of this cycle that each push a line of residue out (R387). -/
  missed : Nat
  barstall : Word
  poolwait : Word
  poolcfg : Word
  dbgbp : DWord
  exitRec : Tbl (List Byte)
  /-- Counters 0-7 of Copy Engine channel 0, then of channel 1 (R366). -/
  engStalls : List Word
  /-- Bundles issued in this cycle: their first threads and these threads' ordinals (trace samples, R362). -/
  issuedNow : List (Nat × Nat)
  /-- The cycle of the last trace sample. -/
  sampledAt : Option Nat
  /-- Address of the last instruction that each slot issued (R340). -/
  lastPc : List DWord
  deriving DecidableEq, Repr

/-! ### A section: quadrant and step sequencer (R269, R288) -/

/-- A plane of weights with its format tag (R269): code of R309, PLANES, RMODE; weight (k, n) at key
192k + n as 16 bits laid out as R346 gives; unlisted: 0. -/
structure Plane where
  code : Nat
  planes : Nat
  rmode : Nat
  w : Tbl (BitVec 16)
  deriving DecidableEq, Repr

/-- An open signing round (R271, R272). -/
structure Round where
  cmd : Cmd
  origin : Nat
  core : Nat
  /-- 1,024 x WGIC + TLIN of each signer, also of one that has exited since (R350). -/
  places : List Nat
  deriving DecidableEq, Repr

/-- A convergence register (R182). -/
structure CReg where
  decl : Option Word
  round : Option Round
  deriving DecidableEq, Repr

/-- An occupied region slot (R288, R291). -/
structure RegionSlot where
  desc : List Byte
  queue : Nat
  /-- The name of the queue's creation: one that is created again under its number is another (R291). -/
  born : Nat
  steps : Word
  deriving DecidableEq, Repr

/-- A section. Unlisted sections are `Section.reset`. -/
structure Section where
  holder : Option Nat
  tenureAt : Nat
  /-- Whose bulk state the unit holds: planes, banks, scales, slots, skip map, valid bits (R346). -/
  unitFn : Option Nat
  planeS : Plane
  planeH : Plane
  acc0 : Tbl Word
  acc1 : Tbl Word
  scales : Tbl Word
  creg : List CReg
  slots : List (Option RegionSlot)
  skip : List Nat
  valid : List Nat
  sqpat : DWord
  mxspare : Word
  tlb2 : List TlbEntry
  /-- Counters 0-7 of the Matrix Engine, then of the Step Sequencer (R366). -/
  engStalls : List Word
  retired : Bool
  deriving DecidableEq, Repr

/-! ### Home slices, dies, memory operations -/

/-- A line resident in a home slice (R201, R202, R205): `valid` marks the bytes that it holds. -/
structure SliceLine where
  cid : Nat
  fn : Nat
  dirty : Bool
  valid : BitVec 128
  prio : Prio
  use : Nat
  deriving DecidableEq, Repr

/-- A home slice: sequence counters by partition, resident lines, allocation mask (R203, R354). -/
structure Slice where
  seqs : Tbl Word
  lines : Tbl SliceLine
  alloc : List Nat
  deriving DecidableEq, Repr

/-- An entry of a page request queue (R209). -/
structure PageReq where
  fn : Nat
  cid : Nat
  stage : Nat
  page : Nat
  kind : Nat
  reserved : Bool
  deriving DecidableEq, Repr

/-- A die's page request queue, retry lists by partition (oldest first) and Bluord counters (R209, R410). -/
structure Die where
  pageReqs : Tbl PageReq
  retry : Tbl (List Nat)
  lanesLost : List Nat
  replays : Nat
  /-- Consecutive failed checks by lane (R410). -/
  failing : Tbl Nat
  delivered : Nat
  /-- The die's replay buffer: flits it has sent whose check failed, with how often; a flit stays until it is acknowledged,
  or given up (R410). -/
  buffer : List (BitVec 256 × Nat)
  /-- Data flits that follow the header flit which came last, and that flit. -/
  dataDue : Nat
  header : BitVec 256
  /-- Requests that came from the other die and are not answered: 2^14 x unit + tag. -/
  asked : List Nat
  /-- Bodies of the answers that were delivered last to a unit and tag of this die. -/
  answers : Tbl (BitVec 192)
  /-- By partition: counters 0-7 of the Task Queue Controller, then of the Network Engine (R366). -/
  engStalls : Tbl (List Word)
  deriving DecidableEq, Repr

/-- What a memory operation does where it is performed (R219, R228-R232). -/
inductive OpKind where
  /-- A load: destination registers of the thread and size code (R122). -/
  | load
  | store
  | exch | add | min | max | and | or | xor | adds
  /-- Compare and swap. -/
  | cas
  /-- A prefetch or other fill that returns no value. -/
  | fill
  deriving DecidableEq, Repr

/-- How far an operation has come. -/
inductive OpStage where
  /-- On its way to the place that performs it. -/
  | sent
  /-- At the home slice or pool, held for an undo-log entry (R345) or, at the pool port, for a claim
  (R198). -/
  | logging
  | claimed
  /-- Performed; its value and sequence tag are on their way back. -/
  | performed
  deriving DecidableEq, Repr

/-- A memory operation in flight (R123, R203, R212, R225, R229). -/
structure MemOp where
  id : Nat
  fn : Nat
  thread : Nat
  /-- Of a scalar load: the other threads of its bundle, that have issued it with this one (R144, R151). -/
  others : List Nat
  wg : Nat
  core : Nat
  kind : OpKind
  stage : OpStage
  /-- The pool aperture's offset, or the device physical address. -/
  aperture : Bool
  addr : Nat
  va : DWord
  cid : Nat
  size : Nat
  /-- The type code of an atomic (R227), or the size code of a load. -/
  ty : Nat
  data : DWord
  data2 : DWord
  /-- Destination register number and how many registers; 0xF8: none. -/
  dst : Nat
  regs : Nat
  transient : Bool
  /-- Counter class: 1 ld, 2 st, 0 none. -/
  cls : Nat
  tag : Bool
  acquire : Option Nat
  /-- Serve from the L1 or fill it; `readOnly` and hint (R222). -/
  bypass : Bool
  hint : Nat
  value : List Byte
  seqTag : Word
  deriving DecidableEq, Repr

/-! ### Launches, queues, the Foreman (R389-R400) -/

/-- A launch (R149, R400). `left` lists the cohorts not yet placed: stage, linear index, CHX, CHY, CHZ. -/
structure Launch where
  fn : Nat
  kernel : DWord
  args : DWord
  lcx : Nat
  lcy : Nat
  lcz : Nat
  level : Nat
  coop : Bool
  /-- Stages 1 to 3: stage, kernel, cohorts. -/
  stages : List (Nat × DWord × Nat)
  completion : DWord
  bind : List Nat
  admitted : Bool
  left : List (Nat × Nat)
  running : Nat
  deriving DecidableEq, Repr

/-- A queue of a function (R396, R259-R261), keyed by 256 × function + queue. -/
structure Queue where
  fn : Nat
  num : Nat
  /-- The name of its creation. -/
  born : Nat
  sub : DWord
  /-- Bases of the primary and the overflow ring in the function's memory (R396). -/
  ringPrim : DWord
  ringOver : DWord
  kind : Nat
  logSub : Nat
  capPrim : Nat
  capOver : Nat
  notify : Nat
  /-- Appends consumed since creation, and the producer index last written. -/
  consumer : Nat
  producer : Word
  status : Nat
  index : Word
  /-- Records of the primary and the overflow ring, oldest first. -/
  prim : List (List Byte)
  overflow : List (List Byte)
  /-- A write of its rings waits for room in the undo log (R345). -/
  held : Bool
  events : Word
  mapped : Option Nat
  notified : Bool
  rereads : Nat
  destroying : Bool
  deriving DecidableEq, Repr

/-- A mapped Foreman thread and the events that its wait packet names (R389): a notify write, a completion of the
Task Queue Controller, a halt, a timer with the ticks that it is set to. -/
structure ForemanThread where
  queue : Nat
  onNotify : Bool
  onTask : Bool
  onHalt : Bool
  timer : Option Nat
  running : Bool
  /-- It still runs the firmware before the last hand-over, up to its next wait packet (R407). -/
  outgoing : Bool
  deriving DecidableEq, Repr

/-- A virtual function's registers and endpoint (R391, R392, R397). -/
structure VF where
  ctl : DWord
  sect : DWord
  chan : List DWord
  qmax : Word
  band : Word
  slice : Word
  state : Nat
  code : Nat
  keys : List DWord
  addr : BitVec 128
  job : Word
  cstat : Word
  notify : List Word
  /-- The last VFBAND write was refused (R401). -/
  bandBad : Bool
  /-- EN was cleared while the function ran: it goes once it is switched out (R393). -/
  closing : Bool
  deriving DecidableEq, Repr

/-! ### Contexts and checkpoints (R342-R353, R382) -/

/-- Where a line of a context lies that the undo log keeps (R345, R346): device memory, which frames are part of;
a scratchpad; the bulk state of a section, by the line of its unit image. -/
inductive Kept where
  | memory (line : Nat)
  | pad (wg line : Nat)
  | unit (sect line : Nat)
  deriving DecidableEq, Repr

/-- One undo entry (R345): the line, its CID and its 128 bytes as they were; `epoch` is the epoch it
belongs to. -/
structure Undo where
  place : Kept
  cid : Nat
  bytes : List Byte
  epoch : Word
  deriving DecidableEq, Repr

/-- One entry of an order log (R368): point kind, point, object, the 8-byte entry. One of a TKPUSH or TKDONE stands at its
issue, `due` until its status is known; it may be `carried` over from the epoch of the issue. -/
structure OrderEntry where
  kind : Nat
  point : Nat
  object : DWord
  entry : DWord
  due : Bool
  carried : Bool
  deriving DecidableEq, Repr

/-- A barrier checksum as it is logged (R369): workgroup, the byte with barrier, WGIC and stage, generation, linear
cohort index, and the sum. -/
structure Csum where
  wg : Nat
  name : Nat
  gen : Nat
  cohort : Nat
  sum : DWord
  deriving DecidableEq, Repr

/-- A retained checkpoint: the context's state at its formation (R344, R349). -/
structure Snapshot where
  epoch : Word
  pcycle : Nat
  clock : Nat
  htbase : DWord
  ckptint : Word
  recctl : DWord
  tracectl : DWord
  tracestat : DWord
  frameBase : DWord
  frameStride : Word
  tst : DWord
  hst : DWord
  threads : Tbl Thread
  wgs : Tbl Workgroup
  cohorts : Tbl Cohort
  launches : Tbl Launch
  queues : Tbl Queue
  /-- By core: wait list, BARSTALL, POOLWAIT, POOLCFG, DBGBP. -/
  cores : Tbl (List PoolReq × Word × Word × Word × DWord)
  sections : Tbl Section
  /-- What a replay has not used up (R370). -/
  replay : Option (List OrderEntry × List Csum)
  /-- What the order logs hold of the epoch that follows it, once that is closed (R367). -/
  log : List OrderEntry
  csums : List Csum
  /-- The image as it was written into the save area (R350). -/
  bytes : List Byte
  deriving DecidableEq, Repr

/-- The checkpoint requests in force (R342-R348, R375): by source (1 periodic, 2 forced, 3 slice end, 4 CKPT, 5 debug,
6 read-back) the cycle in which it was made, from which it lapses. -/
structure CkptReq where
  why : Tbl Nat
  /-- Commands that stood at the heads of their queues then: their engines complete them (R287, R344). -/
  heads : List Nat
  deriving DecidableEq, Repr

/-- A raised halt line (R338): fault code, stop-area index of the unit that raised it, whether every
unit has stopped and written its record, the barrier facts of a REPLAY_DIVERGED (R371), and the cores of loads and
atomics whose values were discarded since (R340). -/
structure Halt where
  code : Nat
  unit : Nat
  done : Bool
  note : List Byte
  dropped : List Nat
  deriving DecidableEq, Repr

/-- A system register that was written in the present cycle: its number, the core of the write, the thread that
made it, and the register's value when the cycle began (R378). -/
structure SwrNote where
  reg : Nat
  core : Nat
  thread : Option Nat
  old : Nat
  deriving DecidableEq, Repr

/-- A context: the running or switched-out state of one function (R382-R385, R395). -/
structure Context where
  live : Bool
  running : Bool
  pageable : Bool
  cidb : Nat
  save : DWord
  saveSize : DWord
  undoArea : DWord
  undoSize : DWord
  stopArea : DWord
  tst : DWord
  hst : DWord
  image : DWord
  imageSize : DWord
  eventAddr : DWord
  qtbase : DWord
  frameBase : DWord
  frameStride : Word
  htbase : DWord
  ckptint : Word
  recctl : DWord
  tracectl : DWord
  tracestat : DWord
  epoch : Word
  pcycle : Nat
  /-- The count clock: as PCYCLE, but standing still while a checkpoint request is in force (R344). -/
  clock : Nat
  undo : List Undo
  /-- Entries that the log has taken so far, and those of them that stand in the undo area (R345). -/
  logged : Nat
  posted : Nat
  images : List Snapshot
  ckpt : Option CkptReq
  /-- PCYCLE at the last formation, and at the last lapse of a periodic request since CKPTINT was written (R342, R348, R378). -/
  formedAt : Nat
  lapsedAt : Nat
  halt : Option Halt
  sliceFrom : Nat
  rolledBack : Bool
  orderLog : List OrderEntry
  /-- Barrier checksums logged while recording (R369). -/
  csums : List Csum
  /-- What is left of the logs in a replay (R370, R371). -/
  replay : Option (List OrderEntry × List Csum)
  /-- Where the recorded epochs end: the ordinals of the threads that there were then (R370). -/
  replayEnd : Tbl (BitVec 48)
  /-- Whether the context has yet to be restored to the checkpoint that its replay begins at (R370). -/
  replayStart : Bool
  /-- Cores whose BARSTALL and POOLWAIT the context's own SWR wrote (R423). -/
  ownBarstall : List Nat
  ownPoolwait : List Nat
  loopAt : Tbl Word
  /-- Writes of system registers in the present cycle (R378). -/
  swrs : List SwrNote
  /-- The engine units, by their places in the stop area, that have advanced a head command in the present cycle
  (R366). -/
  advanced : List Nat
  /-- Model: all issues of the present cycle are over (R155). -/
  cycleOver : Bool
  /-- When the context was last switched in, on the package's count of names (R403). -/
  ran : Nat
  deriving DecidableEq, Repr

/-! ### The package's edge -/

/-- An outstanding network operation (R413-R415): `op` is its opcode, `port` the port of an ordered one
(R411), `short` says that a local fault cut it. -/
structure NetOp where
  id : Nat
  wg : Nat
  thread : Nat
  op : Nat
  peer : BitVec 128
  job : Word
  endpoint : Nat
  remote : DWord
  key : DWord
  traffic : Nat
  len : Nat
  ordered : Bool
  port : Nat
  value : DWord
  add : Bool
  short : Bool
  deriving DecidableEq, Repr

/-- What an inbound operation does (R412). -/
inductive InboundKind where
  | write (bytes : List Byte)
  | read (len : Nat)
  | atomic (max1 : Bool) (value : DWord)
  /-- A write of a notify register (R397). -/
  | notify (slot : Nat) (value : DWord)
  deriving DecidableEq, Repr

/-- An inbound operation at an address of the context of the function that its endpoint names. -/
structure Inbound where
  dest : EndpointName
  addr : Nat
  kind : InboundKind
  deriving DecidableEq, Repr

/-- The algorithms of R406. -/
inductive SpdmAlg where
  | ecdsaP384
  | sha384
  | aes256Gcm
  deriving DecidableEq, Repr

/-- What has left the package, oldest first. -/
inductive Out where
  /-- A network operation sent to its peer, an RMA write with its bytes (R415). -/
  | request (o : NetOp) (bytes : List Byte)
  /-- RMA write to host memory: events (R405), read-back objects (R425). -/
  | hostWrite (addr : DWord) (bytes : List Byte)
  /-- An answer to an inbound operation (R412): refused with a UET error, or acknowledged with data. -/
  | inboundError (fn : Nat)
  | inboundAck (fn : Nat) (bytes : List Byte)
  /-- The answer to a trimmed packet: the endpoint asks for it again (R411). -/
  | inboundTrimmed (fn : Nat)
  /-- An SPDM response (R406): its code, the algorithms it selects, the measurement blocks it carries, and what else it
  holds. -/
  | spdm (code : Nat) (algs : List SpdmAlg) (blocks : List (Nat × List Byte)) (rest : List Byte)
  /-- An interrupt to the owning function (R363). -/
  | interrupt (fn : Nat)
  deriving DecidableEq, Repr

/-- A memory channel's window (R401): windows served and the grants of the present one, in 1,024ths of it. -/
structure Channel where
  windows : Nat
  grants : Tbl Rat
  deriving DecidableEq, Repr

/-- A unit's health record (R422): counts, state (0 in service, 1 SUSPECT, 2 under test, 3 retired)
and last outcome (0 none, 1 TRANSIENT, 2 LASTING). -/
structure Health where
  corrected : Nat
  errors : Nat
  state : Nat
  outcome : Nat
  deriving DecidableEq, Repr

/-- An adaptive-loop register (R423). -/
structure AdaptLoop where
  cur : Word
  set : BitVec 31
  en : Bool
  deriving DecidableEq, Repr

/-- BOOTSTAT's fields and the start in progress (R420, R421). -/
structure Boot where
  stage : Nat
  rc0 : BitVec 8
  rc1 : BitVec 8
  rc2 : BitVec 8
  fails : Nat
  minimal : Bool
  up : Bool
  forceFull : Bool
  starting : Bool
  /-- The channel that a minimal start brought up. -/
  channel : Nat
  deriving DecidableEq, Repr

/-- The running firmware image and the incoming one (R406, R407): versions and measurements. -/
structure Firmware where
  version : DWord
  measurement : List Byte
  pending : Option (DWord × List Byte)
  deriving DecidableEq, Repr

/-- A read-back in progress (R425): the host address and the command, the function whose checkpoint it waits for, and
the object once it is chosen. -/
structure Readback where
  addr : DWord
  cmd : DWord
  owner : Option Nat
  bytes : Option (List Byte)
  deriving DecidableEq, Repr

/-- The SPDM connection (R406): how far it is negotiated, and whether a session is open. -/
structure Spdm where
  /-- Requests that have arrived at the management endpoint, oldest first. -/
  inbox : List (List Byte)
  phase : Nat
  session : Bool
  keyExchanged : Bool
  deriving DecidableEq, Repr

/-- The state of the package. -/
structure State where
  /-- Model: whose move is next (DESIGN CHOICE, log 1). -/
  agenda : List Turn
  /-- Model: the bundle that issues, as thread keys in ascending home lane; empty for a device step. -/
  issue : List Nat
  /-- Model: names of operations and commands, and the counter free values are taken at. -/
  nextId : Nat
  freeCtr : Nat
  /-- Keyed by 1536 × global core + 32 × warp position + lane. -/
  threads : Tbl Thread
  wgs : Tbl Workgroup
  cohorts : Tbl Cohort
  cores : Tbl Core
  sections : Tbl Section
  slices : Tbl Slice
  dies : Tbl Die
  ctxs : Tbl Context
  vfs : Tbl VF
  queues : Tbl Queue
  foreman : Tbl ForemanThread
  launches : Tbl Launch
  /-- Device memory by device physical address (R204), canonical: see `Memory.wf`. -/
  mem : List Host.Cell
  /-- Tag of each line written (R402), by line address: the CID and the data key, see `lineTag`. -/
  lineCid : Tbl Nat
  ops : List MemOp
  net : Tbl NetOp
  /-- Inbound operations that wait for room in the undo log, oldest first, and those of their flows behind them. -/
  inbound : List Inbound
  /-- The packet sequence number that each ROD flow performs next (R412). -/
  flows : Tbl Nat
  /-- Words that met the targets of threads that wait at NWAIT (R416). -/
  noticed : Tbl Nat
  out : List Out
  channels : Tbl Channel
  health : Tbl Health
  loops : Tbl AdaptLoop
  boot : Boot
  spdm : Spdm
  firmware : Firmware
  rbAddr : DWord
  rbPending : Option Readback
  deriving DecidableEq, Repr

/-! ### Reset -/

def TrapFrame.zero : TrapFrame := ⟨0, 0, 0, 0, 0, 0, 0, 0, 0, 0, 0⟩

/-- A core after reset (R156, R190, R191, R358)
(in part DESIGN CHOICE, log 20). -/
def Core.reset : Core :=
  { l1Mask := BitVec.ofNat 768 (2 ^ 512 - 1), frameGrans := [], dups := [], bankUse := [],
    bundles := [], slotNext := 0, regroupAt := none, waitList := [], l1 := [], tlb := [],
    icache := [], bcast := List.replicate 4 none, runs := List.replicate 4 [], streaming := [], loopBufs := [], residue := [], drainAt := 0, missed := 0, barstall := 0x00100000, poolwait := 0x00004000,
    poolcfg := 0x00000600, dbgbp := 0, exitRec := [], engStalls := List.replicate 16 0,
    issuedNow := [], sampledAt := none, lastPc := List.replicate 4 0 }

/-- A plane at tenure start (R269): all weights 0, tag `.i8`. -/
def Plane.reset : Plane := ⟨0, 0, 0, []⟩

/-- A section after reset (R268, R269, R288, R290). -/
def Section.reset : Section :=
  { holder := none, tenureAt := 0, unitFn := none, planeS := .reset, planeH := .reset, acc0 := [],
    acc1 := [], scales := [], creg := List.replicate 16 ⟨none, none⟩,
    slots := List.replicate 4 none, skip := [], valid := [], sqpat := 0x6A3C95F01D87B24E,
    mxspare := 0x0000FFFF, tlb2 := [], engStalls := List.replicate 16 0, retired := false }

def Slice.reset : Slice := ⟨[], [], []⟩
def Die.reset : Die := ⟨[], [], [], 0, [], 0, [], 0, 0, [], [], []⟩

/-- A function's registers after reset (R391, R401). -/
def VF.reset : VF :=
  { ctl := 0, sect := 0, chan := List.replicate 4 0, qmax := 0, band := 0x00600000, slice := 0,
    state := 0, code := 0, keys := List.replicate 8 0, addr := 0, job := 0, cstat := 0,
    notify := List.replicate 32 0, bandBad := false, closing := false }

/-- A context before its descriptor is read (R329, R342, R360, R361, R367, R382). -/
def Context.reset : Context :=
  { live := false, running := false, pageable := false, cidb := 0, save := 0, saveSize := 0,
    undoArea := 0, undoSize := 0, stopArea := 0, tst := 0, hst := 0, image := 0, imageSize := 0,
    eventAddr := 0, qtbase := 0, frameBase := 0, frameStride := 0, htbase := 0,
    ckptint := 0x00029810, recctl := 0, tracectl := 0, tracestat := 0, epoch := 0, pcycle := 0,
    clock := 0, undo := [], logged := 0, posted := 0, images := [], ckpt := none, formedAt := 0, lapsedAt := 0,
    halt := none, sliceFrom := 0, rolledBack := false, orderLog := [], csums := [], replay := none, replayEnd := [], replayStart := false,
    ownBarstall := [], ownPoolwait := [], loopAt := [], swrs := [], advanced := [], cycleOver := false, ran := 0 }

/-- The machine right after reset: no start has begun, no function is enabled, memory lists nothing
(in part DESIGN CHOICE, log 20). -/
def State.reset : State :=
  { agenda := [], issue := [], nextId := 0, freeCtr := 0, threads := [], wgs := [], cohorts := [],
    cores := [], sections := [], slices := [], dies := [], ctxs := [], vfs := [], queues := [],
    foreman := [], launches := [], mem := [], lineCid := [], ops := [], net := [], inbound := [], flows := [], noticed := [], out := [],
    channels := [], health := [], loops := [],
    boot := ⟨0, 0, 0, 0, 0, false, false, false, false, 0⟩, spdm := ⟨[], 0, false, false⟩,
    firmware := ⟨0, [], none⟩, rbAddr := 0, rbPending := none }

/-- Why a step can stop with a fault. No instruction of the W9 does: what the manual calls a fault is
a trap (R328), a parked access (R209) or a raised halt line (R337), and each is a next state. -/
inductive Fault where
  /-- Raised by nobody; the type needs one name. Safe: a stop proves nothing about the hardware. -/
  | none
  deriving DecidableEq, Repr

/-- Why a step can be refused. -/
inductive Refusal where
  /-- The instruction has no meaning yet. Raised by the arms of `exec` only. Safe. -/
  | notModelled (mnemonic : String)
  deriving DecidableEq, Repr

end Sys2Proof.Machine
end

