-- ==== Sys2Proof/Machine/Bits.lean ====
section
/-! DEFINITION. Sparse tables, lists by position, byte order (R5) and bit fields. -/

namespace Sys2Proof.Machine

/-! ### Tables -/

/-- The value listed for a key. -/
def look {α : Type} (k : Nat) : Tbl α → Option α
  | [] => none
  | (k', v) :: t => if k' = k then some v else look k t

/-- List a value for a key, keeping keys strictly rising. -/
def put {α : Type} (k : Nat) (v : α) : Tbl α → Tbl α
  | [] => [(k, v)]
  | (k', v') :: t =>
    if k < k' then (k, v) :: (k', v') :: t
    else if k = k' then (k, v) :: t
    else (k', v') :: put k v t

/-- Take a key out of a table. -/
def drop {α : Type} (k : Nat) (t : Tbl α) : Tbl α := t.filter (fun p => p.1 != k)

/-- Change the value listed for a key, if there is one. -/
def change {α : Type} (k : Nat) (f : α → α) (t : Tbl α) : Tbl α :=
  t.map (fun p => if p.1 = k then (p.1, f p.2) else p)

/-- The first key from `n` upward that a table does not list, within `fuel` tries. -/
def freeKey {α : Type} (t : Tbl α) : Nat → Nat → Nat
  | 0, n => n
  | fuel + 1, n => if (look n t).isNone then n else freeKey t fuel (n + 1)

/-! ### Lists by position -/

/-- The element at a position, or a default beyond the end. -/
def nth {α : Type} (d : α) : Nat → List α → α
  | _, [] => d
  | 0, a :: _ => a
  | n + 1, _ :: l => nth d n l

/-- Replace the element at a position; nothing happens beyond the end. -/
def setNth {α : Type} (v : α) : Nat → List α → List α
  | _, [] => []
  | 0, _ :: l => v :: l
  | n + 1, a :: l => a :: setNth v n l

/-- 0, 1, …, n − 1. -/
def upto (n : Nat) : List Nat := List.range n

/-- Insert into a list sorted by a rank, after the elements of equal rank. -/
def insertBy {α : Type} (rank : α → Nat) (a : α) : List α → List α
  | [] => [a]
  | b :: l => if rank a < rank b then a :: b :: l else b :: insertBy rank a l

/-- Sort by a rank, keeping the order of equals. -/
def sortBy {α : Type} (rank : α → Nat) (l : List α) : List α :=
  l.foldl (fun acc a => insertBy rank a acc) []

/-- The elements without later repeats. -/
def distinct (l : List Nat) : List Nat :=
  l.foldl (fun acc a => if acc.contains a then acc else acc ++ [a]) []

/-- Groups of a list's elements by a key, in the order in which the keys first appear. -/
def groupBy {α : Type} (key : α → Nat) (l : List α) : List (List α) :=
  (distinct (l.map key)).map (fun k => l.filter (fun a => key a = k))

/-! ### Bytes -/

/-- The value of bytes, the first at the low end (R5). -/
def ofBytes : List Byte → Nat
  | [] => 0
  | b :: l => b.toNat + 256 * ofBytes l

/-- The low `n` bytes of a value, the lowest first (R5). -/
def toBytes : Nat → Nat → List Byte
  | 0, _ => []
  | n + 1, v => BitVec.ofNat 8 v :: toBytes n (v / 256)

/-- Bytes `a` to `a + n − 1` of a list, 0 beyond its end. -/
def bytesAt (a n : Nat) (l : List Byte) : List Byte :=
  (l.drop a ++ List.replicate n 0).take n

/-- The little-endian value of `n` bytes at offset `a`. -/
def valAt (a n : Nat) (l : List Byte) : Nat := ofBytes (bytesAt a n l)

/-- Replace the bytes from offset `a`; bytes beyond the end are dropped. -/
def patch (a : Nat) (new l : List Byte) : List Byte :=
  l.take a ++ (new.take (l.length - a)) ++ l.drop (a + new.length)

/-! ### Fields of a number -/

/-- Bits `hi` down to `lo` of a number. -/
def bits (v hi lo : Nat) : Nat := v / 2 ^ lo % 2 ^ (hi + 1 - lo)

/-- Bit `n` of a number. -/
def bit (v n : Nat) : Bool := v / 2 ^ n % 2 = 1

/-- 1 or 0. -/
def one (b : Bool) : Nat := if b then 1 else 0

/-- The signed reading of the low `w` bits (R73's sext). -/
def sextInt (w v : Nat) : Int :=
  let u := v % 2 ^ w
  if u < 2 ^ (w - 1) then u else (u : Int) - (2 ^ w : Nat)

/-- The low `w` bits of an integer. -/
def wrapNat (w : Nat) (x : Int) : Nat := (x % (2 ^ w : Nat)).toNat

/-- The sign-extension of the low `w` bits to 64 bits. -/
def sext64 (w v : Nat) : DWord := BitVec.ofNat 64 (wrapNat 64 (sextInt w v))

/-- Bits 31:0 and 63:32. -/
def loWord (v : DWord) : Word := v.setWidth 32
def hiWord (v : DWord) : Word := (v >>> 32).setWidth 32
def pairOf (lo hi : Word) : DWord := (hi.setWidth 64 <<< 32) ||| lo.setWidth 64

/-- The count of the set bits among the low `w`. -/
def popCount : Nat → Nat → Nat
  | 0, _ => 0
  | w + 1, v => v % 2 + popCount w (v / 2)

/-- The positions below `w` of the set bits, rising. -/
def setBits (w v : Nat) : List Nat := (upto w).filter (fun i => bit v i)

/-- The mask with the given positions set. -/
def maskOf (l : List Nat) : Nat := (distinct l).foldl (fun m i => m + 2 ^ i) 0

end Sys2Proof.Machine
end

