-- ==== Sys2Proof/Machine/Access.lean ====
section
/-! DEFINITION. Reading and changing the parts of the state: threads, workgroups, cores, contexts, and
the registers of R6, R13-R21, R35, R147 and R158. Every register is read and written here. -/

namespace Sys2Proof.Machine

/-! ### Keys and geometry (R1, R2, R140, R141) -/

/-- A thread's key from global core, warp position and home lane. -/
def threadKey (core wpos lane : Nat) : Nat := core * 1536 + wpos * 32 + lane
def coreOf (k : Nat) : Nat := k / 1536
def wposOf (k : Nat) : Nat := k % 1536 / 32
def laneOf (k : Nat) : Nat := k % 32
/-- The issue slot of a thread: its warp position mod 4 (R141). -/
def slotOf (k : Nat) : Nat := wposOf k % 4
/-- The warp of a thread, as core and position. -/
def warpOf (k : Nat) : Nat := k / 32
/-- The home lane of a thread with its slot: where its fetch path is (R140, R145). -/
def slotLane (k : Nat) : Nat := 32 * slotOf k + laneOf k
/-- A program counter: 57 bits, the lowest three 0 (R6). -/
def wrapPc (a : DWord) : DWord := a &&& 0x01FFFFFFFFFFFFF8#64
/-- The key of a function's queue (R396); a number that VFQMAX can never allow is no queue's. -/
def queueKey (fn q : Nat) : Nat := if q < 256 then 256 * fn + q else 2 ^ 32
/-- Global section and die of a global core (R2). -/
def sectOf (core : Nat) : Nat := core / 4
def dieOf (core : Nat) : Nat := core / 128
/-- The sections of a function's partition, rising (R394). -/
def sectionsOf (mask : DWord) : List Nat := (upto 64).filter (fun i => mask.getLsbD i)

/-! ### Parts of the state -/

def State.core (s : State) (c : Nat) : Core := (look c s.cores).getD .reset
def State.setCore (s : State) (c : Nat) (v : Core) : State := { s with cores := put c v s.cores }
def State.modCore (s : State) (c : Nat) (f : Core → Core) : State := s.setCore c (f (s.core c))
def State.sect (s : State) (n : Nat) : Section := (look n s.sections).getD .reset
def State.setSect (s : State) (n : Nat) (v : Section) : State :=
  { s with sections := put n v s.sections }
def State.modSect (s : State) (n : Nat) (f : Section → Section) : State := s.setSect n (f (s.sect n))
def State.slice (s : State) (n : Nat) : Slice := (look n s.slices).getD .reset
def State.modSlice (s : State) (n : Nat) (f : Slice → Slice) : State :=
  { s with slices := put n (f (s.slice n)) s.slices }
def State.die (s : State) (n : Nat) : Die := (look n s.dies).getD .reset
def State.modDie (s : State) (n : Nat) (f : Die → Die) : State :=
  { s with dies := put n (f (s.die n)) s.dies }
def State.ctx (s : State) (fn : Nat) : Context := (look fn s.ctxs).getD .reset
def State.setCtx (s : State) (fn : Nat) (v : Context) : State := { s with ctxs := put fn v s.ctxs }
def State.modCtx (s : State) (fn : Nat) (f : Context → Context) : State := s.setCtx fn (f (s.ctx fn))
def State.vf (s : State) (fn : Nat) : VF := (look fn s.vfs).getD .reset
def State.modVf (s : State) (fn : Nat) (f : VF → VF) : State :=
  { s with vfs := put fn (f (s.vf fn)) s.vfs }
def State.modThread (s : State) (k : Nat) (f : Thread → Thread) : State :=
  { s with threads := change k f s.threads }
def State.modWg (s : State) (k : Nat) (f : Workgroup → Workgroup) : State :=
  { s with wgs := change k f s.wgs }
def State.modCohort (s : State) (k : Nat) (f : Cohort → Cohort) : State :=
  { s with cohorts := change k f s.cohorts }
def State.modQueue (s : State) (k : Nat) (f : Queue → Queue) : State :=
  { s with queues := change k f s.queues }
def State.modLaunch (s : State) (k : Nat) (f : Launch → Launch) : State :=
  { s with launches := change k f s.launches }

/-- A fresh name, and the state that has given it out. -/
def State.fresh (s : State) : Nat × State := (s.nextId, { s with nextId := s.nextId + 1 })

/-- The threads of a workgroup, and of a function. -/
def State.threadsOf (s : State) (wg : Nat) : Tbl Thread := s.threads.filter (fun p => p.2.wg = wg)
/-- The compute threads of a workgroup (R157). -/
def State.computeOf (s : State) (wg : Nat) : Tbl Thread :=
  s.threads.filter (fun p => p.2.wg = wg && !p.2.apprentice)

/-- CORE and SECT as a context counts them: within its partition (R112, R394). -/
def State.sectNo (s : State) (fn sect : Nat) : Nat :=
  ((sectionsOf (s.vf fn).sect).filter (fun i => i < sect)).length
def State.coreNo (s : State) (fn core : Nat) : Nat := 4 * s.sectNo fn (sectOf core) + core % 4

/-- A core without the code that it holds: instruction cache, loop buffers, pre-decoded runs (R235). -/
def dropCode (keep : Nat → Bool) (c : Core) : Core :=
  { c with
    icache := c.icache.filter (fun e => keep e.fn)
    runs := c.runs.map (·.filter (fun e => keep e.fn))
    loopBufs := c.loopBufs.map (fun p => (p.1, p.2.filter (fun e => keep e.fn))) }

/-! ### The operand cache and the frame (R13-R16) -/

/-- A frame slot; slots beyond the frame read 0 (R8) (in part DESIGN CHOICE, log 4). -/
def frameAt (t : Thread) (n : Nat) : Word := nth 0 n t.frame

/-- The operand-cache entry of a register. -/
def ocFind (n : Nat) (oc : List OcEntry) : Option OcEntry := oc.find? (fun e => e.reg = n)

/-- Free the entry of a register without write-back (R17). -/
def ocFree (n : Nat) (oc : List OcEntry) : List OcEntry := oc.filter (fun e => e.reg != n)

/-- A line of a thread's frame or trap-frame area is written in the pool (R194). -/
def wroteLine (n : Nat) (t : Thread) : Thread := { t with lines := put n true t.lines, wrote := t.wrote ++ [n] }
def wroteLines (l : List Nat) (t : Thread) : Thread := l.foldl (fun t n => wroteLine n t) t

/-- Write a dirty entry's value to its frame slot, 32 of which make a line (R7, R14). -/
def writeBack (e : OcEntry) (t : Thread) : Thread :=
  if e.dirty then wroteLine (e.reg / 32) { t with frame := setNth e.val e.reg t.frame } else t

/-- The entry of a bank that a new register replaces: the least recently used one that the
instruction does not name (R13); none when the bank has room. -/
def victim (n : Nat) (named : List Nat) (oc : List OcEntry) : Option (Option OcEntry) :=
  let bank := oc.filter (fun e => e.reg % 4 = n % 4)
  if bank.length < 2 then some none
  else
    match (bank.filter (fun e => !named.contains e.reg)).getLast? with
    | some e => some (some e)
    | none => none

/-- Allocate an entry, or go straight to the frame slot when the bank is full of registers that the
instruction names (R15) (in part DEDUCED, log 5). -/
def ocPlace (named : List Nat) (e : OcEntry) (t : Thread) : Thread :=
  match ocFind e.reg t.oc with
  | some _ => { t with oc := e :: ocFree e.reg t.oc }
  | none =>
    match victim e.reg named t.oc with
    | some none => { t with oc := e :: t.oc }
    | some (some v) => { writeBack v t with oc := e :: ocFree v.reg t.oc }
    | none => writeBack e t

/-- Bit N of the dead mask (R17). -/
def isDead (t : Thread) (n : Nat) : Bool := t.dead.getLsbD n

/-- The transient value of a register inside its window (R19). -/
def transient? (t : Thread) (n : Nat) : Option Word :=
  (t.trans.find? (fun e => e.reg = n && decide (e.age ≤ 2))).map (·.val)

/-- The value a read of gN returns (R16, R17, R19, R21). -/
def readG (t : Thread) (n : Nat) : Word :=
  match transient? t n with
  | some v => v
  | none =>
    if isDead t n then 0
    else
      match ocFind n t.oc with
      | some e => e.val
      | none => frameAt t n

/-- The operand-cache effect of a read: a hit becomes the latest used, a miss is filled (R13-R15). A
transient or dead register causes none (R17, R19) (in part DEDUCED, log 5). -/
def touchG (named : List Nat) (n : Nat) (t : Thread) : Thread :=
  if (transient? t n).isSome || isDead t n then t
  else
    match ocFind n t.oc with
    | some e => { t with oc := e :: ocFree n t.oc }
    | none =>
      if (victim n named t.oc).isNone then t
      else ocPlace named ⟨n, frameAt t n, false⟩ t

/-- One result: the open transient windows age, and those of the registers written end (R19)
(in part DEDUCED, log 6). -/
def ageTrans (written : List Nat) (t : Thread) : Thread :=
  { t with trans := ((t.trans.filter (fun e => !written.contains e.reg)).map
      (fun e => { e with age := e.age + 1 })).filter (fun e => decide (e.age ≤ 2)) }

/-- A write of one register that is not transient: it lives, and its entry is dirty (R14, R17)
(in part DEDUCED, log 6). -/
def storeG (named : List Nat) (n : Nat) (v : Word) (t : Thread) : Thread :=
  ocPlace named ⟨n, v, true⟩
    { t with dead := t.dead &&& ~~~(1#192 <<< n), fills := t.fills.filter (· != n) }

/-- Write consecutive registers as one result: to the bypass network only when transient (R19), else
to the operand cache. -/
def writeG (named : List Nat) (n : Nat) (vs : List Word) (td : Bool) (t : Thread) : Thread :=
  let regs := (upto vs.length).map (n + ·)
  let t := ageTrans regs t
  let new := regs.zip vs
  if td then { t with trans := new.map (fun p => ⟨p.1, p.2, 0⟩) ++ t.trans }
  else new.foldl (fun t p => storeG named p.1 p.2 t) t

/-- Mark registers dead and free their entries without write-back (R17). -/
def killG (regs : List Nat) (t : Thread) : Thread :=
  regs.foldl (fun t n => 
    { t with dead := t.dead ||| (1#192 <<< n), oc := ocFree n t.oc,
             fills := t.fills.filter (· != n) }) t

/-- Write every dirty live entry back and leave the entries clean (R14, R121). -/
def ocSync (t : Thread) : Thread :=
  { t.oc.foldl (fun u e => if t.dead.getLsbD e.reg then u else writeBack e u) t with
    oc := t.oc.map (fun e => { e with dirty := false }) }

/-- A fill completes (R14): a register that lives and is not resident takes an entry
(in part DEDUCED, log 5). -/
def fillG (n : Nat) (t : Thread) : Thread :=
  let t' := { t with fills := t.fills.filter (· != n) }
  if isDead t n || (ocFind n t.oc).isSome then t' else ocPlace [] ⟨n, frameAt t n, false⟩ t'

/-- End every open transient window (R20). -/
def endTrans (t : Thread) : Thread := { t with trans := [] }

/-! ### The lines of a frame (R7, R194, R331) -/

/-- The bytes of a trap frame (R331). -/
def TrapFrame.bytes (f : TrapFrame) : List Byte :=
  toBytes 8 f.rpc.toNat ++ toBytes 8 f.iaddr.toNat ++ toBytes 8 f.faddr.toNat ++ toBytes 4 f.ssw.toNat
    ++ toBytes 4 f.fstat.toNat ++ toBytes 8 f.lnk.toNat ++ toBytes 4 f.cause.toNat ++ toBytes 4 f.detail.toNat
    ++ toBytes 4 f.own.toNat ++ toBytes 4 f.sibling.toNat ++ toBytes 4 f.parent.toNat ++ toBytes 4 0

/-- The bytes of a thread's part of the context image: its registers, then its trap frames. -/
def imageBytes (t : Thread) : List Byte :=
  bytesAt 0 (4 * t.flim) (t.frame.flatMap (fun v => toBytes 4 v.toNat)) ++ t.frame1.bytes ++ t.frame2.bytes

/-- One line of it. -/
def lineBytes (t : Thread) (n : Nat) : List Byte := bytesAt (128 * n) 128 (imageBytes t)

/-- The lines that `n` bytes from an offset on lie in. -/
def linesOf (off n : Nat) : List Nat := (upto ((off % 128 + n + 127) / 128)).map (off / 128 + ·)

/-- The lines of the trap frames behind a frame of so many registers (R7). -/
def trapLines (flim : Nat) : List Nat := linesOf (4 * flim) 128

/-- Where the current trap frame begins in the thread's part of the context image, and its lines: two where it crosses
from one into the next (R330). -/
def trapFrameAt (t : Thread) : Nat := 4 * t.flim + 64 * (t.tdepth - 1)
def trapFrameLines (t : Thread) : List Nat := linesOf (trapFrameAt t) 64

/-- The line of the field of the current trap frame that a system register views (R331, R333). -/
def trapFieldLine (t : Thread) (num : Nat) : Nat :=
  (trapFrameAt t + nth 0 (num - 0x010) [0, 8, 0x10, 0x18, 0x1C, 0x20, 0x28, 0x2C, 0x30, 0x38]) / 128

/-- The pool holds some lines: those it has not held are clean (R194). -/
def holdLines (l : List Nat) (t : Thread) : Thread :=
  { t with lines := l.foldl (fun b n => if (look n b).isSome then b else put n false b) t.lines }

/-- The thread whose frame has shrunk holds no line above it but its trap frames' (R119). -/
def keepLines (t : Thread) : Thread :=
  { t with lines := t.lines.filter (fun p => (linesOf 0 (4 * t.fsize) ++ trapLines t.flim).contains p.1) }

/-! ### Predicates (R6) -/

/-- p0 to p6, and p7, which is always true. -/
def predAt (t : Thread) (n : Nat) : Bool := n = 7 || t.preds.getLsbD n
/-- Write a predicate; a write to p7 is discarded. -/
def setPred (n : Nat) (v : Bool) (t : Thread) : Thread :=
  if 7 ≤ n then t
  else { t with preds := if v then t.preds ||| (1#7 <<< n) else t.preds &&& ~~~(1#7 <<< n) }
/-- Whether a predicate waits for the Task Queue Controller; p7 never does (R320). -/
def isPendP (t : Thread) (n : Nat) : Bool := n != 7 && t.pendP.getLsbD n

/-! ### Register numbers (R35) -/

/-- The classes of a register number. -/
inductive RegClass where
  | g | s | q | h | zr | reserved
  deriving DecidableEq, Repr

def regClass (n : BitVec 8) : RegClass :=
  if n < 0xC0#8 then .g
  else if n < 0xE0#8 then .s
  else if n < 0xF0#8 then .q
  else if n < 0xF8#8 then .h
  else if n = 0xF8#8 then .zr
  else .reserved

/-- The queue of a q-register of a thread: q0-q7 are the workgroup's, q8-q15 the pair's (R158, R247). -/
def queueAt (w : Workgroup) (t : Thread) (q : Nat) : List Word :=
  if q < 8 then nth [] q w.cq else (look (8 * t.tlin + (q - 8)) w.apq).getD []

def setQueue (t : Thread) (q : Nat) (l : List Word) (w : Workgroup) : Workgroup :=
  if q < 8 then { w with cq := setNth l q w.cq }
  else { w with apq := put (8 * t.tlin + (q - 8)) l w.apq }

/-- The value of `regs` consecutive registers from number `n`, the lowest at the low end (R9). The
`pops`-th entry is read of a q-register (R37). -/
def readReg (w : Workgroup) (t : Thread) (n : BitVec 8) (regs pops : Nat) : Nat :=
  match regClass n with
  | .g => (upto regs).foldl (fun v i => v + (readG t (n.toNat + i)).toNat * 2 ^ (32 * i)) 0
  | .s => (upto regs).foldl (fun v i => v + (nth 0 (n.toNat - 0xC0 + i) w.sreg).toNat * 2 ^ (32 * i)) 0
  | .q => (nth 0 pops (queueAt w t (n.toNat - 0xE0))).toNat
  | .h => (nth 0 (n.toNat - 0xF0) w.hval).toNat % 2 ^ (32 * regs)
  | .zr | .reserved => 0

/-- The words of a value, the lowest first. -/
def wordsFrom (v regs : Nat) : List Word := (upto regs).map (fun i => BitVec.ofNat 32 (v / 2 ^ (32 * i)))

/-- Write `regs` consecutive s-registers. -/
def writeS (n : Nat) (vs : List Word) (w : Workgroup) : Workgroup :=
  { w with sreg := ((upto vs.length).zip vs).foldl (fun l p => setNth p.2 (n + p.1) l) w.sreg }

/-- Write a value to a destination register of thread `k` (R6, R17, R35, R37): zr discards it, a
q-register takes it as a new entry. -/
def writeReg (k : Nat) (named : List Nat) (n : BitVec 8) (regs v : Nat) (td : Bool) (s : State) :
    State :=
  match regClass n with
  | .g => s.modThread k (writeG named n.toNat (wordsFrom v regs) td)
  | .s =>
    match look k s.threads with
    | some t => s.modWg t.wg (writeS (n.toNat - 0xC0) (wordsFrom v regs))
    | none => s
  | .q =>
    match look k s.threads with
    | some t =>
      s.modWg t.wg (fun w =>
        setQueue t (n.toNat - 0xE0) (queueAt w t (n.toNat - 0xE0) ++ [BitVec.ofNat 32 v]) w)
    | none => s
  | .h | .zr | .reserved => s

end Sys2Proof.Machine
end

