-- ==== Sys2Proof/Machine/Mem.lean ====
section
/-! DEFINITION. Device memory, scratchpad, the elastic pool's occupancy, the L1, home slices, address
translation and the undo log (R184-R209, R345). -/

namespace Sys2Proof.Machine

/-! ### Bytes of memory (R204): a canonical list -/

/-- What an address that the list does not hold reads as (DESIGN CHOICE, log 3). -/
def Memory.blank : Byte := 0

/-- The byte at an address (in part DESIGN CHOICE, log 3). -/
def memByte : List Host.Cell → Nat → Byte
  | [], _ => Memory.blank
  | (a', b) :: m, a => if a' = a then b else memByte m a

/-- Write one byte, keeping the form: rising addresses, and nothing listed that reads so unlisted
(in part DESIGN CHOICE, log 3). -/
def memPut : List Host.Cell → Nat → Byte → List Host.Cell
  | [], a, b => if b = Memory.blank then [] else [(a, b)]
  | (a', b') :: m, a, b =>
    if a < a' then (if b = Memory.blank then (a', b') :: m else (a, b) :: (a', b') :: m)
    else if a = a' then (if b = Memory.blank then m else (a, b) :: m)
    else (a', b') :: memPut m a b

/-- The addresses are strictly rising from `lo` on and no byte reads so unlisted. -/
def Memory.wfFrom : Nat → List Host.Cell → Bool
  | _, [] => true
  | lo, (a, b) :: m => decide (lo ≤ a) && b != Memory.blank && Memory.wfFrom (a + 1) m

/-- The canonical form of memory (in part DESIGN CHOICE, log 3). -/
def Memory.wf (m : List Host.Cell) : Bool := Memory.wfFrom 0 m

/-- `n` bytes from an address upward. -/
def memRead (m : List Host.Cell) (a : Nat) : Nat → List Byte
  | 0 => []
  | n + 1 => memByte m a :: memRead m (a + 1) n

/-- Write bytes from an address upward. -/
def memWrite (m : List Host.Cell) (a : Nat) : List Byte → List Host.Cell
  | [] => m
  | b :: l => memWrite (memPut m a b) (a + 1) l

/-- The line address of a byte (128-byte lines). -/
def lineOf (a : Nat) : Nat := a / 128

/-! ### Occupancy of the elastic pool (R184-R193, R387) -/

/-- Frame units of one thread: a unit for eight registers, and four for its trap frames (R185). -/
def unitsOf (fsize : Nat) : Nat := fsize / 8 + Config.trapUnits

/-- Frame units of the threads on a core. -/
def ownUnits (s : State) (c : Nat) : Nat :=
  (s.threads.filter (fun p => coreOf p.1 = c)).foldl (fun n p => n + unitsOf p.2.fsize) 0

/-- Scratchpad and window granules of a core's residue (R387). -/
def residuePads (l : Tbl Residue) : Nat := l.foldl (fun n p => n + p.2.pads.length) 0

/-- Residue units in a frame granule, and the granules that have some. -/
def residueIn (l : Tbl Residue) (g : Nat) : Nat := l.foldl (fun n p => n + ((look g p.2.units).getD []).length) 0
def residueGrans (l : Tbl Residue) : List Nat := distinct (l.flatMap (fun p => p.2.units.map (·.1)))

/-- Granules that hold so many frame units. -/
def granulesFor (units : Nat) : Nat := (units + Config.unitsPerGranule - 1) / Config.unitsPerGranule

/-- Units of a frame granule that residue leaves to the context that runs. -/
def unitRoom (l : Tbl Residue) (g : Nat) : Nat := Config.unitsPerGranule - residueIn l g

/-- Granules of the frame class with so many units of the context that runs: residue units share granules with them
(R387). -/
def frameNeed (s : State) (c units : Nat) : Nat :=
  let l := (s.core c).residue
  let gs := residueGrans l
  gs.length + granulesFor (units - (gs.map (unitRoom l)).sum)

def frameG (s : State) (c : Nat) : Nat := frameNeed s c (ownUnits s c)

/-- Scratchpad and queue-window granules of a core's workgroups (R158, R185). -/
def padG (s : State) (c : Nat) : Nat :=
  (s.wgs.filter (fun p => p.2.core = c)).foldl
    (fun n p => n + p.2.spsize / Config.granuleBytes + Config.windowGranules * p.2.windows.length) 0

/-- Allocated granules of a core: residue counts as allocated (R193, R387). -/
def allocatedG (s : State) (c : Nat) : Nat := frameG s c + padG s c + residuePads (s.core c).residue

/-- L1MAX, the L1's ceiling (R191). -/
def l1Max (c : Core) : Nat := (c.poolcfg.extractLsb' 0 10).toNat

/-- Granules of the L1: R193. -/
def l1G (s : State) (c : Nat) : Nat :=
  max Config.l1Floor (min (l1Max (s.core c)) (Config.granules - allocatedG s c))

/-- Unallocated granules. -/
def freeG (s : State) (c : Nat) : Nat := Config.granules - allocatedG s c - l1G s c

/-- Granules that variant switches will take for which the condition has held (R299). -/
def switchRoom (s : State) (c : Nat) : Nat :=
  ((s.wgs.filter (fun p => p.2.core = c)).flatMap (fun p => p.2.vsw.map (·.room))).sum

/-- Granules that a request can have now (R186). -/
def grantable (s : State) (c : Nat) : Nat := freeG s c + (l1G s c - Config.l1Floor) - switchRoom s c

/-- Granules that so many more frame units need, beside those already charged. -/
def unitsNeed (s : State) (c more : Nat) : Nat := frameNeed s c (ownUnits s c + more) - frameG s c

/-- Granules that a request needs: `asked` is in granules of scratchpad, or in frame units (R185). -/
def needOf (s : State) (core : Nat) (scratch : Bool) (asked : Nat) : Nat :=
  if scratch then asked else unitsNeed s core asked

/-- Granules that the oldest of some waiting requests need together, as many of them as are free to grant one after the
other: beside those before them, for which `pads` granules and `units` frame units are `n` granules. -/
def takenFirst (s : State) (c : Nat) : List PoolReq → Nat → Nat → Nat → Nat
  | [], _, _, n => n
  | r :: l, pads, units, n =>
    let pads := if r.scratch then pads + r.asked else pads
    let units := if r.scratch then units else units + r.asked
    let m := pads + unitsNeed s c units
    if m ≤ grantable s c then takenFirst s c l pads units m else n

/-- Granules that the wait list takes first: what its oldest requests need that are free to grant (R187, R188). -/
def listNeed (s : State) (c : Nat) : Nat := takenFirst s c (s.core c).waitList 0 0 0

/-! ### Which granules (R184-R186, R188, R191, R196)

The Pool Allocator chooses the granules of each class (R387): the lowest that are free (DESIGN CHOICE, log 77). -/

/-- Granules of a workgroup's scratchpad and windows. -/
def padNeed (w : Workgroup) : Nat := w.spsize / Config.granuleBytes
def winNeed (w : Workgroup) : Nat := Config.windowGranules * w.windows.length

/-- Some granules as a mask, and the granules of a mask, rising. -/
def granMask (l : List Nat) : BitVec 768 := l.foldl (fun m n => m ||| (1#768 <<< n)) 0
def maskGrans (m : BitVec 768) : List Nat := (upto Config.granules).filter (fun n => m.getLsbD n)

/-- The frame granules of a core, those with residue before the others. -/
def heldFrames (s : State) (c : Nat) : List Nat :=
  let (a, b) := (s.core c).frameGrans.partition (fun g => (residueGrans (s.core c).residue).contains g)
  a ++ b

/-- The granules of a core that stay taken: what each holder has of those that it needs. -/
def keptMask (s : State) (c : Nat) : BitVec 768 :=
  granMask ((heldFrames s c).take (frameG s c)
    ++ (s.wgs.filter (fun p => p.2.core = c)).flatMap (fun p =>
      p.2.padGrans.take (padNeed p.2) ++ p.2.winGrans.take (winNeed p.2))
    ++ (s.core c).residue.flatMap (fun p => p.2.pads))

/-- The granules that a core can give, in the order in which it does: unallocated ones, then those of the L1,
the highest first (R186). -/
def supplyOf (s : State) (c : Nat) : List Nat :=
  let kept := keptMask s c
  let l1 := (s.core c).l1Mask
  maskGrans (~~~kept &&& ~~~l1) ++ (maskGrans (l1 &&& ~~~kept)).reverse

/-- A holder comes to have as many granules as it needs; what is left to give. -/
def fitGrans (need : Nat) (held supply : List Nat) : List Nat × List Nat :=
  (held.take need ++ supply.take (need - held.length), supply.drop (need - held.length))

/-- The same for each workgroup of a core. -/
def fitWgs (c : Nat) : List Nat → Tbl Workgroup → List Nat × Tbl Workgroup
  | supply, [] => (supply, [])
  | supply, (g, w) :: l =>
    if w.core = c then
      let (a, supply) := fitGrans (padNeed w) w.padGrans supply
      let (b, supply) := fitGrans (winNeed w) w.winGrans supply
      let (supply, l) := fitWgs c supply l
      (supply, (g, { w with padGrans := a, winGrans := b }) :: l)
    else
      let (supply, l) := fitWgs c supply l
      (supply, (g, w) :: l)

/-- The L1's granules, of those that it still has, once it holds `n`: the highest leave, unallocated ones join,
the lowest first (R186, R188, R191). -/
def fitL1 (n : Nat) (have1 free : BitVec 768) : BitVec 768 :=
  let l := maskGrans have1
  granMask (l.take n ++ (maskGrans free).take (n - l.length))

/-- Granules of a core that no class holds. -/
def freeMask (s : State) (c : Nat) : BitVec 768 := ~~~keptMask s c &&& ~~~(s.core c).l1Mask

/-- Whether the pool holds the primary of a duplicate. -/
def hasPrimary (s : State) (d : Dup) : Bool := ((look d.thread s.threads).bind (fun t => look d.line t.lines)).isSome

/-- A granule that leaves the L1 takes the line in its way of every set with it (R199). A duplicate goes with its
granule and with its primary (R196); without DUPEN there are none (R191). -/
def dropHeld (s : State) (free : BitVec 768) (c : Core) : Core :=
  { c with
    l1 := c.l1.filter (fun l => c.l1Mask.getLsbD l.way)
    dups := if c.poolcfg.getLsbD 10 then c.dups.filter (fun d => free.getLsbD d.granule && hasPrimary s d)
      else [] }

/-- How many granules the L1 comes to hold of which it has some: R193's count, but those that the wait list takes do
not join it before (R188). -/
def l1Target (s : State) (c have1 : Nat) : Nat := max (min have1 (l1G s c)) (l1G s c - listNeed s c)

/-- The Pool Allocator gives and takes granules until each class has what is charged to it. -/
def settlePool (c : Nat) (s : State) : State :=
  let (fr, supply) := fitGrans (frameG s c) (heldFrames s c) (supplyOf s c)
  let (_, wgs) := fitWgs c supply s.wgs
  let s := { s with wgs := wgs }.modCore c (fun v => { v with frameGrans := fr })
  let kept := keptMask s c
  let s := s.modCore c (fun v => { v with
    l1Mask := fitL1 (l1Target s c (maskGrans (v.l1Mask &&& ~~~kept)).length) (v.l1Mask &&& ~~~kept)
      (~~~v.l1Mask &&& ~~~kept) })
  s.modCore c (dropHeld s (freeMask s c))

/-! ### Banks (R184) -/

/-- Where a unit of the context that runs is among frame granules. -/
def unitPlace (l : Tbl Residue) : List Nat → Nat → Option Nat
  | [], _ => none
  | g :: gs, i => if i < unitRoom l g then some g else unitPlace l gs (i - unitRoom l g)

/-- The granule of a frame unit of a thread, counted from the thread's first. -/
def unitGranule (s : State) (k unit : Nat) : Option Nat :=
  let before := (s.threads.filter (fun p => coreOf p.1 = coreOf k && decide (p.1 < k))).foldl
    (fun n p => n + unitsOf p.2.fsize) 0
  unitPlace (s.core (coreOf k)).residue (s.core (coreOf k)).frameGrans (before + unit)

/-- The granule of a byte of a workgroup's scratchpad. -/
def padGranule (w : Workgroup) (off : Nat) : Option Nat := w.padGrans[off / Config.granuleBytes]?

/-- Whether a bank serves another slot than a thread's in this cycle. -/
def bankTaken (s : State) (k bank : Nat) : Bool :=
  match look bank (s.core (coreOf k)).bankUse with
  | some n => n != slotOf k
  | none => false

/-- Whether an issue for a thread must wait for the bank of one of some granules: an issue of another slot, which
has gone first, uses it in this cycle, or one that has waited for it since an earlier cycle (R184). -/
def banksBusy (s : State) (k : Nat) (grans : List Nat) : Bool := grans.any (fun g => bankTaken s k (g % Config.banks))

/-- The wait for the first such bank. -/
def bankStall (s : State) (k : Nat) (grans : List Nat) : Stall :=
  ⟨3, 0, ((grans.map (· % Config.banks)).find? (bankTaken s k)).getD 0⟩

/-- The banks of some granules serve a thread's slot in this cycle, however many of its lanes meet in one
(in part DESIGN CHOICE, log 77). -/
def useBanks (k : Nat) (grans : List Nat) (s : State) : State :=
  if grans.isEmpty then s
  else s.modCore (coreOf k) (fun c => { c with
    bankUse := grans.foldl (fun b g => put (g % Config.banks) (slotOf k) b) c.bankUse })

/-! ### The L1 (R199-R201) -/

def l1Find (line cid : Nat) (l : List L1Line) : Option L1Line :=
  l.find? (fun e => e.line = line && e.cid = cid)

/-- The priority of a resident line after an access with a hint (R201). -/
def hinted (hint : Nat) (p : Prio) : Prio :=
  if hint = 2 then .last
  else if hint = 1 then (match p with | .normal => .first | q => q)
  else p

/-- The priority that a fill gives a line (R201). -/
def filledPrio (hint : Nat) : Prio := if hint = 2 then .last else if hint = 1 then .first else .normal

/-- The least recently used of some lines. -/
def oldest (l : List L1Line) : Option L1Line :=
  l.foldl (fun b e => match b with
    | none => some e
    | some m => if e.use < m.use then some e else some m) none

/-- The line that a full set gives up (R201): of the lowest priority in it, the least recently used. -/
def victimLine (set : List L1Line) : Option L1Line :=
  match oldest (set.filter (fun l => l.prio = .first)) with
  | some l => some l
  | none =>
    match oldest (set.filter (fun l => l.prio = .normal)) with
    | some l => some l
    | none => oldest set

/-- The way of a set that a fill takes (R199, R201): an invalid way of the lowest granule first. -/
def fillWay (ways : List Nat) (set : List L1Line) : Nat :=
  match ways.find? (fun w => !(set.any (fun l => l.way = w))) with
  | some w => w
  | none => ((victimLine set).map (·.way)).getD 0

/-- Fill a line into a core's L1 (R199). A line filled with the read-only hint is marked so (R200). -/
def l1Fill (c line cid hint : Nat) (bytes : List Byte) (s : State) : State :=
  let (u, s) := s.fresh
  s.modCore c (fun v =>
    let rest := v.l1.filter (fun l => !(l.line = line && l.cid = cid))
    let set := rest.filter (fun l => l.line % 16 = line % 16)
    let way := fillWay (maskGrans v.l1Mask) set
    let keep := rest.filter (fun l => !(l.line % 16 = line % 16 && l.way = way))
    { v with l1 := ⟨line, cid, way, bytes, hint = 3, filledPrio hint, u⟩ :: keep })

/-- A load finds its line: the line's use and priority change (R201). -/
def l1Touch (c line cid hint : Nat) (s : State) : State :=
  let (u, s) := s.fresh
  s.modCore c (fun v => { v with l1 := v.l1.map (fun l =>
    if l.line = line && l.cid = cid then { l with use := u, prio := hinted hint l.prio } else l) })

/-- A resident line is filled again: bytes, priority and mark are the fill's (R201). -/
def l1Refill (c line cid hint : Nat) (bytes : List Byte) (s : State) : State :=
  let (u, s) := s.fresh
  s.modCore c (fun v => { v with l1 := v.l1.map (fun l =>
    if l.line = line && l.cid = cid then
      { l with bytes := bytes, use := u, prio := filledPrio hint, readOnly := l.readOnly || hint = 3 }
    else l) })

/-- A store updates the bytes of a line that the L1 holds (R199), which is no use of it for R201
(in part DESIGN CHOICE, log 8). -/
def l1Store (c cid addr : Nat) (bytes : List Byte) (s : State) : State :=
  s.modCore c (fun v => { v with l1 := v.l1.map (fun l =>
    if l.line = lineOf addr && l.cid = cid then
      { l with bytes := patch (addr % 128) bytes l.bytes } else l) })

/-- Invalidate a core's L1 lines that are not marked read-only (R200, R216). -/
def l1Acquire (c : Nat) (s : State) : State :=
  s.modCore c (fun v => { v with l1 := v.l1.filter (·.readOnly) })

/-- Invalidate a core's L1 lines that overlap bytes `a` to `a + n − 1` of device memory. -/
def l1Drop (c a n : Nat) (s : State) : State :=
  s.modCore c (fun v => { v with l1 := v.l1.filter (fun l =>
    !(decide (l.line * 128 < a + n) && decide (a < l.line * 128 + 128))) })

/-! ### Home slices (R202, R203, R354) -/

/-- The home slice of a device physical address (R202). -/
def sliceOf (d : Nat) : Nat :=
  bits d 13 7 ^^^ bits d 20 14 ^^^ bits d 27 21 ^^^ bits d 34 28 ^^^ bits d 38 35

/-- A load finds its line, and its hint applies to the line in the home slice too, where that holds it (R201, R224). -/
def l1Hinted (c pa cid hint : Nat) (s : State) : State :=
  (l1Touch c (lineOf pa) cid hint s).modSlice (sliceOf pa) (fun v => { v with lines := v.lines.map (fun p =>
    if p.1 = lineOf pa && p.2.cid = cid then (p.1, { p.2 with prio := hinted hint p.2.prio }) else p) })

/-- The name of a partition: the section mask that its functions share (R394). -/
def partitionOf (s : State) (fn : Nat) : Nat := (s.vf fn).sect.toNat

/-- The home slice performs a store, atomic or reduction for a function: the partition's counter rises
and its new value is the sequence tag (R203). -/
def takeTag (fn d : Nat) (s : State) : Word × State :=
  let h := sliceOf d
  let p := partitionOf s fn
  let t := (look p (s.slice h).seqs).getD 0 + 1
  (t, s.modSlice h (fun v => { v with seqs := put p t v.seqs }))

/-- The channel of a device physical address (R204), and its stack (R2). -/
def channelOf (d : Nat) : Nat := d / Config.channelBytes
def stackOf (channel : Nat) : Nat := channel / 32

/-- The bytes of a line that an access touches, as a mask. -/
def byteMask (d n : Nat) : BitVec 128 := (BitVec.ofNat 128 (2 ^ n - 1)) <<< (d % 128)

/-- The least recently used of some slice lines, by line address. -/
def oldestIn (l : Tbl SliceLine) : Option (Nat × SliceLine) :=
  l.foldl (fun b e => match b with
    | none => some e
    | some m => if e.2.use < m.2.use then some e else some m) none

/-- The line that a full set of a slice gives up (R201). -/
def sliceVictim (set : Tbl SliceLine) : Option (Nat × SliceLine) :=
  match oldestIn (set.filter (fun p => p.2.prio = .first)) with
  | some l => some l
  | none =>
    match oldestIn (set.filter (fun p => p.2.prio = .normal)) with
    | some l => some l
    | none => oldestIn set

/-- Make room for a line in its set of a slice: a victim is written back, which changes no byte here, and
leaves (R201, R202) (in part DESIGN CHOICE, log 8). -/
def sliceRoom (line : Nat) (l : Tbl SliceLine) : Tbl SliceLine :=
  let set := l.filter (fun p => Config.sliceSet p.1 = Config.sliceSet line)
  if set.length < Config.sliceWays && decide (l.length < Config.sliceLines) then l
  else
    match sliceVictim (if set.isEmpty then l else set) with
    | some v => l.filter (fun p => p.1 != v.1)
    | none => l

/-- A line as it stands in a slice after an access with a hint, that has brought the bytes of `valid`: a line of
another CID is written back and leaves (R201, R205). -/
def touchedLine (fn cid hint use : Nat) (dirty : Bool) (valid : BitVec 128) (old : Option SliceLine) : SliceLine :=
  let new : SliceLine := ⟨cid, fn, dirty, valid, filledPrio hint, use⟩
  match old with
  | some l =>
    if l.cid = cid then
      { l with dirty := l.dirty || dirty, valid := l.valid ||| valid, prio := hinted hint l.prio, use := use }
    else new
  | none => new

/-- The slice holds the line of an access, under its CID, with the hint's priority (R201, R202, R205). A store
brings its own bytes only (in part DESIGN CHOICE, log 8). -/
def sliceBring (fn cid d hint : Nat) (dirty : Bool) (valid : BitVec 128) (s : State) : State :=
  let (u, s) := s.fresh
  s.modSlice (sliceOf d) (fun v =>
    let line := lineOf d
    let old := look line v.lines
    { v with
      lines := put line (touchedLine fn cid hint u dirty valid old)
        (if old.isSome then v.lines else sliceRoom line v.lines)
      alloc := if v.alloc.contains fn then v.alloc else v.alloc ++ [fn] })

/-- A read, a fill or an atomic needs the whole line. -/
def sliceTouch (fn cid d hint : Nat) (dirty : Bool) (s : State) : State :=
  sliceBring fn cid d hint dirty (BitVec.allOnes 128) s

/-- Whether a CID belongs to a function (R391). -/
def ownsCid (s : State) (fn cid : Nat) : Bool :=
  let b := (s.ctx fn).cidb
  decide (b ≤ cid) && decide (cid < b + 2 ^ bits (s.vf fn).ctl.toNat 7 4)

/-- A function's keys as one number: the data key, VFKEY0 to VFKEY3, below the tweak key, VFKEY4 to VFKEY7 (R402). -/
def keysOf (v : VF) : Nat := v.keys.foldr (fun k n => k.toNat + 2 ^ 64 * n) 0

/-- The keys in force for a CID: those of the function that owns it (R402). -/
def keyOf (s : State) (cid : Nat) : Nat :=
  ((s.vfs.find? (fun p => p.2.ctl.getLsbD 0 && ownsCid s p.1 cid)).map (fun p => keysOf p.2)).getD 0

/-- The CID and the keys that a line was written under (R402). -/
def lineTag (s : State) (cid : Nat) : Nat := cid + 2 ^ 16 * keyOf s cid

/-- What its 64-bit tag binds: the CID and the data key (R402). -/
def boundTag (tag : Nat) : Nat := tag % 2 ^ 272

/-- A line's bytes are free values from now on. -/
def freeLine (f : Nat → Byte) (line : Nat) (s : State) : State :=
  { s with
    mem := memWrite s.mem (line * 128) ((upto 128).map (fun i => f (s.freeCtr + i)))
    freeCtr := s.freeCtr + 128 }

/-- Lines whose tag a function's keys satisfy, but that were written under another tweak key, do not decrypt to what was
written (R402) (in part DEDUCED, log 9). -/
def garbleLines (fn : Nat) (s : State) : State :=
  (s.lineCid.filter (fun p =>
    let cid := p.2 % 2 ^ 16
    ownsCid s fn cid && p.2 != lineTag s cid && boundTag p.2 = boundTag (lineTag s cid))).foldl
    (fun s p => { freeLine Config.garbledByte p.1 s with lineCid := put p.1 (lineTag s (p.2 % 2 ^ 16)) s.lineCid }) s

/-- Whether the management function answers: its endpoint has an address (R392), and the start reached stage 7 (R420). -/
def mgmtUp (s : State) : Bool := s.boot.up && (s.vf 0).addr != 0

/-- What comes through the management function: nothing while that does not answer. -/
def viaMgmt (f : State → State) (s : State) : State := if mgmtUp s then f s else s

/-- RECCTL.MODE: 0 off, 1 record, 2 replay (R367). -/
def recMode (s : State) (fn : Nat) : Nat := bits (s.ctx fn).recctl.toNat 1 0

/-- Whether a word is at or past a target: their difference modulo 2^64, read as signed, is not negative (R416). -/
def reaches (word target : Nat) : Bool := decide (0 ≤ sextInt 64 (wrapNat 64 ((word : Int) - target)))

/-- The device address and the target of a thread that waits at NWAIT, whose read is served: its stall keeps the one, its
sources hold the other. -/
def nwaitAt (t : Thread) : Option (Nat × Nat) :=
  match t.stall, t.held with
  | some st, some l => if st.state = 16 && st.arg % 8 = 0 then some (st.arg, nth 0 1 l) else none
  | _, _ => none

/-- The word of a waiting NWAIT that a write to the line brings to its target (R416). A context that records or replays
reads the word when its ordering point serves the thread (DESIGN CHOICE, log 85). -/
def nwaitMet (s : State) (line : Nat) (t : Thread) : Option Nat :=
  (nwaitAt t).bind (fun x =>
    let v := ofBytes (memRead s.mem x.1 8)
    if lineOf x.1 = line && recMode s t.fn = 0 && reaches v x.2 then some v else none)

/-- The comparison of waiting NWAITs is made again as a slice writes a line; a word that meets a target is kept. -/
def noticeWaits (line : Nat) (s : State) : State :=
  { s with noticed := s.threads.foldl (fun (l : Tbl Nat) p =>
      match (if (look p.1 l).isSome then none else nwaitMet s line p.2) with
      | some v => put p.1 v l
      | none => l) s.noticed }

/-- Write bytes of one line of device memory at its home slice: the bytes, the line's owner tag (R402), the
slice's copy with its valid bits (R202). -/
def homeWrite (fn cid d hint : Nat) (bytes : List Byte) (s : State) : State :=
  let s := sliceBring fn cid d hint true (byteMask d bytes.length) s
  noticeWaits (lineOf d)
    { s with mem := memWrite s.mem d bytes, lineCid := put (lineOf d) (lineTag s cid) s.lineCid }

/-- Bytes from an address on, cut at the ends of lines. -/
def linePieces : Nat → Nat → List Byte → List (Nat × List Byte)
  | 0, _, _ => []
  | fuel + 1, d, l =>
    if l.isEmpty then []
    else
      let m := 128 - d % 128
      (d, l.take m) :: linePieces fuel (d + m) (l.drop m)

/-- The lines that `n` bytes from an address on lie in. -/
def touched (pa n : Nat) : List Nat := if n = 0 then [] else (upto ((pa % 128 + n - 1) / 128 + 1)).map (lineOf pa + ·)

/-- Read bytes at the home slices: every line is touched. -/
def sliceReads (fn cid pa n : Nat) (s : State) : State :=
  (touched pa n).foldl (fun s l => sliceTouch fn cid (l * 128) 0 false s) s

/-- Whether a line carries the tag of another CID or of another data key, so that decryption fails its check
(R205, R402) (in part DEDUCED, log 9). -/
def foreign (s : State) (cid d : Nat) : Bool :=
  match look (lineOf d) s.lineCid with
  | some c => boundTag c != boundTag (lineTag s cid)
  | none => false

/-- The first of some bytes' lines whose fill fails its integrity check, with the CID that it is filled under (R205, R402). -/
def firstForeign (s : State) (cid pa n : Nat) : Option (Nat × Nat) :=
  ((touched pa n).find? (fun i => foreign s cid (128 * i))).map (fun i => (128 * i, cid))

/-- The same of the lines that a write of some bytes does not cover: the others it does not fill. -/
def partForeign (s : State) (cid pa n : Nat) : Option (Nat × Nat) :=
  ((touched pa n).find? (fun i => foreign s cid (128 * i)
    && !(decide (pa ≤ 128 * i) && decide (128 * i + 128 ≤ pa + n)))).map (fun i => (128 * i, cid))

/-- A lookup that meets another CID's line writes it back, drops it and fills under its own CID, also where that fill
fails its integrity check (R205). -/
def foreignFill (fn : Nat) (x : Nat × Nat) (s : State) : State := sliceTouch fn x.2 x.1 0 false s

/-! ### The undo log (R345, R347) -/

/-- Entries that the undo area holds: 144 bytes each. -/
def undoRoom (c : Context) : Nat := c.undoSize.toNat / 144

/-- Whether a write to a place needs an entry: it is the place's first of the epoch; before a context has been started
there is none (in part DEDUCED, log 19). -/
def needsEntry (s : State) (fn : Nat) (p : Kept) : Bool :=
  (s.ctx fn).live && !((s.ctx fn).undo.any (fun u => u.place = p && u.epoch = (s.ctx fn).epoch))

/-- The same for a line of device memory. -/
def needsUndo (s : State) (fn d : Nat) : Bool := needsEntry s fn (.memory (lineOf d))

/-- Whether an operation writes memory (in part DEDUCED, log 28). -/
def OpKind.writes : OpKind → Bool
  | .load | .fill => false
  | _ => true

/-- Whether a thread has issued an operation. -/
def MemOp.issuedBy (o : MemOp) (k : Nat) : Bool := o.thread = k || o.others.contains k

/-- Whether an operation still waits for its place to perform it. -/
def MemOp.waiting (o : MemOp) : Bool := o.stage != .performed

/-- Lines of device memory that operations on their way will need an entry for. -/
def undoWaiting (s : State) (fn : Nat) : List Nat :=
  distinct ((s.ops.filter (fun o => o.fn = fn && !o.aperture && o.kind.writes && o.waiting
    && needsUndo s fn o.addr)).map (fun o => lineOf o.addr))

/-- Whether the log's writes are allowed: its area is device memory (R345) (in part DEDUCED, log 19). -/
def logSound (s : State) (fn : Nat) : Bool :=
  decide ((s.ctx fn).undoArea.toNat + (s.ctx fn).undoSize.toNat ≤ Config.deviceTop)

/-- Whether the undo log accepts so many entries more: it may write them, and has room for them beside those that
operations on their way will take (R345, R347). -/
def undoHolds (s : State) (fn n : Nat) : Bool :=
  n = 0 || logSound s fn && decide ((s.ctx fn).undo.length + (undoWaiting s fn).length + n ≤ undoRoom (s.ctx fn))

/-- Whether an access to device memory that writes must wait for room in the undo log (R347). -/
def undoFull (s : State) (fn pa : Nat) : Bool :=
  needsUndo s fn pa && !(undoWaiting s fn).contains (lineOf pa) && !undoHolds s fn 1

/-- The same for a write to bytes of a scratchpad. -/
def padFull (s : State) (fn wg off : Nat) : Bool :=
  needsEntry s fn (.pad wg (lineOf off)) && !undoHolds s fn 1

/-- The log takes an entry. -/
def addEntry (fn : Nat) (p : Kept) (cid : Nat) (bytes : List Byte) (s : State) : State :=
  s.modCtx fn (fun c => { c with undo := c.undo ++ [⟨p, cid, bytes, c.epoch⟩], logged := c.logged + 1 })

/-- Log a line of device memory as it is before the write. -/
def logUndo (fn cid d : Nat) (s : State) : State :=
  addEntry fn (.memory (lineOf d)) cid (memRead s.mem (lineOf d * 128) 128) s

/-- Log a line of a scratchpad as it is before the write (R345). -/
def logPad (fn wg off : Nat) (s : State) : State :=
  match look wg s.wgs with
  | none => s
  | some w =>
    if needsEntry s fn (.pad wg (lineOf off)) then
      addEntry fn (.pad wg (lineOf off)) (s.ctx fn).cidb (memRead w.pad (lineOf off * 128) 128) s
    else s

/-- The sections and cores of a function's partition. -/
def partSections (s : State) (fn : Nat) : List Nat := sectionsOf (s.vf fn).sect
def partCores (s : State) (fn : Nat) : List Nat := (partSections s fn).flatMap (fun i => (upto 4).map (4 * i + ·))

/-- Where a context's unit images lie: after the frames, which are places of the partition times
FRAMESTRIDE (DEDUCED, log 21). -/
def unitImages (s : State) (fn : Nat) : Nat :=
  (s.ctx fn).frameBase.toNat + 1536 * (partCores s fn).length * (s.ctx fn).frameStride.toNat

/-- The unit image of a section of a context (R346). -/
def unitImage (s : State) (fn sect : Nat) : Nat :=
  unitImages s fn + 128 * Config.unitImageLines * s.sectNo fn sect

/-- Write bytes at a device address under a function's CID. -/
def areaWrite (fn a : Nat) (bytes : List Byte) (s : State) : State :=
  let lines := distinct ((upto bytes.length).map (fun i => lineOf (a + i)))
  { s with
    mem := memWrite s.mem a bytes
    lineCid := lines.foldl (fun (t : Tbl Nat) i => put i (lineTag s (s.ctx fn).cidb) t) s.lineCid }

/-- The home slice performs an engine's or network write to one line: logged first where the epoch needs it. -/
def lineWrite (fn cid : Nat) (s : State) (p : Nat × List Byte) : State :=
  let s := if needsUndo s fn p.1 then logUndo fn cid p.1 s else s
  homeWrite fn cid p.1 0 p.2 (takeTag fn p.1 s).2

/-- An engine's or network write at the home slices, line by line (R203, R345). -/
def loggedWrite (fn cid d : Nat) (bytes : List Byte) (s : State) : State :=
  (linePieces (bytes.length + 1) d bytes).foldl (lineWrite fn cid) s

/-! ### Translation (R206, R207) -/

/-- What translation finds. `park` is a recoverable fault at a stage and page, of a virtual address; a violation carries
the kind of R331; a line can fail its integrity check, filled under some CID (R402). -/
inductive Xlat where
  | ok (pa cid : Nat)
  | park (stage page va : Nat)
  | violation (kind : Nat)
  | integrity (pa cid : Nat)
  deriving DecidableEq, Repr

/-- The line that failed its integrity check, if that is what translation met. -/
def Xlat.failed : Xlat → Option (Nat × Nat)
  | .integrity pa cid => some (pa, cid)
  | _ => none

/-- What an access needs (R206). -/
inductive Need where
  | read | write | both | exec
  deriving DecidableEq, Repr

/-- A leaf that a walk of one stage reached: output page base, page bits, CID, permissions. -/
structure Leaf where
  base : Nat
  bits : Nat
  cid : Nat
  r : Bool
  w : Bool
  x : Bool
  deriving DecidableEq, Repr

/-- What a walk of one stage ends in. -/
inductive Walk where
  | leaf (l : Leaf)
  | invalid (stage page : Nat)
  | bad
  | foreign (pa cid : Nat)
  deriving DecidableEq, Repr

/-- An 8-byte table entry. -/
def entryAt (m : List Host.Cell) (a : Nat) : Nat := ofBytes (memRead m a 8)

/-- Reserved bits of an entry, and its CID field where it holds none (R206) (in part DEDUCED, log 30). -/
def entryBad (hyp leaf : Bool) (e : Nat) : Bool :=
  bits e 63 60 != 0 || bit e 8 || bits e 4 3 != 0 || (!(hyp && leaf) && bits e 59 44 != 0)

/-- Bits that must agree in the 16 entries of a 64 KiB page: all but SW (in part DEDUCED, log 30). -/
def contBits (e : Nat) : Nat := e - bits e 11 9 * 512

/-- The leaf that an entry at a level holds, if it is a proper one (R206, R207): a level-4 entry is one, CONT stands in
level-4 entries only, and a large leaf's address is aligned (in part DEDUCED, log 30). -/
def leafOf (hyp : Bool) (level e : Nat) : Option Leaf :=
  let size := if level = 2 then 30 else if level = 3 then 21 else if bit e 2 then 16 else 12
  if level < 2 || entryBad hyp true e || bits e 43 12 * 4096 % 2 ^ size != 0
    || (level != 4 && bit e 2) then none
  else some ⟨bits e 43 12 * 4096, size, bits e 59 44, bit e 5, bit e 6, bit e 7⟩

/-- Walk one stage from a level's table on. `fetch` maps a table address of this stage to the device
address it is read at, or says how that failed (in part DEDUCED, log 30). -/
def walkFrom (hyp : Bool) (m : List Host.Cell) (fetch : Nat → Sum Walk Nat) (stage page va : Nat) :
    Nat → Nat → Nat → Walk
  | 0, _, _ => .bad
  | fuel + 1, level, table =>
    let i := bits va (56 - 9 * level) (48 - 9 * level)
    match fetch (table + 8 * i) with
    | .inl w => w
    | .inr a =>
      let e := entryAt m a
      if !bit e 0 then .invalid stage page
      else if bit e 1 then
        match leafOf hyp level e with
        | none => .bad
        | some l =>
          if level = 4 && bit e 2
              && (upto 16).any (fun j =>
                match fetch (table + 8 * (i / 16 * 16 + j)) with
                | .inl _ => true
                | .inr b => contBits (entryAt m b) != contBits e) then .bad
          else .leaf l
      else if level = 4 || entryBad hyp false e || bit e 2 then .bad
      else walkFrom hyp m fetch stage page va fuel (level + 1) (bits e 43 12 * 4096)

/-- The hypervisor stage: an intermediate address to a device physical one. -/
def walkHyp (m : List Host.Cell) (root ia : Nat) : Walk :=
  walkFrom true m (fun a => .inr a) 2 (ia / 4096) ia 5 0 root

/-- Where a tenant-stage table address is read: through the hypervisor stage, whose leaf must give R. The line must
pass its integrity check under that stage's CID (R206, R402) (in part DEDUCED, log 9, DEDUCED, log 30). -/
def tableAt (s : State) (hroot a : Nat) : Sum Walk Nat :=
  match walkHyp s.mem hroot a with
  | .leaf l =>
    let pa := l.base + a % 2 ^ l.bits
    if !(l.r && decide (pa < Config.deviceTop)) then .inl .bad
    else if foreign s l.cid pa then .inl (.foreign pa l.cid)
    else .inr pa
  | w => .inl w

/-- Both stages: the combined entry for the page of a virtual address (R206, R207). -/
def walkBoth (s : State) (fn va : Nat) : Sum Xlat TlbEntry :=
  let c := s.ctx fn
  let miss (stage page : Nat) : Xlat := if c.pageable then .park stage page va else .violation 0
  match walkFrom false s.mem (tableAt s c.hst.toNat) 1 (va / 4096) va 5 0 c.tst.toNat with
  | .bad => .inl (.violation 0)
  | .foreign pa cid => .inl (.integrity pa cid)
  | .invalid stage page => .inl (miss stage page)
  | .leaf t =>
    let ia := t.base + va % 2 ^ t.bits
    match walkHyp s.mem c.hst.toNat ia with
    | .bad | .foreign _ _ => .inl (.violation 0)
    | .invalid stage page => .inl (miss stage page)
    | .leaf h =>
      let size := min t.bits h.bits
      let pa := h.base + ia % 2 ^ h.bits
      if Config.deviceTop ≤ pa then .inl (.violation 0)
      else .inr ⟨fn, va / 2 ^ size, size, pa / 2 ^ size * 2 ^ size, h.cid,
        t.r && h.r, t.w && h.w, t.x && h.x⟩

/-- The entry of a TLB for an address. -/
def tlbFind (fn va : Nat) (l : List TlbEntry) : Option TlbEntry :=
  l.find? (fun e => e.fn = fn && e.page = va / 2 ^ e.bits)

/-- Whether an entry allows an access. -/
def allows (e : TlbEntry) : Need → Bool
  | .read => e.r
  | .write => e.w
  | .both => e.r && e.w
  | .exec => e.x

/-- The outcome of an access through a TLB entry. -/
def through (e : TlbEntry) (need : Need) (va : Nat) : Xlat :=
  if allows e need then .ok (e.pa + va % 2 ^ e.bits) e.cid else .violation 1

/-- Translate without changing the TLBs: what a TLB holds goes before the tables (R208). -/
def peek (s : State) (fn core : Nat) (need : Need) (va : Nat) : Xlat :=
  if 2 ^ 57 ≤ va then .violation 2
  else
    match tlbFind fn va (s.core core).tlb with
    | some e => through e need va
    | none =>
      match tlbFind fn va (s.sect (sectOf core)).tlb2 with
      | some e => through e need va
      | none =>
        match walkBoth s fn va with
        | .inl x => x
        | .inr e => through e need va

/-- The table entries that a walk of one stage reads, first to last: each one's address in the stage, and the
device address that `fetch` gives for it, if it gives one. -/
def walkReads (hyp : Bool) (m : List Host.Cell) (fetch : Nat → Sum Walk Nat) (va : Nat) :
    Nat → Nat → Nat → List (Nat × Option Nat)
  | 0, _, _ => []
  | fuel + 1, level, table =>
    let a := table + 8 * bits va (56 - 9 * level) (48 - 9 * level)
    match fetch a with
    | .inl _ => [(a, none)]
    | .inr d =>
      let e := entryAt m d
      (a, some d) :: (if !bit e 0 || bit e 1 || level = 4 || entryBad hyp false e || bit e 2 then []
        else walkReads hyp m fetch va fuel (level + 1) (bits e 43 12 * 4096))

/-- The device addresses that the page walkers read in the hypervisor stage for an address of the tenant's. -/
def hypTouches (s : State) (fn ia : Nat) : List Nat :=
  (walkReads true s.mem (fun a => .inr a) ia 5 0 (s.ctx fn).hst.toNat).filterMap (·.2)

/-- The device addresses that the page walkers read for a virtual address: the tenant stage's entries, each after
the hypervisor stage's for its address, then the hypervisor stage's for the page (R206, R208). -/
def walkTouches (s : State) (fn va : Nat) : List Nat :=
  let c := s.ctx fn
  let fetch := tableAt s c.hst.toNat
  (walkReads false s.mem fetch va 5 0 c.tst.toNat).flatMap (fun p => hypTouches s fn p.1 ++ p.2.toList)
    ++ (match walkFrom false s.mem fetch 1 (va / 4096) va 5 0 c.tst.toNat with
      | .leaf t => hypTouches s fn (t.base + va % 2 ^ t.bits)
      | _ => [])

/-- Table entries are read through the home slices (R208), under the CID that their lines carry. -/
def readTables (fn : Nat) (l : List Nat) (s : State) : State :=
  l.foldl (fun s a =>
    sliceTouch fn (((look (lineOf a) s.lineCid).map (· % 2 ^ 16)).getD (s.ctx fn).cidb) a 0 false s) s

/-- A walk reads its tables, whatever it ends in: also the stage's that has found a page not present. -/
def walkSlices (fn va : Nat) (s : State) : State := readTables fn (walkTouches s fn va) s

/-- The set of a section's TLB that a page falls in: the low bits of its number (DESIGN CHOICE, log 10). -/
def tlbSet (e : TlbEntry) : Nat := e.page % Config.sectTlbSets

/-- A section's TLB takes an entry: of a full set the one that came first leaves (R208)
(in part DESIGN CHOICE, log 10). -/
def tlbPut (e : TlbEntry) (l : List TlbEntry) : List TlbEntry :=
  let keep := (l.filter (fun x => tlbSet x = tlbSet e)).take (Config.sectTlbWays - 1)
  e :: l.filter (fun x => tlbSet x != tlbSet e || keep.contains x)

/-- What a translation that misses the core's TLB finds: the entry of the section's, or that of a walk, which the
section's takes (R208). An engine's translation ends here (in part DESIGN CHOICE, log 10). -/
def sectXlat (fn core va : Nat) (s : State) : Option TlbEntry × State :=
  match tlbFind fn va (s.sect (sectOf core)).tlb2 with
  | some e => (some e, s)
  | none =>
    match walkBoth s fn va with
    | .inl _ => (none, walkSlices fn va s)
    | .inr e => (some e, (walkSlices fn va s).modSect (sectOf core) (fun n => { n with tlb2 := tlbPut e n.tlb2 }))

/-- The TLBs after a translation: the core's and the section's take the page (R208; the replaced entry is the
oldest) (in part DESIGN CHOICE, log 10). -/
def tlbTake (fn core va : Nat) (s : State) : State :=
  match tlbFind fn va (s.core core).tlb with
  | some _ => s
  | none =>
    match sectXlat fn core va s with
    | (none, s) => s
    | (some e, s) => s.modCore core (fun c => { c with tlb := (e :: c.tlb).take Config.coreTlb })

/-- The device address and CID of a byte of the context whatever its page permits; none where it does not
translate (R236, R241). -/
def mapped (s : State) (fn core va : Nat) : Option (Nat × Nat) :=
  let at1 (e : TlbEntry) : Option (Nat × Nat) := some (e.pa + va % 2 ^ e.bits, e.cid)
  if 2 ^ 57 ≤ va then none
  else
    match tlbFind fn va (s.core core).tlb, tlbFind fn va (s.sect (sectOf core)).tlb2 with
    | some e, _ => at1 e
    | none, some e => at1 e
    | none, none =>
      match walkBoth s fn va with
      | .inl _ => none
      | .inr e => at1 e

/-- The line of the tables that fails its integrity check when such an address is translated (R402). -/
def mappedFails (s : State) (fn core va : Nat) : Option (Nat × Nat) :=
  if 2 ^ 57 ≤ va || (tlbFind fn va (s.core core).tlb).isSome || (tlbFind fn va (s.sect (sectOf core)).tlb2).isSome then none
  else
    match walkBoth s fn va with
    | .inl x => x.failed
    | .inr _ => none

/-! ### Entries of the undo log (R345, R346) -/

/-- Where a line of a section's unit image lies: like a frame's line, it is translated; where the tables do not map
it the address stands (in part DESIGN CHOICE, log 4). -/
def unitPa (s : State) (fn sect n : Nat) : Nat :=
  let a := unitImage s fn sect + 128 * n
  ((mapped s fn (4 * sect) a).map (·.1)).getD a

/-- The address that an entry records of its place (R345, R346). -/
def keptAddr (s : State) (fn : Nat) : Kept → Nat
  | .memory line => line * 128
  | .pad wg line => (Config.padImage wg line).toNat
  | .unit sect line => unitPa s fn sect line

/-- The 144 bytes of an entry (R345). -/
def undoEntry (s : State) (fn : Nat) (u : Undo) : List Byte :=
  toBytes 8 (keptAddr s fn u.place) ++ toBytes 8 u.cid ++ bytesAt 0 128 u.bytes

/-- Write the entries that the log has taken since it was last written into the undo area, where the places of 144
bytes are filled in turn (R345) (in part DEDUCED, log 19). -/
def postUndo (fn : Nat) (s : State) : State :=
  let c := s.ctx fn
  let new := c.undo.drop (c.undo.length - (c.logged - c.posted))
  let s := ((upto new.length).zip new).foldl (fun s p =>
    areaWrite fn (c.undoArea.toNat + 144 * ((c.posted + p.1) % max 1 (undoRoom c))) (undoEntry s fn p.2) s) s
  s.modCtx fn (fun c => { c with posted := c.logged })

/-! ### Frames are not memory of the context (R123) -/

/-- Whether bytes `va` to `va + n − 1` meet a frame or trap-frame area of a thread of the context (R7,
R123) (in part DESIGN CHOICE, log 4). -/
def inFrames (s : State) (fn va n : Nat) : Bool :=
  let c := s.ctx fn
  s.threads.any (fun p =>
    let lo := c.frameBase.toNat + p.2.slot * c.frameStride.toNat
    p.2.fn = fn && decide (lo < va + n) && decide (va < lo + 4 * p.2.flim + 128))

/-! ### The pool aperture (R197) -/

def inAperture (va : Nat) : Bool :=
  decide (Config.apertureBase ≤ va) && decide (va < Config.apertureBase + Config.apertureSize)

/-- The offset of an aperture address. -/
def padOffset (va : Nat) : Nat := va - Config.apertureBase

/-- Bytes of a workgroup's scratchpad. -/
def padRead (w : Workgroup) (off n : Nat) : List Byte := memRead w.pad off n

/-- An access brings lines of the scratchpad into its granules (R353, R387). -/
def padWarm (off n : Nat) (w : Workgroup) : Workgroup :=
  let grans := (distinct ((upto n).map (fun i => (off + i) / Config.granuleBytes))).filterMap (fun i => w.padGrans[i]?)
  if w.cold.isEmpty then w else { w with cold := w.cold.filter (fun g => !grans.contains g) }

def padWrite (off : Nat) (bytes : List Byte) (w : Workgroup) : Workgroup :=
  { padWarm off bytes.length w with pad := memWrite w.pad off bytes }

/-- Grow or shrink the scratchpad: added bytes read 0, removed bytes are lost (R197). -/
def padResize (size : Nat) (w : Workgroup) : Workgroup :=
  { w with spsize := size, pad := w.pad.filter (fun c => decide (c.1 < size)) }

/-! ### Claims (R198) -/

/-- The commands in a workgroup's and a cohort's queues. -/
def wgCmds (w : Workgroup) : List Cmd := w.cp0 ++ w.cp1 ++ w.tk ++ w.ne
def allCmds (s : State) : List Cmd :=
  s.wgs.flatMap (fun p => wgCmds p.2) ++ s.cohorts.flatMap (fun p => p.2.mx ++ p.2.sq)

/-- Whether bytes `off` to `off + n − 1` of a workgroup's scratchpad overlap the part of an engine's
claim that it has not read yet. -/
def claimedPad (s : State) (wg off n : Nat) : Bool :=
  (allCmds s).any (fun c => match c.claim with
    | some (w, _, hi, ptr) => w = wg && decide (off < hi) && decide (ptr < off + n)
    | none => false)

/-! ### What a core's own accesses see -/

/-- The core's stores to a line that its home slice has not performed yet, oldest first (R212). -/
def coreStores (s : State) (core line : Nat) : List MemOp :=
  s.ops.filter (fun o => o.core = core && !o.aperture && lineOf o.addr = line
    && o.kind = .store && (o.stage = .sent || o.stage = .logging))

/-- The bytes that a store carries. -/
def MemOp.bytes (o : MemOp) : List Byte := toBytes o.size (o.data.toNat + 2 ^ 64 * o.data2.toNat)

/-- Merge stores into the bytes of their line. -/
def mergeStores (ops : List MemOp) (bytes : List Byte) : List Byte :=
  ops.foldl (fun b o => patch (o.addr % 128) o.bytes b) bytes

/-- A line as the home slices hold it. -/
def homeLine (s : State) (line : Nat) : List Byte := memRead s.mem (line * 128) 128

/-- Bytes as a plain load of a core reads them at once (R212, R224): from its L1, unless the context records or
replays (R367), else from the home slice merged with the core's own stores. -/
def coreRead (s : State) (fn core cid pa n : Nat) : List Byte :=
  match if recMode s fn = 0 then l1Find (lineOf pa) cid (s.core core).l1 else none with
  | some l => bytesAt (pa % 128) n l.bytes
  | none => bytesAt (pa % 128) n (mergeStores (coreStores s core (lineOf pa)) (homeLine s (lineOf pa)))

end Sys2Proof.Machine
end

