-- ==== Sys2Proof/Machine/Ops.lean ====
section
/-! DEFINITION. The operations that every family shares: the checks of an access (R123), parking on a
translation fault (R209), context faults and the halt line (R337, R338), taking a trap (R328-R336) and
returning from it (R334), fetching an instruction (R24-R28), and the trace ring (R360-R363). -/

namespace Sys2Proof.Machine

/-- What every meaning answers. -/
abbrev Out1 := Host.Outcome State Fault Refusal

/-! ### Cause codes (R328), fault codes (R337), stall reasons (R364) -/

def cIllegalInstruction : Nat := 1
def cIllegalOperand : Nat := 2
def cIllegalModifier : Nat := 3
def cIllegalPair : Nat := 4
def cMisaligned : Nat := 5
def cFrameGrowFail : Nat := 6
def cPoolGrowFail : Nat := 7
def cDivCheck : Nat := 8
def cBarrierStall : Nat := 9
def cAccessViolation : Nat := 10
def cFpEnabled : Nat := 11
def cTrap : Nat := 12
def cBkpt : Nat := 13

def fUnhandledTrap : Nat := 1
def fNestedTrap : Nat := 2
def fCorruptTrapState : Nat := 3
def fRegisterParity : Nat := 4
def fPoolParity : Nat := 5
def fMemUncorrectable : Nat := 6
def fIntegrityFail : Nat := 7
def fPossibleDataLoss : Nat := 8
def fReplayDiverged : Nat := 9
def fEngineParity : Nat := 10
def fUndoFail : Nat := 11
def fUnitRetired : Nat := 12

/-- A trap whose resume point is before the instruction, with no address to report
(in part DEDUCED, log 31). -/
def trapBefore (cause : Nat) (detail : Nat := 0) (faddr : DWord := 0) : TrapReq :=
  ⟨cause, detail, faddr, false, false, false⟩

/-- A trap whose resume point is after the instruction (R328). -/
def trapAfter (cause : Nat) (detail : Nat := 0) : TrapReq := ⟨cause, detail, 0, true, false, false⟩

/-! ### The checks of an access (R22, R23, R123, R197) -/

/-- Where an access that passes its checks goes, or what it meets. -/
inductive Access where
  | pad (off : Nat)
  | dev (pa cid : Nat)
  | trap (r : TrapReq)
  | park (stage page va : Nat)
  deriving DecidableEq, Repr

/-- ACCESS_VIOLATION with a kind (R331). -/
def violation (kind : Nat) (va : Nat) : TrapReq :=
  trapBefore cAccessViolation kind (BitVec.ofNat 64 va)

/-- A fault of the context, not of the thread, at a line that fails its integrity check: `takeTrap` raises it (R337,
R402). -/
def integrityTrap (pa cid : Nat) : TrapReq := trapBefore (256 + fIntegrityFail) cid (BitVec.ofNat 64 pa)

/-- Check an access of `size` bytes at `va` that a workgroup's thread makes on a core (R123). -/
def checkAccess (s : State) (fn core wg : Nat) (need : Need) (va size : Nat) : Access :=
  if 2 ^ 57 ≤ va then .trap (violation 2 va)
  else if va % size != 0 then .trap (trapBefore cMisaligned 0 (BitVec.ofNat 64 va))
  else if inAperture va then
    match look wg s.wgs with
    | some w => if w.spsize < padOffset va + size then .trap (violation 4 va) else .pad (padOffset va)
    | none => .trap (violation 4 va)
  else if inFrames s fn va size then .trap (violation 3 va)
  else
    match peek s fn core need va with
    | .ok pa cid => .dev pa cid
    | .park stage page va => .park stage page va
    | .violation kind => .trap (violation kind va)
    | .integrity pa cid => .trap (integrityTrap pa cid)

/-! ### Parking on a recoverable translation fault (R209) -/

/-- The entry of a page request queue that a fault on a page and stage takes or joins: its own, else a
shared one, else one of its partition's reserved ones; none when all are taken. -/
def pageEntry (s : State) (die fn stage page : Nat) : Option (Nat × Bool) :=
  let l := (s.die die).pageReqs
  match l.find? (fun p => p.2.fn = fn && p.2.stage = stage && p.2.page = page) with
  | some p => some (p.1, p.2.reserved)
  | none =>
    if (l.filter (fun p => !p.2.reserved)).length < Config.pageReqShared then
      some (freeKey l Config.pageReqEntries 0, false)
    else if (l.filter (fun p => p.2.reserved && partitionOf s p.2.fn = partitionOf s fn)).length
        < Config.pageReqReserved then
      some (freeKey l Config.pageReqEntries 0, true)
    else none

/-- The number of an access kind in a page request. -/
def needCode : Need → Nat
  | .read => 0 | .write => 1 | .both => 2 | .exec => 3

/-- Place a fault in the queue of a die, after the walk that has met it; the entry it has, if it found one. -/
def takeEntry (die fn stage page va kind : Nat) (s0 : State) : Option Nat × State :=
  let s := walkSlices fn va s0
  match pageEntry s die fn stage page with
  | none => (none, s)
  | some (e, reserved) =>
    match look e (s.die die).pageReqs with
    | some _ => (some e, s)
    | none =>
      (some e, s.modDie die (fun d => { d with
        pageReqs := put e ⟨fn, (s.ctx fn).cidb, stage, page, kind, reserved⟩ d.pageReqs }))

/-- Park a thread at its instruction, or list it when no entry is free. -/
def parkThread (k fn stage page va kind : Nat) (s : State) : State :=
  let die := dieOf (coreOf k)
  let (e, s) := takeEntry die fn stage page va kind s
  match e with
  | some e => s.modThread k (fun t => { t with wait := some (.parked die e) })
  | none =>
    let p := partitionOf s fn
    (s.modThread k (fun t => { t with wait := some (.listed die stage page va kind) })).modDie die
      (fun d =>
        let l := (look p d.retry).getD []
        { d with retry := put p (if l.contains k then l else l ++ [k]) d.retry })

/-! ### Fetch (R24-R28, R145) -/

/-- The line of code at a virtual line address as a core's instruction cache holds it (R28). -/
def codeFind (fn line : Nat) (l : List CodeLine) : Option CodeLine :=
  l.find? (fun e => e.fn = fn && e.va = line)

/-- A core's instruction cache takes a line; beyond its 64 KiB the line filled first leaves
(R1) (in part DESIGN CHOICE, log 7). -/
def codeFill (e : CodeLine) (c : Core) : Core := { c with icache := (e :: c.icache).take Config.icacheLines }

/-- Fetch the 8 bytes at a word address from the core's instruction cache, else from the home slice into
it. Code is translated like any address, also where it lies in the pool aperture or a frame
(in part DESIGN CHOICE, log 7). -/
def fetchWord (core fn va : Nat) (s : State) : Sum Xlat CodeWord × State :=
  match peek s fn core .exec va with
  | .ok pa cid =>
    let s := tlbTake fn core va s
    match codeFind fn (lineOf va) (s.core core).icache with
    | some l => (.inr ⟨fn, va, BitVec.ofNat 64 (valAt (va % 128) 8 l.bytes), l.filling⟩, s)
    | none =>
      let bytes := homeLine s (lineOf pa)
      let (n, s) := s.fresh
      (.inr ⟨fn, va, BitVec.ofNat 64 (valAt (va % 128) 8 bytes), n⟩,
        (sliceTouch fn cid pa 0 false s).modCore core (codeFill ⟨fn, lineOf va, bytes, n⟩))
  | x => (.inl x, s)

/-- The word at an address among some that are held. -/
def heldWord (fn va : Nat) (l : List CodeWord) : Option CodeWord := l.find? (fun w => w.fn = fn && w.va = va)

/-- Whether a thread takes its words from its slot's stream: since the last boundary it has followed it, and the
stream stands at its program counter (R145). -/
def onStream (s : State) (k pc : Nat) : Bool :=
  let c := s.core (coreOf k)
  c.streaming.contains k && nth none (slotOf k) c.bcast = some pc

/-- The words that a thread's fetch path holds: the stream's run, or the loop buffer of its lane (R145). -/
def pathWords (s : State) (k : Nat) (stream : Bool) : List CodeWord :=
  let c := s.core (coreOf k)
  if stream then nth [] (slotOf k) c.runs else (look (slotLane k) c.loopBufs).getD []

/-- The 8 bytes at a word address where some words are held (R25, R145). -/
def takeWord (core fn : Nat) (held : List CodeWord) (va : Nat) (s : State) : Sum Xlat CodeWord × State :=
  match peek s fn core .exec va, heldWord fn va held with
  | .ok _ _, some w => (.inr w, s)
  | _, _ => fetchWord core fn va s

/-- The step that a failed fetch is (R26): the first byte that could not be fetched and why. A parked
fault carries its stage and page in the kind, as stage × 2^52 + page. -/
def fetchFailed (va : Nat) : Xlat → Instr
  | .park stage page _ => .fetchFault va true (stage * 2 ^ 52 + page)
  | .violation kind => .fetchFault va false kind
  | .ok _ _ | .integrity _ _ => .fetchFault va false 0

/-- What a fetch of several words brings: the words, or what the first that fails meets and where. -/
abbrev Fetched := Sum (Nat × Xlat) (List CodeWord)

/-- Words that follow each other from an address on. -/
def takeWords (core fn : Nat) (held : List CodeWord) : Nat → Nat → State → Fetched × State
  | 0, _, s => (.inr [], s)
  | n + 1, va, s =>
    match takeWord core fn held va s with
    | (.inl x, s) => (.inl (va, x), s)
    | (.inr w, s) =>
      match takeWords core fn held n (va + 8) s with
      | (.inr l, s) => (.inr (w :: l), s)
      | x => x

/-- The words of the instruction at a program counter where some are held: the first gives the length (R29, R30). -/
def takeInstr (core fn : Nat) (held : List CodeWord) (pc : Nat) (s : State) : Fetched × State :=
  match takeWord core fn held pc s with
  | (.inl x, s) => (.inl (pc, x), s)
  | (.inr w, _) => takeWords core fn held (wordLength w.word / 8) pc s

/-- Whether two words are of one line but of two fillings of it: one has old contents, the other new (R28). -/
def mixed (a b : CodeWord) : Bool := a.fn = b.fn && lineOf a.va = lineOf b.va && a.filling != b.filling

/-- The words that a thread's fetch of the instruction at a program counter uses of those that its path holds: none
where they would mix old and new words of a line, which then comes from the instruction cache (R28, R145). -/
def pathHeld (s : State) (k fn : Nat) (stream : Bool) (pc : Nat) : List CodeWord :=
  let held := pathWords s k stream
  match (takeInstr (coreOf k) fn held pc s).1 with
  | .inr l => if l.any (fun a => l.any (mixed a)) then [] else held
  | .inl _ => held

/-- The words of the instruction at a program counter as a thread's fetch path delivers them (R25, R28, R145). -/
def pathInstr (k fn : Nat) (stream : Bool) (pc : Nat) (s : State) : Fetched × State :=
  takeInstr (coreOf k) fn (pathHeld s k fn stream pc) pc s

/-- The line that fails its integrity check of the word at an address, if one does (R402). -/
def wordForeign (s : State) (core fn : Nat) (held : List CodeWord) (va : Nat) : Option (Nat × Nat) :=
  match peek s fn core .exec va with
  | .ok pa cid => if (heldWord fn va held).isNone
      && (codeFind fn (lineOf va) (s.core core).icache).isNone && foreign s cid pa then some (pa, cid) else none
  | x => x.failed

/-- The first such line of the instruction at a program counter. -/
def codeForeign (s : State) (k fn pc : Nat) : Option (Nat × Nat) :=
  let stream := onStream s k pc
  let n := match (pathInstr k fn stream pc s).1 with
    | .inr l => l.length
    | .inl (va, x) => (va - pc) / 8 + one x.failed.isSome
  (upto n).findSome? (fun i => wordForeign s (coreOf k) fn (pathHeld s k fn stream pc) (pc + 8 * i))

/-- What was fetched as bare words: paths that hold one line under two fillings can deliver the same. -/
def bareWords : Fetched → Sum (Nat × Xlat) (List DWord)
  | .inl x => .inl x
  | .inr l => .inr (l.map (·.word))

/-- The instruction that fetched words are, or the step that the failure is (R24, R26). -/
def instrOf : Sum (Nat × Xlat) (List DWord) → Instr
  | .inl (va, x) => fetchFailed va x
  | .inr l => decode (nth 0 0 l) (nth 0 1 l) (nth 0 2 l)

/-- Held words without those that are held anew and those of a line of which new words come from another
filling (R28). -/
def keptWords (ws old : List CodeWord) : List CodeWord :=
  old.filter (fun e => !ws.any (fun w => (w.fn = e.fn && w.va = e.va) || mixed w e))

/-- A lane's loop buffer takes words: it keeps the 48 that were delivered last, none of them mixed with others of
its line (R28, R145). -/
def bufferWords (ws : List CodeWord) (old : List CodeWord) : List CodeWord :=
  (ws.reverse ++ keptWords ws old).take Config.loopWords

/-- Words reach a thread's lane; the stream's run has given them out. -/
def deliverWords (stream : Bool) (ws : List CodeWord) (s : State) (k : Nat) : State :=
  s.modCore (coreOf k) (fun c => { c with
    loopBufs := put (slotLane k) (bufferWords ws ((look (slotLane k) c.loopBufs).getD [])) c.loopBufs
    runs := if stream then setNth (keptWords ws (nth [] (slotOf k) c.runs)) (slotOf k) c.runs else c.runs })

/-- One thread of a bundle fetches the instruction at its program counter. -/
def fetchInstr (k fn pc : Nat) (s : State) : Sum (Nat × Xlat) (List DWord) × State :=
  let stream := onStream s k pc
  match pathInstr k fn stream pc s with
  | (.inr l, s) => (bareWords (.inr l), deliverWords stream l s k)
  | (x, s) => (bareWords x, s)

/-- The other threads of a bundle fetch: those that receive the same words issue with the first (R145). -/
def fetchOthers (fn pc : Nat) (w : Sum (Nat × Xlat) (List DWord)) : List Nat → State → List Nat × State
  | [], s => ([], s)
  | k :: ks, s =>
    let (v, s) := fetchInstr k fn pc s
    let (l, s) := fetchOthers fn pc w ks s
    (if v = w then k :: l else l, s)

/-- Whether the word at a thread's program counter, if it can be fetched, has its STOP bit set (R343, R357). -/
def atSafePoint (s : State) (k fn pc : Nat) : Bool :=
  match (takeWord (coreOf k) fn (pathHeld s k fn (onStream s k pc) pc) pc s).1 with
  | .inr w => w.word.extractLsb' 62 2 != 0b01#2 && w.word.getLsbD 47
  | .inl _ => false

/-! ### Gathering (R343) -/

/-- Whether nothing of a thread is under way that a checkpoint waits for. -/
def atRest (t : Thread) : Bool := t.pendP = 0 && t.ld = 0 && t.st = 0

/-- Whether a thread stands still in a wait that a restore resumes. -/
def inWait (t : Thread) : Bool := t.wait.isSome || (t.stall.map (fun st => st.state != 0)).getD false

/-- Whether a thread is gathered. -/
def gathered (s : State) (k : Nat) (t : Thread) : Bool :=
  atRest t && (inWait t || atSafePoint s k t.fn t.pc.toNat)

/-- The threads that stand at a safe point for a checkpoint request have stopped there: their transient
windows are over (R20). -/
def endStopped (fn : Nat) (s : State) : State :=
  { s with threads := s.threads.map (fun p =>
      if p.2.fn = fn && gathered s p.1 p.2 && !inWait p.2 then (p.1, endTrans p.2) else p) }

/-! ### Context faults (R337, R338) -/

/-- The thread that goes on after the instruction it waits at: its sources marked last-use are dead, its
safe point is counted (R17, R357), and it is ready from now on. -/
def goOn (now : Nat) (t : Thread) : Thread :=
  let t' := { t with wait := none, stall := none, held := none, stallFrom := none, pending := none,
                     readySince := now }
  match t.pending with
  | none => { t' with pc := wrapPc (t.pc + 8) }
  | some p => { killG p.marks t' with
      pc := wrapPc (t.pc + BitVec.ofNat 64 p.len)
      spord := if p.stop then t.spord + 1 else t.spord }

/-- End the waits of CKPT.w of a context with the predicate's value (R375). -/
def endCkptWaits (fn : Nat) (v : Bool) (s : State) : State :=
  { s with threads := s.threads.map (fun p =>
      match p.2.wait with
      | some (.ckpt d) => if p.2.fn = fn then (p.1, goOn (s.ctx fn).pcycle (setPred d v p.2)) else p
      | _ => p) }

/-- Let go of a checkpoint request: those who wait for it by CKPT.w read false and go on (R348, R375). -/
def abandonCkpt (fn : Nat) (s : State) : State :=
  let s := if (s.ctx fn).ckpt.isSome then endStopped fn s else s
  endCkptWaits fn false (s.modCtx fn (fun c => { c with ckpt := none }))

/-- Raise a context's halt line with a fault code; the unit is its stop-area index (R339). The first
fault stands. A forming checkpoint is abandoned (R348). -/
def raiseHalt (fn code unit : Nat) (note : List Byte) (s : State) : State :=
  match (s.ctx fn).halt with
  | some _ => s
  | none =>
    (abandonCkpt fn s).modCtx fn (fun c => { c with halt := some ⟨code, unit, false, note, []⟩ })

/-- A unit's read meets a line that fails its integrity check: INTEGRITY_FAIL of its context (R205, R402). -/
def integrityHalt (fn unit : Nat) (x : Nat × Nat) (s : State) : State :=
  raiseHalt fn fIntegrityFail unit [] (foreignFill fn x s)

/-- The reading context takes INTEGRITY_FAIL if a read has met such a line (R402); any other outcome is as it is. -/
def orIntegrity (fn unit : Nat) (met : Option (Nat × Nat)) (s : State) : State :=
  match met with
  | some x => integrityHalt fn unit x s
  | none => s

/-! ### Frames in the pool (R194-R196) -/

/-- The address of a line of a thread's frame in the context image (R7), and where it lies in device memory; none
where the image's page does not translate (in part DESIGN CHOICE, log 4). -/
def frameVa (s : State) (t : Thread) (n : Nat) : Nat :=
  (s.ctx t.fn).frameBase.toNat + t.slot * (s.ctx t.fn).frameStride.toNat + 128 * n
def frameAddr (s : State) (k : Nat) (t : Thread) (n : Nat) : Option Nat :=
  (mapped s t.fn (coreOf k) (frameVa s t n)).map (·.1)

/-- The Frame Engine translates a frame line's address, by the section's TLB and the tables (R208). -/
def frameWalk (k : Nat) (t : Thread) (n : Nat) (s : State) : State := (sectXlat t.fn (coreOf k) (frameVa s t n) s).2

/-- The Frame Engine writes a line of a frame back through its home slice (R194), under the context's CID
(R205); a table that fails its integrity check is a context fault (R402). -/
def frameBack (k : Nat) (t : Thread) (s : State) (n : Nat) : State :=
  match frameAddr s k t n with
  | none =>
    orIntegrity t.fn (s.coreNo t.fn (coreOf k)) (mappedFails s t.fn (coreOf k) (frameVa s t n)) s
  | some pa => homeWrite t.fn (s.ctx t.fn).cidb pa 0 (lineBytes t n) (frameWalk k t n s)

/-- The thread whose dirty lines have been written back. -/
def linesClean (s : State) (k : Nat) (t : Thread) : Thread :=
  { t with lines := t.lines.map (fun p => (p.1, p.2 && (frameAddr s k t p.1).isNone)) }

/-- The Frame Engine writes a thread's dirty lines back; they stay in the pool, clean (R194). -/
def cleanFrame (k : Nat) (s : State) : State :=
  match look k s.threads with
  | none => s
  | some t =>
    ((t.lines.filter (·.2)).foldl (fun s p => frameBack k t s p.1) s).modThread k (linesClean s k)

/-- The line that fails its integrity check when lines of a frame that the pool does not hold are filled: one of them, or
of the tables (R205, R402). -/
def frameForeign (s : State) (k : Nat) (t : Thread) (lines : List Nat) : Option (Nat × Nat) :=
  (lines.filter (fun n => (look n t.lines).isNone)).findSome? (fun n =>
    match frameAddr s k t n with
    | some pa => if foreign s (s.ctx t.fn).cidb pa then some (pa, (s.ctx t.fn).cidb) else none
    | none => mappedFails s t.fn (coreOf k) (frameVa s t n))

/-- Misses of the context that runs on a core are counted while the pool holds residue: each will push a line of it out
(R387) (in part DESIGN CHOICE, log 88). -/
def noteMisses (core n : Nat) (s : State) : State :=
  if (s.core core).residue.isEmpty then s else s.modCore core (fun c => { c with missed := c.missed + n })

/-- The Frame Engine fills lines of a thread's frame that the pool does not hold, through their home slices (R194). -/
def fillFrames (k : Nat) (t : Thread) (lines : List Nat) (s : State) : State :=
  let l := distinct (lines.filter (fun n => (look n t.lines).isNone))
  if l.isEmpty then s
  else
    (l.foldl (fun s n => match frameAddr s k t n with
      | some pa => sliceTouch t.fn (s.ctx t.fn).cidb pa 0 false (frameWalk k t n s)
      | none => s) (noteMisses (coreOf k) l.length s)).modThread k (holdLines l)

/-- Whether the undo log has room for the first writes of the epoch among writes to some lines of a frame (R345,
R347). -/
def frameRoom (s : State) (k : Nat) (t : Thread) (l : List Nat) : Bool :=
  undoHolds s t.fn (distinct (l.filterMap (fun n => (frameAddr s k t n).bind (fun pa =>
    if needsUndo s t.fn pa then some (lineOf pa) else none)))).length

/-- The same for the frames of several threads. -/
def framesRoom (s : State) (fn : Nat) (l : List (Nat × Thread × List Nat)) : Bool :=
  undoHolds s fn (distinct (l.flatMap (fun x => x.2.2.filterMap (fun n => (frameAddr s x.1 x.2.1 n).bind (fun pa =>
    if needsUndo s fn pa then some (lineOf pa) else none))))).length

/-- Log a line of a frame as it was, under its address in the context image (R345). -/
def logFrame (k : Nat) (old : Thread) (s : State) (n : Nat) : State :=
  match frameAddr s k old n with
  | none => s
  | some pa =>
    if needsUndo s old.fn pa then
      addEntry old.fn (.memory (lineOf pa)) (s.ctx old.fn).cidb (lineBytes old n) s
    else s

/-- A duplicate of a frame line is made where an unallocated granule has room and DUPEN is set; one that exists is
written with its primary (R196). -/
def dupLine (free : List Nat) (k : Nat) (c : Core) (n : Nat) : Core :=
  if !c.poolcfg.getLsbD 10 || c.dups.any (fun d => d.thread = k && d.line = n) then c
  else
    match free.find? (fun g => decide ((c.dups.filter (fun d => d.granule = g)).length < Config.granuleLines)) with
    | some g => { c with dups := c.dups ++ [⟨k, n, g⟩] }
    | none => c

/-- Account for the frame lines that a thread's step has written: the undo log keeps them as they were in `old`
(R345), and duplicates follow (R196). -/
def accountFrames (k : Nat) (old : Thread) (s : State) : State :=
  match look k s.threads with
  | none => s
  | some t =>
    if t.wrote.isEmpty then s
    else
      let s := t.wrote.foldl (logFrame k old) s
      let free := maskGrans (freeMask s (coreOf k))
      (s.modCore (coreOf k) (fun c => t.wrote.foldl (dupLine free k) c)).modThread k
        (fun t => { t with wrote := [] })

/-- The same of several threads' frames, as the threads were before. -/
def accountAll (old : Tbl Thread) (s : State) : State := old.foldl (fun s p => accountFrames p.1 p.2 s) s

/-! ### The undo logs, and what a core raises -/

/-- The undo logs' new entries are written to their areas (R345) (in part DEDUCED, log 19). -/
def postLogs (s : State) : State :=
  (s.ctxs.filter (fun p => decide (p.2.posted < p.2.logged) && logSound s p.1)).foldl (fun s p => postUndo p.1 s) s

/-- A context fault that a core raises. -/
def coreFault (k code : Nat) (s : State) : State :=
  match look k s.threads with
  | none => s
  | some t => raiseHalt t.fn code (s.coreNo t.fn (coreOf k)) [] s

/-- The same of a core. -/
def coreIntegrity (k : Nat) (x : Nat × Nat) (s : State) : State :=
  match look k s.threads with
  | none => s
  | some t => integrityHalt t.fn (s.coreNo t.fn (coreOf k)) x s

/-- The Frame Engine fills lines of a thread's frame; one that fails its integrity check is a context fault (R205,
R402). -/
def fillChecked (k : Nat) (t : Thread) (lines : List Nat) (s : State) : State :=
  match frameForeign s k t lines with
  | some x => fillFrames k t lines (coreIntegrity k x s)
  | none => fillFrames k t lines s

/-! ### Register writes of the present cycle (R378) -/

/-- The value of a register to somebody to whom, of the writes of the present cycle, only those that `mine` tells
of are done: one from outside the thread's core, or of another thread, shows from the following cycle on. -/
def seenReg (s : State) (fn reg : Nat) (at1 mine : SwrNote → Bool) (now : Nat) : Nat :=
  match (s.ctx fn).swrs.filter (fun w => w.reg = reg && at1 w) with
  | [] => now
  | w :: l => if (w :: l).any mine then now else w.old

/-- BARSTALL and POOLWAIT of a core as counts and waiting requests are compared with them. -/
def stallLimit (s : State) (fn core : Nat) : Nat :=
  seenReg s fn 0x400 (fun w => w.core = core) (fun _ => false) (s.core core).barstall.toNat
def poolLimit (s : State) (fn core : Nat) : Nat :=
  seenReg s fn 0x401 (fun w => w.core = core) (fun _ => false) (s.core core).poolwait.toNat

/-- POOLWAIT as a thread's grow finds it. -/
def growLimit (s : State) (fn k : Nat) : Nat :=
  seenReg s fn 0x401 (fun w => w.core = coreOf k) (fun w => w.thread = some k) (s.core (coreOf k)).poolwait.toNat

/-- Note a write of a register in the present cycle. -/
def noteSwr (fn reg core : Nat) (thread : Option Nat) (old : Nat) (s : State) : State :=
  s.modCtx fn (fun c => { c with swrs := c.swrs ++ [⟨reg, core, thread, old⟩] })

/-! ### Order logs (R367, R368, R370) -/

/-- Bytes that the logs of an epoch come to at most: each entry with a header, each checksum with its record. -/
def logBytes (c : Context) : Nat := 24 * c.orderLog.length + 32 * c.csums.length

/-- Bytes of the log area that an epoch has: half of it, which is as large as the undo area (R367)
(in part DEDUCED, log 23). -/
def logRoom (c : Context) : Nat := c.undoSize.toNat / 2

/-- Bytes of a log that are kept free for what one thread's step and the operations on their way still log
(DESIGN CHOICE, log 82). -/
def logMargin (s : State) (fn : Nat) : Nat := 1024 + 24 * (s.ops.filter (fun o => o.fn = fn)).length

/-- Whether a recording context's log area is full: what would log an event waits (R347, R367). -/
def logSpent (s : State) (fn : Nat) : Bool :=
  recMode s fn = 1 && decide (logRoom (s.ctx fn) < logBytes (s.ctx fn) + logMargin s fn)

/-- Whether an entry is of an ordering point's object. -/
def ofObject (kind point : Nat) (object : DWord) (e : OrderEntry) : Bool :=
  e.kind = kind && e.point = point && e.object = object

/-- The object of a kind-7 record: the thread (R368). -/
def threadObject (s : State) (fn k : Nat) : DWord :=
  BitVec.ofNat 64 (s.coreNo fn (coreOf k) * 2 ^ 16 + wposOf k * 256 + laneOf k)

/-- The first of a log's entries for an object. -/
def nextEntry (s : State) (fn kind point : Nat) (object : DWord) : Option OrderEntry :=
  match (s.ctx fn).replay with
  | some (l, _) => l.find? (ofObject kind point object)
  | none => none

/-- In a replay an ordering point serves an object's events in the logged order, of an agent and an event kind; objects
that were not logged are served freely (R370). -/
def orderReady (s : State) (fn kind point : Nat) (object : DWord) (agent event : Nat) : Bool :=
  recMode s fn != 2 ||
    match nextEntry s fn kind point object with
    | some e => bits e.entry.toNat 63 48 = agent && bits e.entry.toNat 47 46 = event
    | none => true

/-- An ordering point serves an event: it is logged while recording (R368), and its entry is used up
in a replay. `event` is 0 load, 1 store, 2 atomic, 3 pop or placement. Without a number of its own the
point counts the events that are no loads. -/
def orderPoint (fn kind point : Nat) (object : DWord) (agent event : Nat) (seq : Option Nat)
    (s : State) : State :=
  if recMode s fn = 1 then
    let n := ((s.ctx fn).orderLog.filter (fun e =>
      ofObject kind point object e && bits e.entry.toNat 47 46 != 0)).length
    let n := seq.getD (if event = 0 then n else n + 1)
    s.modCtx fn (fun c => { c with orderLog := c.orderLog ++
      [⟨kind, point, object, BitVec.ofNat 64 (agent * 2 ^ 48 + event * 2 ^ 46 + n % 2 ^ 32), false, false⟩] })
  else if recMode s fn = 2 then
    s.modCtx fn (fun c => { c with replay := c.replay.map (fun r =>
      (r.1.eraseP (ofObject kind point object), r.2)) })
  else s

/-- Log the outcome of an instruction that timing decides, or use its entry up (R368, kind 7). -/
def noteOutcome (k fn kind value : Nat) (s : State) : State :=
  orderPoint fn 7 0 (threadObject s fn k) kind 0 (some value) s

/-- In a replay, the logged outcome of such an instruction: its value kind must agree (R370). -/
def loggedOutcome (s : State) (k fn kind : Nat) : Option Nat :=
  if recMode s fn = 2 then
    match nextEntry s fn 7 0 (threadObject s fn k) with
    | some e => if bits e.entry.toNat 63 48 = kind then some (bits e.entry.toNat 31 0) else none
    | none => none
  else none

/-- The logged status that a TKPUSH or TKDONE takes at its issue in a replay (R370). -/
def fateOf (s : State) (k fn : Nat) : Option Bool := (loggedOutcome s k fn 4).map (· = 1)

/-- The entry of a TKPUSH or TKDONE stands in program order: while recording its place is kept at the issue, and in a
replay it is used up there (R368). -/
def noteDue (k fn : Nat) (s : State) : State :=
  if recMode s fn = 2 && (fateOf s k fn).isNone then s
  else
    let last (e : OrderEntry) : OrderEntry := { e with due := true }
    let mark (c : Context) : Context :=
      if recMode s fn = 1 then { c with orderLog := c.orderLog.dropLast ++ (c.orderLog.getLast?.map last).toList } else c
    (noteOutcome k fn 4 0 s).modCtx fn mark

/-- The status of the first of a thread's entries that are due. -/
def settleDue (object : DWord) (v : Nat) : List OrderEntry → List OrderEntry
  | [] => []
  | e :: l =>
    if e.due && ofObject 7 0 object e then { e with entry := BitVec.ofNat 64 (4 * 2 ^ 48 + v), due := false } :: l
    else e :: settleDue object v l

/-- A log at the beginning of an epoch has the entries that are still due. -/
def carryDue (l : List OrderEntry) : List OrderEntry := (l.filter (·.due)).map (fun e => { e with carried := true })
/-- A log as the beginning of its epoch had it: a return to it makes what was carried due again. -/
def reopenDue (l : List OrderEntry) : List OrderEntry := (l.filter (·.carried)).map (fun e => { e with due := true })

/-! ### Loads that an instruction makes beside its own (R330, R319) -/

/-- The agent that a thread is on its core. -/
def laneAgent (k : Nat) : Nat := 32 * wposOf k + laneOf k

/-- The object of a scratchpad line (in part DEDUCED, log 33). -/
def padObject (wg off : Nat) : DWord := BitVec.ofNat 64 (wg % 32 * 2 ^ 32 + off / 128)

/-- In a replay, whether the pool serves the thread's access next. -/
def padReady (s : State) (k : Nat) (t : Thread) (off event : Nat) : Bool :=
  orderReady s t.fn 2 (s.coreNo t.fn (coreOf k)) (padObject t.wg off) (laneAgent k) event

/-- In a replay, whether the point that a load goes to serves the thread next (R370). -/
def loadReady (s : State) (k : Nat) (t : Thread) (a : Access) : Bool :=
  match a with
  | .pad off => padReady s k t off 0
  | .dev pa _ => orderReady s t.fn 1 (sliceOf pa) (BitVec.ofNat 64 (lineOf pa)) (s.coreNo t.fn (coreOf k)) 0
  | _ => true

/-- The load is served: the point logs it (R368), and the home slice takes the line that the L1 does not hold. -/
def loadDone (k : Nat) (t : Thread) (a : Access) (s : State) : State :=
  match a with
  | .pad off => (orderPoint t.fn 2 (s.coreNo t.fn (coreOf k)) (padObject t.wg off) (laneAgent k) 0 none s).modWg t.wg
      (padWarm off 8)
  | .dev pa cid =>
    let s := orderPoint t.fn 1 (sliceOf pa) (BitVec.ofNat 64 (lineOf pa)) (s.coreNo t.fn (coreOf k)) 0 none s
    if recMode s t.fn = 0 && (l1Find (lineOf pa) cid (s.core (coreOf k)).l1).isSome then s
    else sliceTouch t.fn cid pa 0 false s
  | _ => s

/-! ### Taking a trap (R330-R332, R336) -/

/-- The saved status word (R332). -/
def savedStatus (t : Thread) (r : TrapReq) : Word :=
  BitVec.ofNat 32 (t.preds.toNat + t.tdepth * 2 ^ 7 + t.loops.length * 2 ^ 9
    + one r.pair * 2 ^ 12 + one (r.pair && r.half) * 2 ^ 13)

/-- The parent identifier: CORE and warp position (R336). -/
def parentId (s : State) (fn k : Nat) : Word :=
  BitVec.ofNat 32 (s.coreNo fn (coreOf k) % 256 * 64 + wposOf k)

/-- The trap frame (R331). -/
def trapFrame (s : State) (k : Nat) (t : Thread) (p : PendingTrap) : TrapFrame :=
  { rpc := p.rpc, iaddr := p.iaddr, faddr := p.req.faddr, ssw := savedStatus t p.req,
    fstat := t.fstat, lnk := t.lnk, cause := BitVec.ofNat 32 p.req.cause,
    detail := BitVec.ofNat 32 p.req.detail, own := p.own, sibling := p.sibling,
    parent := parentId s t.fn k }

/-- The current trap frame of a thread (R333). -/
def curFrame (t : Thread) : TrapFrame := if t.tdepth = 2 then t.frame2 else t.frame1
def setFrame (f : TrapFrame) (t : Thread) : Thread :=
  if t.tdepth = 2 then { t with frame2 := f } else { t with frame1 := f }

/-- System register `num`, a field of the current trap frame, is written: in the pool, in its line (R194, R333). -/
def writeFrame (num : Nat) (f : TrapFrame → TrapFrame) (t : Thread) : Thread :=
  wroteLine (trapFieldLine t num) (setFrame (f (curFrame t)) t)

/-- The thread that enters a handler at `h`: its windows end, its depth rises, the frame is written
(R330). -/
def enterTrap (s : State) (k : Nat) (p : PendingTrap) (h : DWord) (t : Thread) : Thread :=
  let f := trapFrame s k t p
  let t' := setFrame f { endTrans t with tdepth := t.tdepth + 1 }
  { wroteLines (trapFrameLines t') t' with
    pc := h, wait := none, stall := none, held := none, stallFrom := none, trapping := none, pending := none }

/-- The address of a cause's handler-table entry (R329, R330). -/
def handlerSlot (s : State) (fn cause : Nat) : Nat :=
  wrapNat 64 ((s.ctx fn).htbase.toNat + 8 * cause)

/-- The handler-table entry as a plain load of the context reads it (R330). -/
def handlerAt (s : State) (fn core wg : Nat) (a : Access) : Option DWord :=
  match a with
  | .pad off => (look wg s.wgs).map (fun w => BitVec.ofNat 64 (ofBytes (padRead w off 8)))
  | .dev pa cid => some (BitVec.ofNat 64 (ofBytes (coreRead s fn core cid pa 8)))
  | .trap _ | .park _ _ _ => none

/-- The line at its home slice, or table, that fails its integrity check when that load meets it (R402). -/
def handlerForeign (s : State) (fn core : Nat) (a : Access) : Option (Nat × Nat) :=
  match a with
  | .dev pa cid =>
    if foreign s cid pa && (recMode s fn != 0 || (l1Find (lineOf pa) cid (s.core core).l1).isNone) then some (pa, cid)
    else none
  | .trap r => if 256 ≤ r.cause then some (r.faddr.toNat, r.detail) else none
  | _ => none

/-- A thread waits at NWAIT no more: what was noticed for it goes. -/
def forgetNotice (k : Nat) (s : State) : State := { s with noticed := drop k s.noticed }

/-- The walk of an access that a violation of the tables ended has read them, and what it found is held (R207, R208). -/
def violationWalk (core fn : Nat) (r : TrapReq) (s : State) : State :=
  if r.cause = cAccessViolation && decide (r.detail % 8 ≤ 1) && (tlbFind fn r.faddr.toNat (s.core core).tlb).isNone then
    (sectXlat fn core r.faddr.toNat s).2
  else s

/-- A thread takes a trap (R330). At depth 2 the context takes NESTED_TRAP; a handler-table entry that
cannot be read or names no handler is UNHANDLED_TRAP; a recoverable translation fault on the entry
parks the thread, which goes on with the trap afterwards. A trap whose frame needs an entry of a full undo log
waits (R347), and so does one whose load a replay does not serve yet (R370). -/
def takeTrap (k : Nat) (p : PendingTrap) (s : State) : State :=
  match look k s.threads with
  | none => s
  | some t =>
    if 256 ≤ p.req.cause then coreIntegrity k (p.req.faddr.toNat, p.req.detail) s
    else if t.tdepth = 2 then coreFault k fNestedTrap s
    else
      let a := checkAccess s t.fn (coreOf k) t.wg .read (handlerSlot s t.fn p.req.cause) 8
      match a with
      | .park stage page va =>
        parkThread k t.fn stage page va 0 (s.modThread k (fun t => { t with trapping := some p }))
      | a =>
        match handlerForeign s t.fn (coreOf k) a, handlerAt s t.fn (coreOf k) t.wg a with
        | some x, _ => coreIntegrity k x s
        | none, none => coreFault k fUnhandledTrap s
        | none, some h =>
          if h = 0 || h.toNat % 8 != 0 || decide (2 ^ 57 ≤ h.toNat) then coreFault k fUnhandledTrap s
          else if !loadReady s k t a then
            s.modThread k (fun t => { t with trapping := some p, stall := some ⟨15, 0, 0⟩, polled := true })
          else if !frameRoom s k t (trapFrameLines { t with tdepth := t.tdepth + 1 }) then
            s.modThread k (fun t => { t with trapping := some p, stall := some ⟨15, 13, 0⟩, polled := true })
          else accountFrames k t (loadDone k t a (violationWalk (coreOf k) t.fn p.req
            (forgetNotice k (s.modThread k (enterTrap s k p h)))))

/-- The lanes of a warp that are at TDEPTH 1 or more (R336). -/
def trappedLanes (s : State) (warp : Nat) : List Nat :=
  (s.threads.filter (fun p => warpOf p.1 = warp && decide (1 ≤ p.2.tdepth))).map (fun p => laneOf p.1)

/-- Threads that trap in one issue of one instruction: thread, trap, instruction and resume address. -/
structure Trapping where
  thread : Nat
  req : TrapReq
  iaddr : DWord
  rpc : DWord
  deriving DecidableEq, Repr

/-- The partition cycle in which a waiting thread issued the instruction that it waits at. -/
def issuedAt (s : State) (k : Nat) : Option Nat := (look k s.threads).bind (fun t => t.pending.map (·.since))

/-- Whether two trapping threads are of one fragment: of one warp, with one cause, at one issue of one
instruction (R336). -/
def oneFragment (s : State) (x y : Trapping) : Bool :=
  warpOf x.thread = warpOf y.thread && x.req.cause = y.req.cause && x.iaddr = y.iaddr
    && issuedAt s x.thread = issuedAt s y.thread

/-- Take some traps, by fragments (R336). Sibling lanes are those in a handler before. -/
def takeTraps (l : List Trapping) (s : State) : State :=
  let s0 := s
  l.foldl (fun s x =>
    let own := (l.filter (oneFragment s0 x)).map (fun y => laneOf y.thread)
    let sib := (trappedLanes s0 (warpOf x.thread)).filter (fun n => !own.contains n)
    takeTrap x.thread
      ⟨x.req, x.iaddr, x.rpc, BitVec.ofNat 32 (maskOf own), BitVec.ofNat 32 (maskOf sib)⟩ s) s

/-- A trap that a device step brings on a thread at its instruction: a time-out (R155). -/
def stallTrap (ks : List Nat) (detail : Nat) (s : State) : State :=
  takeTraps (ks.filterMap (fun k => (look k s.threads).map (fun t =>
    ⟨k, trapBefore cBarrierStall detail, t.pc, t.pc⟩))) s

/-- Whether a trap frame is one that TRET accepts (R334). -/
def frameSound (t : Thread) (f : TrapFrame) : Bool :=
  let w := f.ssw.toNat
  bits w 31 14 = 0 && decide (bits w 11 9 ≤ 4) && bits w 8 7 + 1 = t.tdepth
    && bits f.fstat.toNat 31 13 = 0 && f.rpc.toNat % 8 = 0 && decide (f.rpc.toNat < 2 ^ 57)
    && decide (bits w 11 9 ≤ t.loops.length)

/-- The thread after a return from its trap (R334, R335). -/
def leaveTrap (t : Thread) : Thread :=
  let f := curFrame t
  { endTrans t with
    preds := f.ssw.setWidth 7, fstat := f.fstat, lnk := f.lnk,
    loops := t.loops.drop (t.loops.length - bits f.ssw.toNat 11 9),
    tdepth := t.tdepth - 1, pc := f.rpc }

/-! ### Reads and writes that are not a thread's (engines, trace, the Foreman) -/

/-- What an engine's access to bytes of the context finds: the device address and CID of its first
byte. The whole range must lie in one page; callers split. -/
def engineXlat (s : State) (fn core : Nat) (need : Need) (va n : Nat) : Xlat :=
  if inFrames s fn va n then .violation 3 else peek s fn core need va

/-- Read bytes of the context at the home slices, by pieces that do not cross a page; what the first
piece that fails meets. Bytes of a line that fails its integrity check cannot be read (R402)
(in part DEDUCED, log 9). -/
def engineRead (s : State) (fn core : Nat) : Nat → Nat → Nat → Sum Xlat (List Byte)
  | 0, _, _ => .inr []
  | fuel + 1, va, n =>
    if n = 0 then .inr []
    else
      let m := min n (4096 - va % 4096)
      match engineXlat s fn core .read va m with
      | .ok pa cid =>
        match firstForeign s cid pa m, engineRead s fn core fuel (va + m) (n - m) with
        | some x, _ => .inl (.integrity x.1 x.2)
        | none, .inr rest => .inr (memRead s.mem pa m ++ rest)
        | none, .inl x => .inl x
      | x => .inl x

/-- What such a read leaves: the section's TLB and the home slices have been gone through, up to a piece that fails
(R208). -/
def readNote (fn core : Nat) : Nat → Nat → Nat → State → State
  | 0, _, _, s => s
  | fuel + 1, va, n, s =>
    let m := min n (4096 - va % 4096)
    if n = 0 || inFrames s fn va m || decide (2 ^ 57 ≤ va) then s
    else
      match peek s fn core .read va, (sectXlat fn core va s).2 with
      | .ok pa cid, s => readNote fn core fuel (va + m) (n - m) (sliceReads fn cid pa m s)
      | _, s => s

/-- The same for several ranges. -/
def readsNote (fn core : Nat) (l : List (Nat × Nat)) (s : State) : State :=
  l.foldl (fun s p => readNote fn core (p.2 / 4096 + 2) p.1 p.2 s) s

/-- Write bytes of the context at the home slices, logged for the undo log (R252, R345). -/
def engineWrite (fn core : Nat) : Nat → Nat → List Byte → State → Sum Xlat State
  | 0, _, _, s => .inr s
  | fuel + 1, va, l, s =>
    if l.isEmpty then .inr s
    else
      let m := min l.length (4096 - va % 4096)
      match engineXlat s fn core .write va m with
      | .ok pa cid =>
        match partForeign s cid pa m with
        | some x => .inl (.integrity x.1 x.2)
        | none => engineWrite fn core fuel (va + m) (l.drop m) (loggedWrite fn cid pa (l.take m) (sectXlat fn core va s).2)
      | x => .inl x

/-- The line, or table, that fails its integrity check when such a read meets it. -/
def readsForeign (s : State) (fn core va n : Nat) : Option (Nat × Nat) :=
  match engineRead s fn core (n / 4096 + 2) va n with
  | .inl x => x.failed
  | .inr _ => none

/-- The core whose TLB the dispatcher and the Foreman translate through: the first of the partition. -/
def firstCore (s : State) (fn : Nat) : Nat := 4 * (sectionsOf (s.vf fn).sect).headD 0

/-! ### Event records (R405) -/

/-- Report an event of a function. -/
def reportEvent (fn kind code : Nat) (queue index : Nat) (s : State) : State :=
  { s with out := s.out ++ [.hostWrite (if fn = 0 then Config.mgmtEventAddr else (s.ctx fn).eventAddr)
      (toBytes 2 kind ++ toBytes 2 fn ++ toBytes 4 code ++ toBytes 8 queue ++ toBytes 8 index ++ toBytes 8 0)] }

/-! ### The trace ring (R360-R363) -/

/-- A page of the ring does not translate: writing stops, the function takes an interrupt, and the Foreman reports the
trace stop (R363, R405). -/
def traceStop (fn : Nat) (s : State) : State :=
  let s := s.modCtx fn (fun c => { c with tracestat := c.tracestat ||| (1 <<< 31) })
  reportEvent fn 4 0 (s.ctx fn).epoch.toNat 0 { s with out := s.out ++ [.interrupt fn] }

/-- Append a record to the ring of a function, or count it as dropped; a page that does not translate
stops the ring (R362, R363). -/
def traceRecord (fn core : Nat) (bytes : List Byte) (s : State) : State :=
  let c := s.ctx fn
  if !c.tracectl.getLsbD 0 then s
  else
    let drop1 (s : State) : State := s.modCtx fn (fun c =>
      let d := bits c.tracestat.toNat 30 0
      { c with tracestat := if d = 2 ^ 31 - 1 then c.tracestat else c.tracestat + 1 })
    if c.tracestat.getLsbD 31 then drop1 s
    else
      let size := 2 ^ bits c.tracectl.toNat 11 8 * 128
      let woff := bits c.tracestat.toNat 63 32 % size
      let base := bits c.tracectl.toNat 63 12 * 4096
      let units := bytes.length / 32
      let head := bytes.take (32 * min units (size - woff))
      let tail := bytes.drop (32 * min units (size - woff))
      match engineWrite fn core 4 (base + 32 * woff) head s with
      | .inl x => orIntegrity fn (s.coreNo fn core) x.failed (traceStop fn (drop1 s))
      | .inr s1 =>
        match engineWrite fn core 4 base tail s1 with
        | .inl x => orIntegrity fn (s.coreNo fn core) x.failed (traceStop fn (drop1 s))
        | .inr s2 => s2.modCtx fn (fun c => { c with
            tracestat := (BitVec.ofNat 64 ((woff + units) % size) <<< 32)
              ||| (c.tracestat &&& 0xFFFFFFFF) })

/-- The 8-byte header of a trace record (R362). -/
def traceHeader (s : State) (fn core len kind : Nat) : List Byte :=
  toBytes 8 ((s.ctx fn).pcycle % 2 ^ 40 * 2 ^ 24 + s.coreNo fn core % 256 * 2 ^ 16 + len * 256 + kind)

/-- The linear cohort index of a workgroup (R149) (in part DEDUCED, log 21). -/
def linearIndex (w : Workgroup) : Nat := w.chx + w.lcx * (w.chy + w.lcy * w.chz)

end Sys2Proof.Machine
end

