-- ==== Sys2Proof/Machine/Operands.lean ====
section
/-! DEFINITION. Operand forms: which registers a field accepts (R35, R36), the checks of R49 in the
order of R50, immediates (R40), and the driver that runs one instruction for each thread of the bundle
that issues (R12, R27, R143, R144, R151). -/

namespace Sys2Proof.Machine

/-! ### Fields -/

/-- The register classes that a field accepts. -/
structure Acc where
  g : Bool := false
  s : Bool := false
  q : Bool := false
  h : Bool := false
  z : Bool := false
  deriving DecidableEq, Repr

/-- What a register field holds. -/
inductive Role where
  /-- Unused: 0xF8 (R34). -/
  | none
  /-- An immediate, or bits whose conditions the entry states. -/
  | raw
  /-- A source of so many registers. -/
  | src (regs : Nat) (acc : Acc)
  /-- A source of so many registers, the first a multiple of `align`. -/
  | srcAt (regs align : Nat) (acc : Acc)
  /-- A destination of so many registers. -/
  | dst (regs : Nat) (acc : Acc)
  deriving DecidableEq, Repr

/-- Whether `regs` registers from number `n` are ones the field accepts, inside the frame and aligned
(R8, R9, R23, R35, R36, R65, R91). An h-register is no operand of 128 bits (in part DEDUCED, log 27). -/
def accepts (fsize : Nat) (a : Acc) (regs align : Nat) (n : BitVec 8) : Bool :=
  match regClass n with
  | .g => a.g && n.toNat % align = 0 && decide (n.toNat + regs ≤ fsize)
  | .s => a.s && (n.toNat - 0xC0) % align = 0 && decide (n.toNat - 0xC0 + regs ≤ 32)
  | .q => a.q && regs = 1
  | .h => a.h && decide (regs ≤ 2)
  | .zr => a.z
  | .reserved => false

/-- Whether a field with its mark breaks a rule of R34, R35 or R49. In DST the mark is TD. -/
def roleBad (fsize : Nat) (isDst mark tdOk : Bool) (n : BitVec 8) : Role → Bool
  | .none => n != 0xF8#8 || mark
  | .raw => mark
  | .src regs a => !accepts fsize a regs regs n || (mark && regClass n != .g)
  | .srcAt regs align a => !accepts fsize a regs align n || (mark && regClass n != .g)
  | .dst regs a =>
    !accepts fsize a regs regs n || (regClass n = .q && decide (n < 0xE8#8))
      || (mark && (!tdOk || !isDst || regClass n != .g))

/-- The encoding rules of one instruction word. `modOk` holds every condition whose trap is
ILLEGAL_MODIFIER; `opOk` holds conditions on fields beyond the roles whose trap is ILLEGAL_OPERAND. -/
structure Enc where
  modOk : Bool
  opOk : Bool := true
  dst : Role := .none
  sa : Role := .none
  sb : Role := .none
  sc : Role := .none
  tdOk : Bool := true
  deriving DecidableEq, Repr

/-- The encoding trap of an instruction word in a thread with a frame of `fsize` registers (R50)
(in part DEDUCED, log 27). -/
def encTrap (f : Fields) (e : Enc) (fsize : Nat) : Option TrapReq :=
  if !e.modOk then some (trapBefore cIllegalModifier)
  else if !e.opOk || roleBad fsize true f.td e.tdOk f.dst e.dst
      || roleBad fsize false f.lua false f.sa e.sa || roleBad fsize false f.lub false f.sb e.sb
      || roleBad fsize false f.luc false f.sc e.sc then some (trapBefore cIllegalOperand)
  else none

/-- The g-registers that a field of a role names. -/
def roleRegs (n : BitVec 8) : Role → List Nat
  | .src regs _ | .dst regs _ | .srcAt regs _ _ =>
    if regClass n = .g then (upto regs).map (n.toNat + ·) else []
  | _ => []

/-- The source that a field of a role is. -/
def roleRead (n : BitVec 8) : Role → List (BitVec 8 × Nat)
  | .src regs _ | .srcAt regs _ _ => [(n, regs)]
  | _ => []

/-- The g-registers of a field whose last-use bit is set (in part DEDUCED, log 27). -/
def roleMark (mark : Bool) (n : BitVec 8) : Role → List Nat
  | .src regs a => if mark then roleRegs n (.src regs a) else []
  | .srcAt regs align a => if mark then roleRegs n (.srcAt regs align a) else []
  | _ => []

/-! ### One instruction as the driver sees it -/

/-- An instruction's length, guard, stop bit, encoding check, sources in order (a register number and
how many registers, then an immediate if it has one), destinations (number, registers, transient),
last-use marks, the predicates it reads and writes, and whether it acts on the scalar side. -/
structure Form where
  len : Nat
  guard : Nat × Bool
  stop : Bool
  check : Nat → Option TrapReq
  reads : List (BitVec 8 × Nat)
  imm : List Nat
  writes : List (BitVec 8 × Nat × Bool)
  marks : List Nat
  named : List Nat
  predR : List Nat := []
  predW : List Nat := []
  scalar : Bool := false
  /-- Compute and apprentice threads of a bundle each have a leader of their own (R160). -/
  byRole : Bool := false

/-- The form of a full instruction word under its encoding rules. `imm` is its immediate source. A
source in DST, which a store has, comes last (R42). -/
def formOf (f : Fields) (e : Enc) (imm : Option Nat := none) (predR : List Nat := [])
    (predW : List Nat := []) : Form :=
  { len := 8 + 8 * formExt f.form
    guard := (f.gp.toNat, f.gn)
    stop := f.stop
    check := encTrap f e
    reads := roleRead f.sa e.sa ++ roleRead f.sb e.sb ++ roleRead f.sc e.sc ++ roleRead f.dst e.dst
    imm := imm.toList
    writes := match e.dst with
      | .dst regs _ => [(f.dst, regs, f.td)]
      | _ => []
    marks := roleMark f.lua f.sa e.sa ++ roleMark f.lub f.sb e.sb ++ roleMark f.luc f.sc e.sc
      ++ roleMark f.td f.dst e.dst
    named := roleRegs f.sa e.sa ++ roleRegs f.sb e.sb ++ roleRegs f.sc e.sc ++ roleRegs f.dst e.dst
    predR := predR
    predW := predW
    scalar := match e.dst with
      | .dst _ _ => regClass f.dst = .s
      | _ => false }

/-- The address of the instruction after one of a form (R30): past the top of the 57-bit space it is 0
(in part DESIGN CHOICE, log 78). -/
def nextPc (t : Thread) (F : Form) : DWord := wrapPc (t.pc + BitVec.ofNat 64 F.len)

/-- An encoding trap reports the address of the following instruction, which no trap frame has a field for (R51)
(in part DEDUCED, log 76). -/
def reportNext (len : Nat) (t : Thread) : Thread := { t with following := wrapPc (t.pc + BitVec.ofNat 64 len) }

/-- What an instruction does for one thread. -/
inductive LaneOut where
  /-- Complete: the values of the destinations; the thread goes on to the next instruction. -/
  | done (vs : List Nat) (s : State)
  /-- Complete, going on at an address. -/
  | jump (pc : DWord) (s : State)
  /-- A trap before any effect. -/
  | trap (r : TrapReq)
  /-- A trap before the instruction's effect, with what the machine has noted of it. -/
  | fail (r : TrapReq) (s : State)
  /-- Complete, then trap (R328). -/
  | after (r : TrapReq) (vs : List Nat) (s : State)
  /-- Not now: the thread tries again. `hold` keeps the source values it has read (R343). -/
  | stall (st : Stall) (hold : Bool)
  /-- Not now, with what the machine has noted of the thread's arrival. -/
  | keep (st : Stall) (s : State)
  /-- A recoverable translation fault: stage, page, virtual address, access kind (R209). -/
  | park (stage page va kind : Nat)
  /-- Wait for another step. -/
  | wait (w : Wait) (s : State)
  /-- Wait for another step, with the thread's own waiting state already set. -/
  | gone (s : State)

/-- The meaning of an instruction for one thread: its key, its state, its source values. -/
abbrev Body := Nat → Thread → List Nat → State → LaneOut

/-! ### Queue registers (R37, R158, R159, R247) -/

/-- The thread that shares q8-q15 with a thread: same workgroup and TLIN, the other role (R157). -/
def hasPartner (s : State) (t : Thread) : Bool :=
  s.threads.any (fun p => p.2.wg = t.wg && p.2.tlin = t.tlin && p.2.apprentice != t.apprentice)

/-- Whether a thread may pop (else push) queue register q8-q15 (R159). One that an instruction names both as source
and as destination it pops and pushes (R37, R158), whatever its direction (in part DEDUCED, log 29). -/
def qDirection (w : Workgroup) (t : Thread) (q : Nat) (pop both : Bool) : Bool :=
  w.hasApprentice && (both || decide (q < 12) == (pop != t.apprentice))

/-- What a queue-register source meets: nothing, a trap, or an empty queue. `need` entries are popped. -/
def qSource (s : State) (w : Workgroup) (t : Thread) (q need : Nat) (both : Bool) : Option (Sum TrapReq Stall) :=
  if 8 ≤ q && !qDirection w t q true both then some (.inl (trapBefore cIllegalOperand))
  else if need ≤ (queueAt w t q).length then none
  else if 8 ≤ q && !hasPartner s t then some (.inl (trapBefore cIllegalOperand))
  else some (.inr ⟨8, 6, q⟩)

/-- What a queue-register destination meets. `pops` entries leave the queue first (R158). -/
def qDest (s : State) (w : Workgroup) (t : Thread) (q pops : Nat) : Option (Sum TrapReq Stall) :=
  if !qDirection w t q false (decide (0 < pops)) || !hasPartner s t then some (.inl (trapBefore cIllegalOperand))
  else if (queueAt w t q).length - pops < Config.depthApq then none
  else some (.inr ⟨9, 7, q⟩)

/-- How many of the sources name a queue. -/
def popsOf (reads : List (BitVec 8 × Nat)) (q : Nat) : Nat :=
  (reads.filter (fun r => r.1.toNat = 0xE0 + q)).length

/-- The queues that the sources name. -/
def queuesOf (reads : List (BitVec 8 × Nat)) : List Nat :=
  distinct ((reads.filter (fun r => regClass r.1 = .q)).map (fun r => r.1.toNat - 0xE0))

/-- What the queue registers of an instruction meet before it can read its sources: a use that R159 forbids
comes before any wait (in part DEDUCED, log 29). -/
def qCheck (F : Form) (s : State) (w : Workgroup) (t : Thread) : Option (Sum TrapReq Stall) :=
  let l := (queuesOf F.reads).filterMap (fun q => qSource s w t q (popsOf F.reads q)
      (F.writes.any (fun d => d.1.toNat = 0xE0 + q)))
    ++ F.writes.filterMap (fun d =>
      if regClass d.1 = .q then
        qDest s w t (d.1.toNat - 0xE0) (popsOf F.reads (d.1.toNat - 0xE0))
      else none)
  match l.find? (fun r => r.isLeft) with
  | some r => some r
  | none => l.head?

/-- The source values, in order; each field that names a queue takes its next entry (R37). -/
def readSources (w : Workgroup) (t : Thread) : List (BitVec 8 × Nat) → List (BitVec 8 × Nat) → List Nat
  | _, [] => []
  | before, (n, regs) :: l =>
    readReg w t n regs (popsOf before (n.toNat - 0xE0)) :: readSources w t (before ++ [(n, regs)]) l

/-- The regions of a task record's list, and whether the list can be used (R262, R263). -/
def regionList (s : State) (fn core : Nat) (record : List Byte) : Option (List (Nat × Nat)) :=
  let a := valAt 0x28 8 record
  if a = 0 then some []
  else if a % 128 != 0 then none
  else
    match engineRead s fn core 2 a 128 with
    | .inl _ => none
    | .inr b =>
      some (((upto 8).map (fun i => (valAt (16 * i) 8 b, valAt (16 * i + 8) 8 b))).takeWhile
        (fun r => r.2 != 0))

/-- Invalidate the L1 lines of a core that overlap bytes `a` to `a + n − 1` of the context, read-only
ones included, page by page; pages that do not translate are skipped (R241). -/
def dropRegion (fn core : Nat) : Nat → Nat → Nat → State → State
  | 0, _, _, s => s
  | fuel + 1, a, n, s =>
    if n = 0 then s
    else
      let m := min n (4096 - a % 4096)
      let s := match mapped s fn core a, (sectXlat fn core a s).2 with
        | some (pa, _), s => l1Drop core pa m s
        | none, s => orIntegrity fn (s.coreNo fn core) (mappedFails s fn core a) s
      dropRegion fn core fuel (a + m) (n - m) s

/-- Popping a completion word is an acquire at `.dev`; popping the OK word of a TKPOP also drops the
regions of its record's list, or everything if the list cannot be used (R249, R262). The OK words of other commands of
TK come with an empty record. -/
def popEffect (t : Thread) (core q : Nat) (word : Word) (s : State) : State :=
  let s := l1Acquire core s
  if bits word.toNat 31 28 = 0 && bits word.toNat 27 24 = 4 then
    match (look t.wg s.wgs).bind (fun w => ((look q w.popped).getD []).head?) with
    | none => s
    | some r =>
      let s := s.modWg t.wg (fun w => { w with popped := put q (((look q w.popped).getD []).drop 1) w.popped })
      if r.isEmpty then s
      else
      let s := if valAt 0x28 8 r = 0 || valAt 0x28 8 r % 128 != 0 then s else readNote t.fn core 2 (valAt 0x28 8 r) 128 s
      match regionList s t.fn core r with
      | none => s.modCore core (fun c => { c with l1 := [] })
      | some l => l.foldl (fun s p => dropRegion t.fn core (p.2 / 4096 + 2) p.1 p.2 s) s
  else s

/-! ### Order points of an instruction's registers (R368) -/

/-- The s-registers among some fields (in part DEDUCED, log 33). -/
def sNames (l : List (BitVec 8 × Nat)) : List Nat :=
  l.flatMap (fun r => if regClass r.1 = .s then (upto r.2).map (r.1.toNat - 0xC0 + ·) else [])

/-- The object of an s-register, an event counter or a completion queue of a workgroup: its resident
index and a number (in part DEDUCED, log 33). -/
def wgObject (wg n : Nat) : DWord := BitVec.ofNat 64 (wg % 32 * 64 + n)

/-- The agent that a bundle is on the scalar side. -/
def slotAgent (k : Nat) : Nat := slotOf k * 12 + wposOf k / 4

/-- The s-registers and completion queues that an instruction reads, unless it waits with its sources read; and the
s-registers that it writes. -/
def orderSources (t : Thread) (F : Form) : List (BitVec 8 × Nat) := if t.held.isSome then [] else F.reads
def orderDests (F : Form) : List Nat := sNames (F.writes.map (fun d => (d.1, d.2.1)))

/-- In a replay, whether every s-register and completion queue that the instruction names serves this
thread next: one that it reads and writes serves the read first. -/
def orderedRegs (s : State) (k : Nat) (t : Thread) (F : Form) : Bool :=
  recMode s t.fn != 2 ||
    (let at3 (event n : Nat) : Bool :=
      orderReady s t.fn 3 (s.coreNo t.fn (coreOf k)) (wgObject t.wg n) (slotAgent k) event
    let l := orderSources t F
    (sNames l).all (at3 0) && ((orderDests F).filter (fun n => !(sNames l).contains n)).all (at3 1)
      && ((queuesOf l).filter (· < 8)).all (fun q =>
        orderReady s t.fn 4 (s.coreNo t.fn (coreOf k)) (wgObject t.wg (16 + q)) (laneAgent k) 3))

/-- Log what an instruction reads of s-registers and pops of completion queues, as it reads its sources. -/
def orderReads (k : Nat) (t : Thread) (F : Form) (s : State) : State :=
  if recMode s t.fn = 0 then s
  else
    let l := orderSources t F
    let s := (sNames l).foldl (fun s n =>
      orderPoint t.fn 3 (s.coreNo t.fn (coreOf k)) (wgObject t.wg n) (slotAgent k) 0 none s) s
    ((queuesOf l).filter (· < 8)).foldl (fun s q =>
      (upto (popsOf l q)).foldl (fun s _ =>
        orderPoint t.fn 4 (s.coreNo t.fn (coreOf k)) (wgObject t.wg (16 + q)) (laneAgent k) 3 none s) s) s

/-- Log the s-registers that it writes. -/
def orderWrites (k : Nat) (t : Thread) (F : Form) (s : State) : State :=
  if recMode s t.fn = 0 then s
  else (orderDests F).foldl (fun s n =>
    orderPoint t.fn 3 (s.coreNo t.fn (coreOf k)) (wgObject t.wg n) (slotAgent k) 1 none s) s

/-- Pop the entries that the sources read. -/
def popQueues (k : Nat) (t : Thread) (reads : List (BitVec 8 × Nat)) (s : State) : State :=
  (queuesOf reads).foldl (fun s q =>
    match look t.wg s.wgs with
    | none => s
    | some w =>
      let l := queueAt w t q
      let n := popsOf reads q
      let s := s.modWg t.wg (setQueue t q (l.drop n))
      if q < 8 then (l.take n).foldl (fun s x => popEffect t (coreOf k) q x s) s else s) s

/-! ### The driver -/

/-- Registers that an instruction must wait for: destinations of loads in flight (R123)
(in part DEDUCED, log 28). -/
def waitsForLoad (F : Form) (t : Thread) (w : Workgroup) : Bool :=
  F.named.any (fun n => t.pendG.contains n)
    || (F.reads ++ F.writes.map (fun d => (d.1, d.2.1))).any (fun r =>
      regClass r.1 = .s && (upto r.2).any (fun i => w.pendS.contains (r.1.toNat - 0xC0 + i)))

/-- A source whose requested fill is under way (R120). -/
def waitsForFill (F : Form) (t : Thread) : Bool :=
  F.reads.any (fun r => regClass r.1 = .g && (upto r.2).any (fun i =>
    t.fills.contains (r.1.toNat + i) && (transient? t (r.1.toNat + i)).isNone))

/-- Registers that an instruction reads from the frame: those that the operand cache does not hold (R14). -/
def missedRegs (F : Form) (t : Thread) : List Nat :=
  ((F.reads.filter (fun r => regClass r.1 = .g)).flatMap (fun r => (upto r.2).map (r.1.toNat + ·))).filter
    (fun n => (transient? t n).isNone && !isDead t n && (ocFind n t.oc).isNone)

/-- The thread goes on to an address after completing: safe point counted, stall state cleared; it is ready again from
the next cycle on (R163). -/
def advance (now : Nat) (pc : DWord) (stop : Bool) (t : Thread) : Thread :=
  { t with pc := pc, spord := if stop then t.spord + 1 else t.spord, stall := none, held := none,
           stallFrom := none, polled := false, readySince := now + 1 }

/-- Sources take their place in the operand cache (R13-R15). -/
def touchSources (F : Form) (t : Thread) : Thread :=
  ((F.reads.filter (fun r => regClass r.1 = .g)).flatMap (fun r => (upto r.2).map (r.1.toNat + ·))).foldl
    (fun t n => touchG F.named n t) t

/-- Sources take their place in the operand cache, and those marked last-use die (R13-R17). -/
def consume (F : Form) (t : Thread) : Thread := killG F.marks (touchSources F t)

/-- The lines of its frame that a thread writes when it completes an instruction (R14, R15). -/
def frameWrites (F : Form) (t : Thread) : List Nat :=
  (F.writes.foldl (fun t d =>
    if regClass d.1 = .g then writeG F.named d.1.toNat (List.replicate d.2.1 0) d.2.2 t else t)
    (consume F { t with wrote := [] })).wrote

/-- The lines of its frame that an instruction of a thread reads or writes. -/
def frameLines (F : Form) (t : Thread) : List Nat := (missedRegs F t).map (· / 32) ++ frameWrites F t

/-- The granule of a queue register's entries in the window of a thread's pair of warps: two queues to a granule
(R158) (in part DESIGN CHOICE, log 77). -/
def windowGranule (w : Workgroup) (t : Thread) (q : Nat) : Option Nat :=
  w.winGrans[Config.windowGranules * w.windows.idxOf (t.tlin / 32) + (q - 8) / 2]?

/-- The granules of the pool that an instruction's operands are in: frame units that it reads or writes, and the
queue windows that it pops or pushes (R184, R185). -/
def operandGrans (s : State) (k : Nat) (t : Thread) (F : Form) : List Nat :=
  ((missedRegs F t).map (· / 8) ++ (frameWrites F t).map (4 * ·)).filterMap (unitGranule s k)
    ++ (match look t.wg s.wgs with
      | none => []
      | some w => ((F.reads.map (·.1) ++ F.writes.map (·.1)).filter
          (fun n => regClass n = .q && decide (0xE8#8 ≤ n))).filterMap (fun n => windowGranule w t (n.toNat - 0xE0)))

/-- Write the destinations of a completed instruction, in order. -/
def writeAll (k : Nat) (F : Form) (vs : List Nat) (s : State) : State :=
  (F.writes.zip vs).foldl (fun s p => writeReg k F.named p.1.1 p.1.2.1 p.2 p.1.2.2 s) s

/-- How the leading thread of a scalar instruction fared; the others of its workgroup in the bundle that issue with
it follow it (R151). -/
inductive Lead where
  | none
  /-- It completed; `load` names the load that it has put in flight. -/
  | done (load : Option Nat)
  | trap (r : TrapReq)
  /-- It waits; `held` is what it has read for its bundle. -/
  | stall (st : Stall) (held : Option (List Nat))
  | park (stage page va kind : Nat)

/-- Which threads of a bundle share a leading thread: those of a workgroup, of a role where that matters, and of one
issue: a thread that joins a bundle which waits with source values read issues for itself. -/
abbrev LeadKey := Nat × Option (List Nat)

/-- The running state of one issue: traps to take, how each workgroup's scalar leader fared, and the
threads that issued. -/
structure Run where
  s : State
  traps : List Trapping
  leads : List (LeadKey × Lead)
  issued : List Nat

/-- A stall: the thread keeps its place and tries again in a later cycle. `stallFrom` is the cycle in
which it began to wait for what it now waits for. -/
def stallThread (now : Nat) (st : Stall) (held : Option (List Nat)) (t : Thread) : Thread :=
  { t with stall := some st, polled := true, held := held,
           stallFrom := if t.stall = some st then some (t.stallFrom.getD now) else some now }

def Run.trap (r : Run) (k : Nat) (t : Thread) (q : TrapReq) : Run :=
  { r with traps := r.traps ++ [⟨k, q, t.pc, t.pc⟩], issued := r.issued ++ [k] }

def Run.hold (r : Run) (k : Nat) (t : Thread) (st : Stall) (held : Option (List Nat)) : Run :=
  { r with s := r.s.modThread k (stallThread (r.s.ctx t.fn).clock st held) }

def Run.stall (r : Run) (k : Nat) (t : Thread) (st : Stall) : Run := r.hold k t st t.held

/-- An instruction of a thread reads its sources: the pops that they are, logged (R37, R368); one that waits has read them. -/
def takeSources (k : Nat) (t : Thread) (F : Form) (s : State) : State :=
  if t.held.isSome then s else orderReads k t F (popQueues k t F.reads s)

/-- Complete an instruction of a thread: its banks serve it, pops, source effects, results, what the frame lines
that it wrote bring, then the program counter. -/
def complete (k : Nat) (t : Thread) (F : Form) (pc : DWord) (vs : List Nat) (s : State) : State :=
  let s := fillChecked k t (frameLines F t) (useBanks k (operandGrans s k t F) s)
  let s := takeSources k t F s
  let s := s.modThread k (consume F)
  let s := accountFrames k t (orderWrites k t F (writeAll k F vs s))
  s.modThread k (advance (s.ctx t.fn).pcycle pc F.stop)

/-- The sources of an instruction that waits take their places, but for a suspension, which has emptied the operand
cache after reading them (R14, R162). -/
def waitSources (F : Form) (v : Wait) (t : Thread) : Thread :=
  match v with
  | .suspended _ _ _ _ => t
  | _ => touchSources F t

/-- An instruction of a thread has issued that another step completes: its sources are read, and what that step needs
is kept. -/
def beginWaiting (k : Nat) (t : Thread) (F : Form) (v : Wait) (s : State) : State :=
  let s := fillChecked k t (frameLines F t) (useBanks k (operandGrans s k t F) s)
  let s := takeSources k t F s
  let s := accountFrames k t (s.modThread k (waitSources F v))
  let d := F.writes.headD (0xF8#8, 1, false)
  s.modThread k (fun t => { t with
    wait := some v, stall := none, held := none, readySince := (s.ctx t.fn).pcycle + 1
    pending := some ⟨F.marks, F.stop, d.1, d.2.1, d.2.2, F.named, F.len, (s.ctx t.fn).pcycle⟩ })

/-- The key of a thread's leader in the bundle, and how that one has fared. -/
def Form.leadKey (F : Form) (t : Thread) : LeadKey := (2 * t.wg + one (F.byRole && t.apprentice), t.held)
def Run.lead (r : Run) (key : LeadKey) : Lead := ((r.leads.find? (fun p => p.1 = key)).map (·.2)).getD .none

/-- The load that a thread has put in flight since a state. -/
def loadSince (old : State) (k : Nat) (s : State) : Option Nat :=
  (s.ops.find? (fun o => o.thread = k && o.cls = 1 && decide (old.nextId ≤ o.id))).map (·.id)

/-- A thread issues a scalar load with its leading thread: the one load is outstanding for it as well (R144, R151,
R250). -/
def joinLoad (k : Nat) (load : Option Nat) (s : State) : State :=
  match s.ops.find? (fun o => load = some o.id) with
  | none => s
  | some o =>
    ({ s with ops := s.ops.map (fun p => if load = some p.id then { p with others := p.others ++ [k] } else p) } : State).modThread
      k (fun t => { t with ld := t.ld + 1, acquiring := if o.acquire.isSome then t.acquiring + 1 else t.acquiring })

/-- Whether a thread cannot issue a load yet: its acquire has not returned (R216), or ld is at its ceiling (R250). -/
def loadHeld (t : Thread) : Bool := t.acquiring != 0 || decide (63 ≤ t.ld)

/-- The outcome of a body joins the run. -/
def Run.take (r : Run) (k : Nat) (t : Thread) (F : Form) (srcs : List Nat) (o : LaneOut) : Run :=
  let next := nextPc t F
  match o with
  | .done vs s => { r with s := complete k t F next vs s, issued := r.issued ++ [k], leads := (F.leadKey t, .done (loadSince r.s k s)) :: r.leads }
  | .jump pc s => { r with s := complete k t F pc [] s, issued := r.issued ++ [k], leads := (F.leadKey t, .done (loadSince r.s k s)) :: r.leads }
  | .trap q => { r.trap k t q with leads := (F.leadKey t, .trap q) :: r.leads }
  | .fail q s => { ({ r with s := s } : Run).trap k t q with leads := (F.leadKey t, .trap q) :: r.leads }
  | .after q vs s =>
    { r with
      s := complete k t F next vs s, issued := r.issued ++ [k], leads := (F.leadKey t, .done (loadSince r.s k s)) :: r.leads
      traps := r.traps ++ [⟨k, q, t.pc, next⟩] }
  | .stall st hold =>
    let s := if hold then takeSources k t F r.s else r.s
    let held := if hold then some srcs else t.held
    { ({ r with s := s } : Run).hold k t st held with leads := (F.leadKey t, .stall st held) :: r.leads }
  | .keep st s =>
    { ({ r with s := s } : Run).stall k t st with leads := (F.leadKey t, .stall st t.held) :: r.leads }
  | .park stage page va kind =>
    { r with
      s := parkThread k t.fn stage page va kind r.s
      leads := (F.leadKey t, .park stage page va kind) :: r.leads }
  | .wait w s => { r with s := beginWaiting k t F w s, issued := r.issued ++ [k] }
  | .gone s => { r with s := s, issued := r.issued ++ [k], leads := (F.leadKey t, .done (loadSince r.s k s)) :: r.leads }

/-- One thread of the bundle (R12, R27, R50): encoding check, guard, readiness, then the body. -/
def laneStep (F : Form) (body : Body) (r : Run) (k : Nat) : Run :=
  match look k r.s.threads with
  | none => r
  | some t =>
    match look t.wg r.s.wgs with
    | none => r
    | some w =>
      match F.check t.fsize with
      | some q => ({ r with s := r.s.modThread k (reportNext F.len) } : Run).trap k t q
      | none =>
        if isPendP t F.guard.1 then r.stall k t ⟨15, 0, 0⟩
        else if predAt t F.guard.1 = F.guard.2 then
          { r with
            s := r.s.modThread k
              (advance (r.s.ctx t.fn).pcycle (nextPc t F) F.stop)
            issued := r.issued ++ [k] }
        else if (F.predR ++ F.predW).any (isPendP t) then r.stall k t ⟨15, 0, 0⟩
        else
        match F.scalar, r.lead (F.leadKey t) with
        | true, .done load =>
          if load.isSome && loadHeld t then r.stall k t ⟨4, 0, 0⟩
          else r.take k t { F with reads := [], writes := [] } [] (.done [] (joinLoad k load r.s))
        | true, .trap q => r.trap k t q
        | true, .stall st held => r.hold k t st held
        | true, .park stage page va kind => { r with s := parkThread k t.fn stage page va kind r.s }
        | _, _ =>
        if waitsForLoad F t w then r.stall k t ⟨4, 0, 0⟩
        else if waitsForFill F t then r.stall k t ⟨1, 0, 0⟩
        else if !orderedRegs r.s k t F then r.stall k t ⟨15, 0, 0⟩
        else if !frameRoom r.s k t (frameWrites F t) || logSpent r.s t.fn then r.stall k t ⟨15, 13, 0⟩
        else if banksBusy r.s k (operandGrans r.s k t F) then r.stall k t (bankStall r.s k (operandGrans r.s k t F))
        else
          match if t.held.isSome then none else qCheck F r.s w t with
          | some (.inl q) => r.trap k t q
          | some (.inr st) => r.stall k t st
          | none =>
            let srcs := t.held.getD (readSources w t [] F.reads ++ F.imm)
            r.take k t F srcs (body k t srcs r.s)

/-- Whether a thread takes part in bundles: it is neither suspended nor waiting at a barrier (R142). -/
def bundled (t : Thread) : Bool :=
  match t.wait with
  | some (.suspended _ _ _ _) | some (.barrier _) | some (.barrierAgain _ _ _) => false
  | _ => true

/-- How a bundle splits: by program counter, those that issued apart from those that did not, and those
under a pause in force apart (R143, R161). -/
def splitKey (issued : List Nat) (k : Nat) (t : Thread) : Nat :=
  4 * t.pc.toNat + 2 * one (issued.contains k) + one t.pauseTill.isSome

/-- The bundles that the threads of one become, of which some have issued. Threads that wait at a barrier or
are suspended join bundles again at a regroup boundary (R142, R143). -/
def splitBundle (s : State) (issued ks : List Nat) : List (List Nat) :=
  let live := ks.filterMap (fun k => (look k s.threads).bind (fun t =>
    if bundled t then some (splitKey issued k t, k) else none))
  (groupBy (·.1) live).map (·.map (·.2))

/-- The program counter that most of some threads stand at; of several the lowest (R145). -/
def mostPc (s : State) (ks : List Nat) : Option Nat :=
  let pcs := sortBy id (ks.filterMap (fun k => (look k s.threads).map (·.pc.toNat)))
  let count (a : Nat) : Nat := (pcs.filter (· = a)).length
  pcs.foldl (fun m a => match m with
    | none => some a
    | some b => if count b < count a then some a else m) none

/-- The workgroups of some threads. -/
def wgsOf (s : State) (ks : List Nat) : List Nat :=
  distinct (ks.filterMap (fun k => (look k s.threads).map (·.wg)))

/-- The workgroups of the compute threads among some: an apprentice's issues are not in the exit record (R160,
R365). -/
def wgsCounted (s : State) (ks : List Nat) : List Nat :=
  wgsOf s (ks.filter (fun k => ((look k s.threads).map (!·.apprentice)).getD false))

/-- The address of the instruction that the issuing bundle stands at. -/
def issuePc (s : State) : DWord := ((s.issue.head?.bind (fun k => look k s.threads)).map (·.pc)).getD 0

/-- The bundle of a core that a thread is in, or those that issue. -/
def wholeBundle (c : Core) (k : Nat) (ks : List Nat) : List Nat :=
  (c.bundles.find? (fun b => b.contains k)).getD ks

/-- The broadcast stream of a slot after an issue at an address: it follows the threads that took their words
from it (R145) (in part DESIGN CHOICE, log 7). -/
def streamNext (s : State) (issued : List Nat) (pc slot : Nat) (l : List (Option Nat)) : List (Option Nat) :=
  if nth none slot l = some pc && !issued.isEmpty then setNth (mostPc s issued) slot l else l

/-- The threads of a core that still follow their slot's stream after an issue of a slot at an address: those of the
slot that stand where the stream goes on and, where they have issued, took their words from it (R145). `old` and `new`
are the stream before and after. -/
def streamKept (s : State) (issued : List Nat) (pc slot : Nat) (old new : List (Option Nat)) (l : List Nat) : List Nat :=
  l.filter (fun k => slotOf k != slot
    || (nth none slot new = (look k s.threads).map (·.pc.toNat)
      && (!issued.contains k || nth none slot old = some pc)))

/-- The safe-point ordinal of the first of some threads. -/
def ordOf (s : State) (ks : List Nat) : Nat :=
  ((ks.head?.bind (fun k => look k s.threads)).map (·.spord.toNat)).getD 0

/-- Account for an issue: bundles, the stream, the slot's turn in this cycle, the workgroups' counts (R143 to
R145, R364, R365). `bundle` lists the threads that tried, `wgs` the workgroups of those that issued, `counted`
those of them that a compute thread issued for, `ord` is the ordinal of the first thread that issued. -/
def settle (bundle : List Nat) (wgs counted issued : List Nat) (pc : DWord) (ord : Nat) (s : State) :
    State :=
  match bundle with
  | [] => s
  | k :: _ =>
    let whole := wholeBundle (s.core (coreOf k)) k bundle
    let s := s.modCore (coreOf k) (fun c => { c with
      lastPc := if issued.isEmpty then c.lastPc else setNth pc (slotOf k) c.lastPc
      bundles := (c.bundles.filter (· != whole)).flatMap (splitBundle s []) ++ splitBundle s issued whole
      bcast := if issued.isEmpty then c.bcast else streamNext s (issued.filter c.streaming.contains) pc.toNat (slotOf k) c.bcast
      streaming := if issued.isEmpty then c.streaming
        else streamKept s issued pc.toNat (slotOf k) c.bcast
          (streamNext s (issued.filter c.streaming.contains) pc.toNat (slotOf k) c.bcast) c.streaming
      slotNext := if issued.isEmpty then c.slotNext else max c.slotNext (slotOf k + 1)
      issuedNow := if issued.isEmpty then c.issuedNow else c.issuedNow ++ [(issued.headD k, ord)] })
    if issued.isEmpty then s
    else wgs.foldl (fun s w => s.modWg w (fun v => { v with
      issued := if counted.contains w then v.issued + 1 else v.issued, issuedNow := true })) s

/-- Run one instruction for the bundle that issues, in ascending home lane, then take its traps. -/
def runLanes (F : Form) (body : Body) (s : State) : State :=
  let r := s.issue.foldl (laneStep F body) ⟨s, [], [], []⟩
  settle s.issue (wgsOf s r.issued) (wgsCounted s r.issued) r.issued (issuePc s)
    (ordOf s r.issued) (takeTraps r.traps r.s)

/-- The answer of a program instruction: always a next state. -/
def answer (F : Form) (body : Body) (s : State) : Out1 := .next (runLanes F body s)

/-- A wait ends with a value for its destination (R172, R187); what the destination may be was settled when the
instruction executed (in part DEDUCED, log 29). -/
def finishWait (k v : Nat) (s : State) : State :=
  match look k s.threads with
  | none => s
  | some t =>
    match t.pending with
    | none => s.modThread k (goOn (s.ctx t.fn).pcycle)
    | some p =>
      accountFrames k t (writeReg k p.named p.dst p.regs v p.td (s.modThread k (goOn (s.ctx t.fn).pcycle)))

/-! ### Immediates and the common layouts (R38-R40) -/

/-- The bits of the common modifier layout (R38). -/
def mIM (f : Fields) : Bool := f.mod.getLsbD 10
def mTYPE (f : Fields) : Nat := bits f.mod.toNat 9 5
def mRND (f : Fields) : Nat := bits f.mod.toNat 4 2
def mSAT (f : Fields) : Bool := f.mod.getLsbD 1
def mFZ (f : Fields) : Bool := f.mod.getLsbD 0

/-- Sources of g, s, q or zr on the lanes; with an s destination, of s, h or zr (R35, R36). -/
def srcAcc (f : Fields) : Acc :=
  if regClass f.dst = .s then { s := true, h := true, z := true }
  else { g := true, s := true, q := true, z := true }

/-- Destinations of class 0: g, s, q or zr (R35). -/
def dstAcc0 : Acc := { g := true, s := true, q := true, z := true }

/-- Whether the immediate's own field holds what its form asks for (R40), and form 10 comes with IM
(R41). `fld` is that field. -/
def immOk (f : Fields) (fld : BitVec 8) : Bool :=
  if mIM f then formExt f.form = 0 || fld = 0 else formExt f.form = 0

/-- The roles of SA, SB and SC of an instruction with up to three sources, of which the last may be an
immediate (R34, R40). `r1`, `r2`, `r3` are the registers of each. -/
def roles (f : Fields) (n r1 r2 r3 : Nat) (a : Acc) : Role × Role × Role :=
  let im := mIM f
  if n = 1 then (if im then (.none, .raw, .none) else (.src r1 a, .none, .none))
  else if n = 2 then (if im then (.src r1 a, .none, .raw) else (.src r1 a, .src r2 a, .none))
  else (.src r1 a, .src r2 a, if im then .raw else .src r3 a)

/-- The field that holds the immediate of an instruction with `n` sources (R40). -/
def immField (f : Fields) (n : Nat) : BitVec 8 := if n = 1 then f.sb else f.sc

/-- An integer immediate at an operand width: 8 bits, sign- or zero-extended, or the low bits of
extension word 1 (R40). -/
def intImm (f : Fields) (n w : Nat) (signed : Bool) : Nat :=
  if formExt f.form = 0 then
    if signed then wrapNat w (sextInt 8 (immField f n).toNat) else (immField f n).toNat
  else f.ext1.toNat % 2 ^ w

/-- Registers that a width takes: one up to 32 bits, else two or four (R9, R65). -/
def regsFor (w : Nat) : Nat := if w ≤ 32 then 1 else w / 32

end Sys2Proof.Machine
end

