-- ==== Sys2Proof/Machine/Int.lean ====
section
/-! DEFINITION. Class 0: integer arithmetic, logic, shifts, bit fields, compares, moves, predicates and
special values (R91-R112). -/

namespace Sys2Proof.Machine

/-! ### Integer types (R39, R65-R69) -/

/-- Width of a `.b`, `.i` or `.n` type code. -/
def typeWidth (c : Nat) : Nat := if c = 4 then 128 else 8 * 2 ^ (c % 4)
/-- Whether a type code is one of the `.i` types. -/
def signedTy (c : Nat) : Bool := c / 4 = 2

/-- The value of a source read as a type (R66). -/
def readInt (c v : Nat) : Int :=
  if signedTy c then sextInt (typeWidth c) v else ((v % 2 ^ typeWidth c : Nat) : Int)

/-- A result of a type as its registers hold it: narrower than 32 bits, filled by R66. -/
def placeInt (c v : Nat) : Nat :=
  let w := typeWidth c
  if 32 ≤ w then v % 2 ^ w
  else if signedTy c then wrapNat 32 (sextInt w v) else v % 2 ^ w

/-- The least and the greatest value of a type (R65). -/
def minInt (c : Nat) : Int := if signedTy c then -(2 ^ (typeWidth c - 1) : Nat) else 0
def maxInt (c : Nat) : Int :=
  if signedTy c then (2 ^ (typeWidth c - 1) : Nat) - 1 else (2 ^ typeWidth c : Nat) - 1

/-- Clamp to the range of a type (R67). -/
def satInt (c : Nat) (x : Int) : Int := max (minInt c) (min (maxInt c) x)

/-- An exact result as the register holds it, clamped or wrapped (R67, R93). -/
def intResult (c : Nat) (sat : Bool) (x : Int) : Nat :=
  placeInt c (wrapNat (typeWidth c) (if sat then satInt c x else x))

/-- `.i32` and every `.i`, `.n` type of 8 to 64 bits. -/
def arithTypes : List Nat := [8, 9, 10, 11, 12, 13, 14, 15]
def signedTypes : List Nat := [8, 9, 10, 11]
def rawTypes : List Nat := [0, 1, 2, 3]

/-! ### Encoding of the common layout (R91) -/

/-- The encoding rules of a class-0 instruction with `n` sources of its type. -/
def intEnc (f : Fields) (n : Nat) (types : List Nat) (sat chk imm : Bool) : Enc :=
  let r := regsFor (typeWidth (mTYPE f))
  let (a, b, c) := roles f n r r r (srcAcc f)
  { modOk := types.contains (mTYPE f) && mRND f = 0 && (sat || !mSAT f) && (chk || !mFZ f)
      && (imm || !mIM f) && immOk f (immField f n)
    dst := .dst r dstAcc0, sa := a, sb := b, sc := c }

/-- The immediate of such an instruction at a width: sign-extended unless the type is `.n` (R40). -/
def immOf (f : Fields) (n w : Nat) : Option Nat :=
  if mIM f then some (intImm f n w (mTYPE f / 4 != 3)) else none

def intForm (f : Fields) (n : Nat) (types : List Nat) (sat chk imm : Bool) : Form :=
  formOf f (intEnc f n types sat chk imm) (immOf f n (typeWidth (mTYPE f)))

/-- Sources as exact integers, the exact result clamped or wrapped. -/
def intBody (f : Fields) (op : List Int → Int) : Body := fun _ _ srcs s =>
  .done [intResult (mTYPE f) (mSAT f) (op (srcs.map (readInt (mTYPE f))))] s

def fst1 (l : List Int) : Int := nth 0 0 l
def snd1 (l : List Int) : Int := nth 0 1 l
def trd1 (l : List Int) : Int := nth 0 2 l

/-- IADD (R93). -/
def execIadd (f : Fields) (s : State) : Out1 :=
  answer (intForm f 2 arithTypes true false true) (intBody f (fun l => fst1 l + snd1 l)) s
/-- ISUB (R93). -/
def execIsub (f : Fields) (s : State) : Out1 :=
  answer (intForm f 2 arithTypes true false true) (intBody f (fun l => fst1 l - snd1 l)) s
/-- IMUL (R93). -/
def execImul (f : Fields) (s : State) : Out1 :=
  answer (intForm f 2 arithTypes true false true) (intBody f (fun l => fst1 l * snd1 l)) s
/-- IMAD (R93). -/
def execImad (f : Fields) (s : State) : Out1 :=
  answer (intForm f 3 arithTypes true false true) (intBody f (fun l => fst1 l * snd1 l + trd1 l)) s
/-- IMIN (R93). -/
def execImin (f : Fields) (s : State) : Out1 :=
  answer (intForm f 2 arithTypes false false true) (intBody f (fun l => min (fst1 l) (snd1 l))) s
/-- IMAX (R93). -/
def execImax (f : Fields) (s : State) : Out1 :=
  answer (intForm f 2 arithTypes false false true) (intBody f (fun l => max (fst1 l) (snd1 l))) s
/-- IABS (R93). -/
def execIabs (f : Fields) (s : State) : Out1 :=
  answer (intForm f 1 signedTypes true false false)
    (intBody f (fun l => if fst1 l < 0 then - fst1 l else fst1 l)) s
/-- INEG (R93). -/
def execIneg (f : Fields) (s : State) : Out1 :=
  answer (intForm f 1 signedTypes true false false) (intBody f (fun l => - fst1 l)) s

/-- IMULH (R94): the upper half of the exact product. -/
def execImulh (f : Fields) (s : State) : Out1 :=
  answer (intForm f 2 [10, 14, 11, 15] false false true)
    (intBody f (fun l => (fst1 l * snd1 l) / (2 ^ typeWidth (mTYPE f) : Nat))) s

/-- The encoding of IMADW: 32-bit sources A and B, 64-bit C and destination (R95). -/
def imadwEnc (f : Fields) : Enc :=
  let (a, b, c) := roles f 3 1 1 2 (srcAcc f)
  { modOk := [10, 14].contains (mTYPE f) && mRND f = 0 && !mSAT f && !mFZ f && immOk f f.sc
    dst := .dst 2 dstAcc0, sa := a, sb := b, sc := c }

/-- IMADW (R95). -/
def execImadw (f : Fields) (s : State) : Out1 :=
  answer (formOf f (imadwEnc f) (immOf f 3 64))
    (fun _ _ srcs s =>
      let c := mTYPE f
      let x := readInt c (nth 0 0 srcs) * readInt c (nth 0 1 srcs) + readInt (c + 1) (nth 0 2 srcs)
      .done [wrapNat 64 x] s) s

/-- The encoding of IADDC and ISUBB: `.n32` or `.n64`, the predicate's number in RND, no s
destination (R92, R96). -/
def carryEnc (f : Fields) : Enc :=
  let e := intEnc { f with mod := f.mod &&& 0x7E3 } 2 [14, 15] false false true
  { e with dst := .dst (regsFor (typeWidth (mTYPE f))) { g := true, q := true, z := true } }

def carryForm (f : Fields) : Form :=
  formOf f (carryEnc f) (immOf f 2 (typeWidth (mTYPE f))) [mRND f] [mRND f]

/-- IADDC (R96): the carry comes from and goes to predicate N. -/
def execIaddc (f : Fields) (s : State) : Out1 :=
  answer (carryForm f)
    (fun k t srcs s =>
      let w := typeWidth (mTYPE f)
      let x := nth 0 0 srcs % 2 ^ w + nth 0 1 srcs % 2 ^ w + one (predAt t (mRND f))
      .done [x % 2 ^ w] (s.modThread k (setPred (mRND f) (decide (2 ^ w ≤ x))))) s

/-- ISUBB (R96): the borrow comes from and goes to predicate N. -/
def execIsubb (f : Fields) (s : State) : Out1 :=
  answer (carryForm f)
    (fun k t srcs s =>
      let w := typeWidth (mTYPE f)
      let x : Int := (nth 0 0 srcs % 2 ^ w : Nat) - ((nth 0 1 srcs % 2 ^ w : Nat) : Int)
        - (one (predAt t (mRND f)) : Nat)
      .done [wrapNat w x] (s.modThread k (setPred (mRND f) (decide (x < 0))))) s

/-- Whether a division is one of the two cases of R68 that `.chk` traps. -/
def divSpecial (c : Nat) (a b : Int) : Bool :=
  b = 0 || (signedTy c && a = minInt c && b = -1)

/-- The quotient of R68. -/
def quotient (c : Nat) (a b : Int) : Int :=
  if b = 0 then (if signedTy c then -1 else maxInt c)
  else if divSpecial c a b then minInt c
  else a.tdiv b

/-- The remainder of R68. -/
def remainder (c : Nat) (a b : Int) : Int :=
  if b = 0 then a else if divSpecial c a b then 0 else a.tmod b

/-- A division with its check (R97). -/
def divBody (f : Fields) (op : Nat → Int → Int → Int) : Body := fun _ _ srcs s =>
  let c := mTYPE f
  let a := readInt c (nth 0 0 srcs)
  let b := readInt c (nth 0 1 srcs)
  if mFZ f && divSpecial c a b then .trap (trapBefore cDivCheck)
  else .done [intResult c false (op c a b)] s

/-- IDIV (R97). -/
def execIdiv (f : Fields) (s : State) : Out1 :=
  answer (intForm f 2 arithTypes false true true) (divBody f quotient) s
/-- IREM (R97). -/
def execIrem (f : Fields) (s : State) : Out1 :=
  answer (intForm f 2 arithTypes false true true) (divBody f remainder) s

/-! ### Logic, shifts, bit fields (R98-R104) -/

/-- Sources as numbers of the type's width, the result placed. -/
def rawBody (f : Fields) (op : Nat → List Nat → Nat) : Body := fun _ _ srcs s =>
  let w := typeWidth (mTYPE f)
  .done [placeInt (mTYPE f) (op w (srcs.map (· % 2 ^ w)) % 2 ^ w)] s

def bitForm (f : Fields) : Form := intForm f 2 rawTypes false false true

/-- Complement at a width. -/
def compl (w v : Nat) : Nat := 2 ^ w - 1 - v % 2 ^ w

/-- AND (R98). -/
def execAnd (f : Fields) (s : State) : Out1 :=
  answer (bitForm f) (rawBody f (fun _ l => nth 0 0 l &&& nth 0 1 l)) s
/-- OR (R98). -/
def execOr (f : Fields) (s : State) : Out1 :=
  answer (bitForm f) (rawBody f (fun _ l => nth 0 0 l ||| nth 0 1 l)) s
/-- XOR (R98). -/
def execXor (f : Fields) (s : State) : Out1 :=
  answer (bitForm f) (rawBody f (fun _ l => nth 0 0 l ^^^ nth 0 1 l)) s
/-- ANDN (R98). -/
def execAndn (f : Fields) (s : State) : Out1 :=
  answer (bitForm f) (rawBody f (fun w l => nth 0 0 l &&& compl w (nth 0 1 l))) s
/-- ORN (R98). -/
def execOrn (f : Fields) (s : State) : Out1 :=
  answer (bitForm f) (rawBody f (fun w l => nth 0 0 l ||| compl w (nth 0 1 l))) s

/-- BLUT's width (R99). -/
def blutW (f : Fields) : Nat := if bits f.mod.toNat 9 8 = 0 then 32 else 64

/-- The encoding of BLUT, which has a layout of its own (R99). -/
def blutEnc (f : Fields) : Enc :=
  let r := regsFor (blutW f)
  let (a, b, c) := roles f 3 r r r (srcAcc f)
  { modOk := decide (bits f.mod.toNat 9 8 < 2) && immOk f f.sc
    dst := .dst r dstAcc0, sa := a, sb := b, sc := c }

/-- One bit of a three-input table (R99, R110). -/
def lut3 (table : Nat) (a b c : Bool) : Bool := bit table (one a + 2 * one b + 4 * one c)

/-- A bitwise look-up of `w` bits. -/
def lutBits (table w a b c : Nat) : Nat :=
  (upto w).foldl (fun r i => r + one (lut3 table (bit a i) (bit b i) (bit c i)) * 2 ^ i) 0

/-- BLUT (R99). -/
def execBlut (f : Fields) (s : State) : Out1 :=
  answer (formOf f (blutEnc f) (if mIM f then some (intImm f 3 (blutW f) true) else none))
    (fun _ _ l s => .done [lutBits (bits f.mod.toNat 7 0) (blutW f) (nth 0 0 l) (nth 0 1 l) (nth 0 2 l)] s) s

/-- The encoding of the shifts: a 32-bit count, whose immediate is always sign-extended (R100). -/
def shiftForm (f : Fields) : Form :=
  let r := regsFor (typeWidth (mTYPE f))
  let (a, b, c) := roles f 2 r 1 1 (srcAcc f)
  formOf f
    { modOk := (rawTypes ++ arithTypes).contains (mTYPE f) && mRND f = 0 && !mSAT f && !mFZ f
        && immOk f f.sc
      dst := .dst r dstAcc0, sa := a, sb := b, sc := c }
    (if mIM f then some (intImm f 2 32 true) else none)

/-- Shift left with zero fill; a count of the width or more gives 0 (R69). -/
def shiftLeft (w v n : Nat) : Nat := if w ≤ n then 0 else v * 2 ^ n % 2 ^ w
/-- Shift right with zero fill (R69). -/
def shiftRight (w v n : Nat) : Nat := if w ≤ n then 0 else v % 2 ^ w / 2 ^ n
/-- Shift right with copies of the sign bit (R69). -/
def shiftArith (w v n : Nat) : Nat :=
  wrapNat w (sextInt w v / (2 ^ (if w ≤ n then w else n) : Nat))

/-- Operand at the type's width, 32-bit count, result placed. -/
def shiftBody (f : Fields) (op : Nat → Nat → Nat → Nat) : Body := fun _ _ l s =>
  .done [placeInt (mTYPE f) (op (typeWidth (mTYPE f)) (nth 0 0 l) (nth 0 1 l))] s

/-- SHL (R100). -/
def execShl (f : Fields) (s : State) : Out1 := answer (shiftForm f) (shiftBody f shiftLeft) s
/-- SHR (R100). -/
def execShr (f : Fields) (s : State) : Out1 := answer (shiftForm f) (shiftBody f shiftRight) s
/-- SAR (R100). -/
def execSar (f : Fields) (s : State) : Out1 := answer (shiftForm f) (shiftBody f shiftArith) s

/-- The encoding of DSH: `.b32`, the direction in MOD bit 2 (R101). -/
def dshForm (f : Fields) : Form :=
  let (a, b, c) := roles f 3 1 1 1 (srcAcc f)
  formOf f
    { modOk := mTYPE f = 2 && decide (mRND f < 2) && !mSAT f && !mFZ f && immOk f f.sc
      dst := .dst 1 dstAcc0, sa := a, sb := b, sc := c }
    (immOf f 3 32)

/-- One word of a shifted 64-bit value (R101). -/
def doubleShift (lo : Bool) (a b n : Nat) : Nat :=
  let v := b * 2 ^ 32 + a
  let s := min n 64
  if lo then v / 2 ^ s % 2 ^ 32 else v * 2 ^ s % 2 ^ 64 / 2 ^ 32

/-- DSH (R101). -/
def execDsh (f : Fields) (s : State) : Out1 :=
  answer (dshForm f)
    (fun _ _ l s => .done [doubleShift (mRND f = 1) (nth 0 0 l) (nth 0 1 l) (nth 0 2 l)] s) s

/-- The encoding of BFX and BFI: `n` sources, the last a control word, which is one register of 32 bits for every type
(R102) (in part DEDUCED, log 87). -/
def fieldForm (f : Fields) (n : Nat) (types : List Nat) : Form :=
  let r := regsFor (typeWidth (mTYPE f))
  let (a, b, c) := if n = 2 then roles f 2 r 1 1 (srcAcc f) else roles f 3 r r 1 (srcAcc f)
  formOf f
    { modOk := types.contains (mTYPE f) && mRND f = 0 && !mSAT f && !mFZ f && immOk f f.sc
      dst := .dst r dstAcc0, sa := a, sb := b, sc := c }
    (immOf f n 32)

/-- Extract a bit field (R102). -/
def fieldExtract (c a ctl : Nat) : Nat :=
  let w := typeWidth c
  let pos := bits ctl 7 0
  let len := min (bits ctl 15 8) w
  let v := a % 2 ^ w / 2 ^ pos % 2 ^ len
  if len = 0 then 0 else if signedTy c then wrapNat w (sextInt len v) else v

/-- Insert a bit field into a base (R102). -/
def fieldInsert (w ins base ctl : Nat) : Nat :=
  let pos := bits ctl 7 0
  let len := min (bits ctl 15 8) w
  (upto w).foldl (fun r i =>
    r + one (if decide (pos ≤ i) && decide (i < pos + len) then bit ins (i - pos) else bit base i) * 2 ^ i) 0

/-- BFX (R102). -/
def execBfx (f : Fields) (s : State) : Out1 :=
  answer (fieldForm f 2 [14, 10, 15, 11])
    (fun _ _ l s => .done [fieldExtract (mTYPE f) (nth 0 0 l) (nth 0 1 l)] s) s
/-- BFI (R102). -/
def execBfi (f : Fields) (s : State) : Out1 :=
  answer (fieldForm f 3 [2, 3])
    (fun _ _ l s => .done [fieldInsert (typeWidth (mTYPE f)) (nth 0 0 l) (nth 0 1 l) (nth 0 2 l)] s) s

/-- The encoding of POPC, CLZ and BREV: one source, no immediate; `wide` results have the source's
width (R103). -/
def countForm (f : Fields) (wide : Bool) : Form :=
  let r := regsFor (typeWidth (mTYPE f))
  let e := intEnc f 1 [2, 3] false false false
  formOf f { e with dst := .dst (if wide then r else 1) dstAcc0 }

/-- Leading zero bits of the low `w` bits. -/
def leadingZeros (w v : Nat) : Nat := if v % 2 ^ w = 0 then w else w - 1 - (v % 2 ^ w).log2

/-- The low `w` bits in reverse order. -/
def reverseBits (w v : Nat) : Nat := (upto w).foldl (fun r i => r + one (bit v i) * 2 ^ (w - 1 - i)) 0

/-- POPC (R103). -/
def execPopc (f : Fields) (s : State) : Out1 :=
  answer (countForm f false) (fun _ _ l s => .done [popCount (typeWidth (mTYPE f)) (nth 0 0 l)] s) s
/-- CLZ (R103). -/
def execClz (f : Fields) (s : State) : Out1 :=
  answer (countForm f false) (fun _ _ l s => .done [leadingZeros (typeWidth (mTYPE f)) (nth 0 0 l)] s) s
/-- BREV (R103). -/
def execBrev (f : Fields) (s : State) : Out1 :=
  answer (countForm f true) (fun _ _ l s => .done [reverseBits (typeWidth (mTYPE f)) (nth 0 0 l)] s) s

/-- One result byte of PRMB (R104). -/
def permByte (a b sel i : Nat) : Nat :=
  let n := bits sel (4 * i + 3) (4 * i)
  let y := (b * 2 ^ 32 + a) / 2 ^ (8 * (n % 8)) % 256
  if n / 8 = 1 then (if 128 ≤ y then 255 else 0) else y

/-- PRMB (R104). -/
def execPrmb (f : Fields) (s : State) : Out1 :=
  answer (intForm f 3 [2] false false true)
    (fun _ _ l s => .done [(upto 4).foldl
      (fun r i => r + permByte (nth 0 0 l) (nth 0 1 l) (nth 0 2 l) i * 2 ^ (8 * i)) 0] s) s

/-! ### Compare, select, move, address (R105-R109) -/

/-- The encoding of ICMP (R105): the predicate in DST, the condition in MOD bits 4:2. -/
def icmpForm (f : Fields) : Form :=
  let r := regsFor (typeWidth (mTYPE f))
  let (a, b, c) := roles f 2 r r r { g := true, s := true, q := true, z := true }
  formOf f
    { modOk := (arithTypes.contains (mTYPE f)
          || (rawTypes.contains (mTYPE f) && decide (mRND f < 2)))
        && decide (mRND f < 6) && !mSAT f && !mFZ f && immOk f f.sc
      opOk := decide (f.dst.toNat < 8), dst := .raw, sa := a, sb := b, sc := c }
    (immOf f 2 (typeWidth (mTYPE f))) [] [f.dst.toNat]

/-- An integer comparison by its code (R105). -/
def compareInt (cc : Nat) (a b : Int) : Bool :=
  if cc = 0 then a = b else if cc = 1 then a != b else if cc = 2 then decide (a < b)
  else if cc = 3 then decide (a ≤ b) else if cc = 4 then decide (b < a) else decide (b ≤ a)

/-- ICMP (R105). -/
def execIcmp (f : Fields) (s : State) : Out1 :=
  answer (icmpForm f)
    (fun k _ l s => .done [] (s.modThread k (setPred f.dst.toNat
      (compareInt (mRND f) (readInt (mTYPE f) (nth 0 0 l)) (readInt (mTYPE f) (nth 0 1 l)))))) s

/-- The encoding of SEL (R92, R106): the predicate in MOD bits 4:2, the negation in bit 1. -/
def selForm (f : Fields) : Form :=
  let r := regsFor (typeWidth (mTYPE f))
  let (a, b, c) := roles f 2 r r r { g := true, s := true, q := true, z := true }
  formOf f
    { modOk := [2, 3].contains (mTYPE f) && !mFZ f && immOk f f.sc
      dst := .dst r { g := true, q := true, z := true }, sa := a, sb := b, sc := c }
    (immOf f 2 (typeWidth (mTYPE f))) [mRND f]

/-- SEL (R106). -/
def execSel (f : Fields) (s : State) : Out1 :=
  answer (selForm f)
    (fun _ t l s => .done [if predAt t (mRND f) != mSAT f then nth 0 0 l else nth 0 1 l] s) s

/-- MOV (R107): every bit unchanged. -/
def execMov (f : Fields) (s : State) : Out1 :=
  answer (intForm f 1 [2, 3, 4] false false false) (fun _ _ l s => .done [nth 0 0 l] s) s

/-- The encoding of MOVI (R108). -/
def moviEnc (f : Fields) : Enc :=
  { modOk := [2, 10, 14, 18, 3, 11, 15, 19].contains (mTYPE f) && mIM f && mRND f = 0 && !mSAT f
      && !mFZ f && (if formExt f.form = 0 then decide (mTYPE f < 16)
        else f.sa = 0 && f.sb = 0 && f.sc = 0)
    dst := .dst (if mTYPE f % 4 = 2 then 1 else 2) dstAcc0, sa := .raw, sb := .raw, sc := .raw }

/-- The value of MOVI: the 24-bit field sign-extended, or the extension word (R40, R108). -/
def moviValue (f : Fields) : Nat :=
  let w := if mTYPE f % 4 = 2 then 32 else 64
  if formExt f.form = 0 then
    wrapNat w (sextInt 24 (f.sa.toNat * 2 ^ 16 + f.sb.toNat * 2 ^ 8 + f.sc.toNat))
  else f.ext1.toNat % 2 ^ w

/-- MOVI (R108). -/
def execMovi (f : Fields) (s : State) : Out1 :=
  answer (formOf f (moviEnc f)) (fun _ _ _ s => .done [moviValue f] s) s

/-- A memory operand's displacement (R42). -/
def dispOf (f : Fields) : Int :=
  if formExt f.form = 0 then sextInt 8 f.sc.toNat else sextInt 64 f.ext1.toNat

/-- The address of a memory operand (R42). -/
def addrOf (base index scale : Nat) (disp : Int) : Nat :=
  wrapNat 64 ((base : Int) + sextInt 32 index * (2 ^ scale : Nat) + disp)

/-- The encoding of LEA (R109): zr, as in every class-0 destination, discards the address (in part DEDUCED, log 74). -/
def leaEnc (f : Fields) : Enc :=
  let a : Acc := if regClass f.dst = .s then { s := true, z := true }
    else { g := true, s := true, z := true }
  { modOk := bits f.mod.toNat 10 2 = 0 && (formExt f.form = 0 || f.sc = 0)
    dst := .dst 2 { g := true, s := true, z := true }, sa := .src 2 a, sb := .src 1 a, sc := .raw }

/-- LEA (R109). -/
def execLea (f : Fields) (s : State) : Out1 :=
  answer (formOf f (leaEnc f))
    (fun _ _ l s => .done [addrOf (nth 0 0 l) (nth 0 1 l) (bits f.mod.toNat 1 0) (dispOf f)] s) s

/-! ### Predicates and special values (R110-R112) -/

/-- The encoding of PLOG: four predicates. -/
def plogForm (f : Fields) : Form :=
  formOf f
    { modOk := bits f.mod.toNat 10 8 = 0
      opOk := decide (f.dst.toNat < 8) && decide (f.sa.toNat < 8) && decide (f.sb.toNat < 8)
        && decide (f.sc.toNat < 8)
      dst := .raw, sa := .raw, sb := .raw, sc := .raw }
    none [f.sa.toNat, f.sb.toNat, f.sc.toNat] [f.dst.toNat]

/-- PLOG (R110). -/
def execPlog (f : Fields) (s : State) : Out1 :=
  answer (plogForm f)
    (fun k t _ s => .done [] (s.modThread k (setPred f.dst.toNat
      (lut3 (bits f.mod.toNat 7 0) (predAt t f.sa.toNat) (predAt t f.sb.toNat) (predAt t f.sc.toNat)))))
    s

/-- The predicates as a number, p7 included (R111). -/
def predBits (t : Thread) : Nat := t.preds.toNat + 128

/-- The encoding of PGET (R92). -/
def pgetForm (f : Fields) : Form :=
  formOf f { modOk := f.mod = 0, dst := .dst 1 { g := true, q := true, z := true } } none
    [0, 1, 2, 3, 4, 5, 6]

/-- PGET (R111). -/
def execPget (f : Fields) (s : State) : Out1 :=
  answer (pgetForm f)
    (fun _ t _ s => .done [predBits t] s) s

/-- The predicates that PSET writes. -/
def psetMask (f : Fields) : List Nat := setBits 7 (bits f.mod.toNat 6 0)

/-- The encoding of PSET. -/
def psetForm (f : Fields) : Form :=
  formOf f { modOk := bits f.mod.toNat 10 7 = 0,
             sa := .src 1 { g := true, s := true, q := true, z := true } } none [] (psetMask f)

/-- Write some predicates from the bits of a value. -/
def setPreds (ns : List Nat) (v : Nat) (t : Thread) : Thread :=
  ns.foldl (fun t n => setPred n (bit v n) t) t

/-- PSET (R111). -/
def execPset (f : Fields) (s : State) : Out1 :=
  answer (psetForm f)
    (fun k _ l s => .done [] (s.modThread k (setPreds (psetMask f) (nth 0 0 l)))) s

/-- The special selectors (R112): whether the value is 64 bits wide, and whether it is uniform. -/
def movsKind (sel : Nat) : Option (Bool × Bool) :=
  if sel ≤ 6 then some (false, false)
  else if [0x08, 0x09, 0x0A, 0x0C, 0x0D, 0x10, 0x11, 0x12, 0x14, 0x15, 0x16, 0x18, 0x19, 0x1A, 0x28,
      0x29].contains sel then some (false, true)
  else if sel = 0x20 then some (true, true)
  else if sel = 0x21 || sel = 0x22 then some (true, false)
  else if sel = 0x2A || sel = 0x2B then some (false, false)
  else none

/-- The number of workgroups of a cohort. -/
def cohortSize (s : State) (w : Workgroup) : Nat := ((look w.cohort s.cohorts).map (·.csize)).getD 1

/-- The value of a selector (R112). -/
def movsValue (s : State) (k : Nat) (t : Thread) (w : Workgroup) (sel : Nat) : Nat :=
  let x := max 1 w.wgx
  let y := max 1 w.wgy
  if sel = 0x00 then t.tlin % x
  else if sel = 0x01 then t.tlin / x % y
  else if sel = 0x02 then t.tlin / (x * y)
  else if sel = 0x03 then t.tlin
  else if sel = 0x04 then t.tlin % 32
  else if sel = 0x05 then t.tlin / 32
  else if sel = 0x06 then slotOf k
  else if sel = 0x08 then w.wgx
  else if sel = 0x09 then w.wgy
  else if sel = 0x0A then w.wgz
  else if sel = 0x0C then w.wgic
  else if sel = 0x0D then cohortSize s w
  else if sel = 0x10 then w.chx
  else if sel = 0x11 then w.chy
  else if sel = 0x12 then w.chz
  else if sel = 0x14 then w.lcx
  else if sel = 0x15 then w.lcy
  else if sel = 0x16 then w.lcz
  else if sel = 0x18 then w.stage
  else if sel = 0x19 then w.variant
  else if sel = 0x1A then w.level
  else if sel = 0x20 then w.args.toNat
  else if sel = 0x21 then t.lnk.toNat
  else if sel = 0x22 then t.spord.toNat
  else if sel = 0x28 then s.coreNo t.fn (coreOf k)
  else if sel = 0x29 then s.sectNo t.fn (sectOf (coreOf k))
  else if sel = 0x2A then t.fsize
  else t.loops.length

/-- The selector of MOVS. -/
def movsSel (f : Fields) : Nat := bits f.mod.toNat 7 0

/-- The encoding of MOVS. -/
def movsForm (f : Fields) : Form :=
  let kind := movsKind (movsSel f)
  formOf f
    { modOk := bits f.mod.toNat 10 8 = 0 && kind.isSome
      opOk := regClass f.dst != .s || ((kind.map (·.2)).getD true)
      dst := .dst (if (kind.map (·.1)).getD false then 2 else 1) dstAcc0 }

/-- MOVS (R112). -/
def execMovs (f : Fields) (s : State) : Out1 :=
  answer (movsForm f)
    (fun k t _ s =>
      match look t.wg s.wgs with
      | some w => .done [movsValue s k t w (movsSel f)] s
      | none => .done [0] s) s

end Sys2Proof.Machine
end

