-- ==== Sys2Proof/Machine/Control.lean ====
section
/-! DEFINITION. Class 1: branches, loops, NOP, the operand-cache instructions and FSHRK (R113-R121);
and the two device steps that stand for an instruction that is none (R49) and for a fetch that fails
(R26). -/

namespace Sys2Proof.Machine

/-- A body's answer on a target that a branch cannot take (R43, R114): bits 63:57 first, then for a
register target bits 2:0 (in part DEDUCED, log 31). -/
def targetTrap (register : Bool) (a : Nat) : Option TrapReq :=
  if 2 ^ 57 ≤ a then some (trapBefore cAccessViolation 2)
  else if register && a % 8 != 0 then some (trapBefore cMisaligned)
  else none

/-- Branch to an address, or trap with the PC left at the branch. -/
def branchTo (register : Bool) (a : Nat) (s : State) : LaneOut :=
  match targetTrap register a with
  | some r => .trap r
  | none => .jump (BitVec.ofNat 64 a) s

/-- A PC-relative target: `n` words of 8 bytes from the instruction (R43, R116). -/
def relative (pc : DWord) (n : Int) : Nat := wrapNat 64 ((pc.toNat : Int) + 8 * n)

/-- Bits 42:11 of the first word. -/
def lowFields (f : Fields) : Nat :=
  f.dst.toNat * 2 ^ 24 + f.sa.toNat * 2 ^ 16 + f.sb.toNat * 2 ^ 8 + f.sc.toNat

/-- The encoding of BRA and CALL (R43, R114). -/
def braEnc (f : Fields) : Enc :=
  { modOk := f.mod = 0
    opOk := bits (lowFields f) 12 0 = 0 && (formExt f.form = 0 || bits (lowFields f) 31 13 = 0)
    dst := .raw, sa := .raw, sb := .raw, sc := .raw, tdOk := false }

/-- The words that a BRA or CALL is away from its target. -/
def braDisp (f : Fields) : Int :=
  if formExt f.form = 0 then sextInt 19 (bits (lowFields f) 31 13) else sextInt 64 f.ext1.toNat

/-- LNK takes the address of the next instruction if the branch is taken (R114). -/
def linked (k : Nat) (len : Nat) (o : LaneOut) : LaneOut :=
  match o with
  | .jump pc s => .jump pc (s.modThread k (fun t => { t with lnk := wrapPc (t.pc + BitVec.ofNat 64 len) }))
  | o => o

/-- BRA (R114). -/
def execBra (f : Fields) (s : State) : Out1 :=
  answer (formOf f (braEnc f)) (fun _ t _ s => branchTo false (relative t.pc (braDisp f)) s) s

/-- CALL (R114). -/
def execCall (f : Fields) (s : State) : Out1 :=
  answer (formOf f (braEnc f))
    (fun k t _ s => linked k (8 + 8 * formExt f.form) (branchTo false (relative t.pc (braDisp f)) s)) s

/-- The encoding of BRX and CALLX: the target pair in SA (R114). -/
def brxEnc (f : Fields) : Enc :=
  { modOk := f.mod = 0, sa := .src 2 { g := true, s := true } }

/-- BRX (R114). -/
def execBrx (f : Fields) (s : State) : Out1 :=
  answer (formOf f (brxEnc f)) (fun _ _ l s => branchTo true (nth 0 0 l) s) s

/-- CALLX (R114). -/
def execCallx (f : Fields) (s : State) : Out1 :=
  answer (formOf f (brxEnc f)) (fun k _ l s =>
    linked k (8 + 8 * formExt f.form) (branchTo true (nth 0 0 l) s)) s

/-- RET (R115): SA = 0xF8 takes LNK. -/
def execRet (f : Fields) (s : State) : Out1 :=
  answer (formOf f { brxEnc f with sa := if f.sa = 0xF8#8 then .none else .src 2 { g := true, s := true } })
    (fun _ t l s => branchTo true (if f.sa = 0xF8#8 then t.lnk.toNat else nth 0 0 l) s) s

/-- The encoding of LOOP (R116): D in bits 26:11. -/
def loopEnc (f : Fields) : Enc :=
  { modOk := f.mod = 0
    opOk := formExt f.form = 0 || bits (lowFields f) 15 0 = 0
    sa := .src 1 { g := true, s := true, z := true }, sb := .raw, sc := .raw }

/-- The words that a LOOP's exit or a SUSPEND's continuation is away. -/
def loopDisp (f : Fields) : Int :=
  if formExt f.form = 0 then sextInt 16 (bits (lowFields f) 15 0) else sextInt 64 f.ext1.toNat

/-- The loop depth that the current trap frame saves; 0 outside a handler (R335). -/
def savedDepth (t : Thread) : Nat := if t.tdepth = 0 then 0 else bits (curFrame t).ssw.toNat 11 9

/-- The loop stack, top first, without the entry of a LOOP and everything above it (R116). -/
def loopsBelow (pc : DWord) (l : List LoopEntry) : List LoopEntry :=
  match l.findIdx? (fun e => e.loop = pc) with
  | some i => l.drop (i + 1)
  | none => l

/-- LOOP for one thread (R116, R335). -/
def loopBody (f : Fields) : Body := fun k t l s =>
  let exit := relative t.pc (loopDisp f)
  if 2 ^ 57 ≤ exit then .trap (trapBefore cAccessViolation 2)
  else
    let rest := loopsBelow t.pc t.loops
    if rest.length < t.loops.length && decide (rest.length < savedDepth t) then
      .trap (trapBefore cIllegalInstruction)
    else if nth 0 0 l = 0 then
      .jump (BitVec.ofNat 64 exit) (s.modThread k (fun t => { t with loops := rest }))
    else if rest.length = 4 then .trap (trapBefore cIllegalInstruction)
    else
      .done [] (s.modThread k (fun t => { t with
        loops := ⟨t.pc, wrapPc (t.pc + BitVec.ofNat 64 (8 + 8 * formExt f.form)), BitVec.ofNat 32 (nth 0 0 l)⟩ :: rest }))

/-- LOOP (R116). -/
def execLoop (f : Fields) (s : State) : Out1 := answer (formOf f (loopEnc f)) (loopBody f) s

/-- ENDL for one thread (R116, R335). -/
def endlBody : Body := fun k t _ s =>
  match t.loops with
  | [] => .trap (trapBefore cIllegalInstruction)
  | e :: rest =>
    if t.loops.length ≤ savedDepth t then .trap (trapBefore cIllegalInstruction)
    else if e.count - 1 = 0 then .done [] (s.modThread k (fun t => { t with loops := rest }))
    else .jump e.start (s.modThread k (fun t => { t with loops := { e with count := e.count - 1 } :: rest }))

/-- ENDL (R116). -/
def execEndl (f : Fields) (s : State) : Out1 :=
  answer (formOf f { modOk := f.mod = 0 }) endlBody s

/-- NOP (R118): extension words are not examined. -/
def execNop (f : Fields) (s : State) : Out1 :=
  answer (formOf f { modOk := f.mod = 0 }) (fun _ _ _ s => .done [] s) s

/-! ### Frame and operand cache -/

/-- The encoding of OCFIL and OCDROP: up to three g-registers and no mark; one that names none does nothing (R120)
(in part DEDUCED, log 87). -/
def ocEnc (f : Fields) : Enc :=
  let r (n : BitVec 8) : Role := if n = 0xF8#8 then .none else .src 1 { g := true }
  { modOk := f.mod = 0, opOk := !f.lua && !f.lub && !f.luc
    sa := r f.sa, sb := r f.sb, sc := r f.sc }

/-- The registers that OCFIL or OCDROP names. -/
def ocNamed (f : Fields) : List Nat := ([f.sa, f.sb, f.sc].filter (· != 0xF8#8)).map (·.toNat)

/-- The form of OCFIL and OCDROP: the registers are named, not read. -/
def ocForm (f : Fields) : Form := { formOf f (ocEnc f) with reads := [] }

/-- The fills that OCFIL asks for: registers neither resident nor dead, at most two of a bank (R120). -/
def fillsAsked (t : Thread) (l : List Nat) : List Nat :=
  (distinct (l.filter (fun n => !(isDead t n) && (ocFind n t.oc).isNone && !t.fills.contains n))).foldl
    (fun acc n => if 2 ≤ (acc.filter (fun m => m % 4 = n % 4)).length then acc else acc ++ [n]) []

/-- OCFIL (R120). -/
def execOcfil (f : Fields) (s : State) : Out1 :=
  answer (ocForm f)
    (fun k t _ s => .done [] (s.modThread k (fun u => { u with fills := u.fills ++ fillsAsked t (ocNamed f) }))) s

/-- OCDROP (R120, R17). -/
def execOcdrop (f : Fields) (s : State) : Out1 :=
  answer (ocForm f) (fun k _ _ s => .done [] (s.modThread k (killG (ocNamed f)))) s

/-- OCSYNC (R121). -/
def execOcsync (f : Fields) (s : State) : Out1 :=
  answer (formOf f { modOk := f.mod = 0 }) (fun k t _ s =>
    if !frameRoom s k t (ocSync { t with wrote := [] }).wrote then .stall ⟨15, 13, 0⟩ false
    else .done [] (s.modThread k ocSync)) s

/-- A fill that OCFIL asked for completes (R14) (in part DEDUCED, log 5). -/
def execOperandCacheFill (thread reg : Nat) (s : State) : Out1 :=
  match look thread s.threads with
  | none => .next s
  | some t =>
    if !t.fills.contains reg || !frameRoom s thread t (fillG reg { t with wrote := [] }).wrote then .next s
    else .next (accountFrames thread t (fillChecked thread t [reg / 32] (s.modThread thread (fillG reg))))

/-- FGROW's and FSHRK's count: SC, a multiple of 8 from 8 to 184 (R119). -/
def frameCountOk (n : BitVec 8) : Bool := n.toNat % 8 = 0 && decide (8 ≤ n.toNat) && decide (n.toNat ≤ 184)

/-- The frame without its registers from `new` on (R119). -/
def shrinkFrame (new : Nat) (t : Thread) : Thread :=
  keepLines { t with
           fsize := new, oc := t.oc.filter (fun e => decide (e.reg < new)),
           trans := t.trans.filter (fun e => decide (e.reg < new)),
           fills := t.fills.filter (fun n => decide (n < new)) }

/-- The frame with `n` registers more, all dead (R17, R119). -/
def growFrame (n : Nat) (t : Thread) : Thread :=
  holdLines (linesOf 0 (4 * (t.fsize + n))) { t with
           fsize := t.fsize + n,
           dead := (upto n).foldl (fun d i => d ||| (1#192 <<< (t.fsize + i))) t.dead }

/-- FSHRK (R119). -/
def execFshrk (f : Fields) (s : State) : Out1 :=
  answer (formOf f { modOk := f.mod = 0, opOk := frameCountOk f.sc, sc := .raw })
    (fun k t _ s =>
      if t.fsize < 8 + f.sc.toNat then .trap (trapBefore cIllegalOperand)
      else if t.pendG.any (fun n => decide (t.fsize - f.sc.toNat ≤ n)) then .stall ⟨4, 0, 0⟩ false
      else .done [] (settlePool (coreOf k) (s.modThread k (shrinkFrame (t.fsize - f.sc.toNat))))) s

/-! ### No instruction, no fetch -/

/-- Every thread of the bundle takes a trap at its instruction. -/
def trapAll (r : TrapReq) (s : State) : State :=
  let l := s.issue.filterMap (fun k => (look k s.threads).map (fun t => (⟨k, r, t.pc, t.pc⟩ : Trapping)))
  settle s.issue (wgsOf s s.issue) (wgsCounted s s.issue) s.issue (issuePc s) (ordOf s s.issue) (takeTraps l s)

/-- Every thread of the bundle takes an encoding trap at its instruction of so many bytes (R51). -/
def trapEncoding (len : Nat) (r : TrapReq) (s : State) : State :=
  trapAll r (s.issue.foldl (fun s k => s.modThread k (reportNext len)) s)

/-- A word that is no instruction (R48, R49). -/
def execIllegalInstruction (word : DWord) (s : State) : Out1 :=
  .next (trapEncoding (wordLength word) (trapBefore cIllegalInstruction) s)

/-- A fetch that fails (R26): the trap reports the first byte that cannot be fetched; a recoverable
fault parks the threads (R209), the stage and page being in `kind`. -/
def execFetchFault (first : Nat) (recoverable : Bool) (kind : Nat) (s : State) : Out1 :=
  if recoverable then
    let bundle := s.issue
    let s := bundle.foldl (fun s k => match look k s.threads with
      | some t => parkThread k t.fn (kind / 2 ^ 52) (kind % 2 ^ 52) first 3 s
      | none => s) s
    .next (settle bundle [] [] [] 0 0 s)
  else .next (trapAll (trapBefore cAccessViolation (kind + 8) (BitVec.ofNat 64 first)) s)

end Sys2Proof.Machine
end

