-- ==== Sys2Proof/Machine/Flags.lean ====
section
/-! DEFINITION. FSTAT and the floating-point exceptions (R10, R11, R77). -/

namespace Sys2Proof.Machine

/-- The five exceptions, as FSTAT bits 4:0 hold them (R10). -/
structure Exc where
  nv : Bool := false
  dz : Bool := false
  of : Bool := false
  uf : Bool := false
  nx : Bool := false
  deriving DecidableEq, Repr

/-- No exception. -/
def Exc.none : Exc := {}

/-- The exceptions of two operations together (R77). -/
def Exc.or (a b : Exc) : Exc :=
  ⟨a.nv || b.nv, a.dz || b.dz, a.of || b.of, a.uf || b.uf, a.nx || b.nx⟩

/-- The exceptions as FSTAT bits 4:0 (R10). -/
def Exc.bits (e : Exc) : Nat := one e.nv + 2 * one e.dz + 4 * one e.of + 8 * one e.uf + 16 * one e.nx

/-- FSTAT with exceptions ORed into its sticky flags (R11). -/
def raiseFlags (e : Exc) (fstat : Word) : Word := fstat ||| BitVec.ofNat 32 e.bits

/-- Whether an exception is raised whose enable bit, 8 places above its flag, is set (R10, R125). -/
def trapsFp (e : Exc) (fstat : Word) : Bool :=
  (fstat >>> 8).setWidth 5 &&& BitVec.ofNat 5 e.bits != 0

/-- FSTAT.RM (R10). -/
def fstatRM (fstat : Word) : Nat := (fstat.extractLsb' 5 3).toNat

/-- A write of FSTAT: reserved bits stay 0, and a reserved RM leaves RM as it was (R10)
(in part DEDUCED, log 32). -/
def writeFstat (old new : Word) : Word :=
  let rm := if 5 ≤ fstatRM new then old &&& 0xE0 else new &&& 0xE0
  (new &&& 0x1F1F) ||| rm

/-- The rounding mode of a class-2 instruction: its RND code, or FSTAT.RM for 111 (R11, R39). -/
def modeOf (rnd : Nat) (fstat : Word) : Nat := if rnd = 7 then fstatRM fstat else rnd

end Sys2Proof.Machine
end

