-- ==== Sys2Proof/Machine/Fp.lean ====
section
/-! DEFINITION. Floating-point formats, rounding and the exact operations (R70-R80). An exact finite
non-zero result is held as a sign and a magnitude `man × 2^exp`, or, where it lies strictly between
two such numbers, as the lower one with `sticky` set and enough bits in `man` for every rounding. -/

namespace Sys2Proof.Machine

/-- A format (R70): exponent and fraction bits, and whether it has infinities. -/
structure Fmt where
  ebits : Nat
  mbits : Nat
  inf : Bool
  deriving DecidableEq, Repr

def fmtF16 : Fmt := ⟨5, 10, true⟩
def fmtBf16 : Fmt := ⟨8, 7, true⟩
def fmtF32 : Fmt := ⟨8, 23, true⟩
def fmtF64 : Fmt := ⟨11, 52, true⟩
def fmtE4m3 : Fmt := ⟨4, 3, false⟩
def fmtE5m2 : Fmt := ⟨5, 2, true⟩

/-- Width, bias, least exponent. -/
def Fmt.width (F : Fmt) : Nat := 1 + F.ebits + F.mbits
def Fmt.bias (F : Fmt) : Nat := 2 ^ (F.ebits - 1) - 1
def Fmt.emin (F : Fmt) : Int := 1 - (F.bias : Int)

/-- The encoding of the largest finite value, of infinity, and the canonical NaN (R70, R71). -/
def Fmt.maxBits (F : Fmt) : Nat :=
  if F.inf then (2 ^ F.ebits - 1) * 2 ^ F.mbits - 1 else 2 ^ (F.ebits + F.mbits) - 2
def Fmt.infBits (F : Fmt) : Nat :=
  if F.inf then (2 ^ F.ebits - 1) * 2 ^ F.mbits else 2 ^ (F.ebits + F.mbits) - 1
def Fmt.nanBits (F : Fmt) : Nat :=
  if F.inf then (2 ^ F.ebits - 1) * 2 ^ F.mbits + 2 ^ (F.mbits - 1) else 2 ^ (F.ebits + F.mbits) - 1

/-- An encoding with a sign. -/
def Fmt.signed (F : Fmt) (neg : Bool) (v : Nat) : Nat := v + one neg * 2 ^ (F.width - 1)

/-- What an encoding stands for (R70, R71). -/
inductive FVal where
  | nan (signalling : Bool)
  | inf (neg : Bool)
  | zero (neg : Bool)
  | fin (neg : Bool) (man : Nat) (exp : Int)
  deriving DecidableEq, Repr

/-- Read an encoding (R70, R71). -/
def unpack (F : Fmt) (v : Nat) : FVal :=
  let neg := bit v (F.width - 1)
  let e := bits v (F.width - 2) F.mbits
  let m := v % 2 ^ F.mbits
  if F.inf && e = 2 ^ F.ebits - 1 then
    (if m = 0 then .inf neg else .nan (decide (m < 2 ^ (F.mbits - 1))))
  else if !F.inf && e = 2 ^ F.ebits - 1 && m = 2 ^ F.mbits - 1 then .nan false
  else if e = 0 then (if m = 0 then .zero neg else .fin neg m (F.emin - F.mbits))
  else .fin neg (2 ^ F.mbits + m) ((e : Int) - F.bias - F.mbits)

/-- Whether a value is subnormal in its format. -/
def isSubnormal (F : Fmt) : FVal → Bool
  | .fin _ man exp => exp = F.emin - F.mbits && decide (man < 2 ^ F.mbits)
  | _ => false

/-- `fsrc` of R125: an encoding read, a subnormal as a zero under `.ftz` (R76). -/
def fsrc (F : Fmt) (ftz : Bool) (v : Nat) : FVal :=
  let x := unpack F v
  if ftz && isSubnormal F x then (match x with | .fin neg _ _ => .zero neg | y => y) else x

def FVal.isNan : FVal → Bool
  | .nan _ => true
  | _ => false

/-- NV for a signalling NaN among the operands (R72, R77). -/
def nvOf (l : List FVal) : Exc := { nv := l.any (fun x => x = .nan true) }

/-! ### Rounding (R73-R76) -/

/-- An exact result. -/
inductive Exact where
  | nan
  | inf (neg : Bool)
  | zero (neg : Bool)
  | val (neg : Bool) (man : Nat) (exp : Int) (sticky : Bool)
  deriving DecidableEq, Repr

/-- Round a magnitude to a multiple of 2^q, as the multiple's count, and say whether it is inexact
(R73). Modes: 0 `.rn`, 1 `.rz`, 2 `.ru`, 3 `.rd`, 4 `.rna`. -/
def roundTo (mode : Nat) (neg : Bool) (man : Nat) (exp : Int) (sticky : Bool) (q : Int) : Nat × Bool :=
  if q ≤ exp then
    let n := man * 2 ^ (exp - q).toNat
    (n + one (sticky && ((mode = 2 && !neg) || (mode = 3 && neg))), sticky)
  else
    let sh := (q - exp).toNat
    let n := man / 2 ^ sh
    let r := man % 2 ^ sh
    let half := 2 ^ (sh - 1)
    let inexact := r != 0 || sticky
    let above := decide (half < r) || (r = half && sticky)
    let tie := r = half && !sticky
    let up :=
      if mode = 1 then false
      else if mode = 2 then inexact && !neg
      else if mode = 3 then inexact && neg
      else if mode = 4 then above || tie
      else above || (tie && n % 2 = 1)
    (n + one up, inexact)

/-- The largest finite value as a count of 2^(emax − m), and that exponent. -/
def Fmt.maxMan (F : Fmt) : Nat := if F.inf then 2 ^ (F.mbits + 1) - 1 else 2 ^ (F.mbits + 1) - 2
def Fmt.maxExp (F : Fmt) : Int :=
  (if F.inf then (F.bias : Int) else (F.bias : Int) + 1) - F.mbits

/-- Whether `n × 2^q`, with n below 2^(m+1) + 1, exceeds the largest finite value. -/
def tooBig (F : Fmt) (n : Nat) (q : Int) : Bool :=
  let (n, q) := if n = 2 ^ (F.mbits + 1) then (2 ^ F.mbits, q + 1) else (n, q)
  decide (F.maxExp < q) || (q = F.maxExp && decide (F.maxMan < n))

/-- The result of an overflow (R75). -/
def overflowBits (F : Fmt) (mode : Nat) (sat neg : Bool) : Nat :=
  let toInf := mode = 0 || mode = 4 || (mode = 2 && !neg) || (mode = 3 && neg)
  if sat || !toInf then F.signed neg F.maxBits
  else if F.inf then F.signed neg F.infBits
  else F.nanBits

/-- Round a non-zero exact value to a format (R73, R75, R76). -/
def roundVal (F : Fmt) (mode : Nat) (ftz sat neg : Bool) (man : Nat) (exp : Int) (sticky : Bool) :
    Nat × Exc :=
  let e : Int := (man.log2 : Int) + exp
  let free := roundTo mode neg man exp sticky (e - F.mbits)
  let tiny := decide (e < F.emin) && !(e = F.emin - 1 && free.1 = 2 ^ (F.mbits + 1))
  if tiny && ftz then (F.signed neg 0, { uf := true, nx := true })
  else
    let q : Int := max e F.emin - F.mbits
    let r := roundTo mode neg man exp sticky q
    if tooBig F r.1 q then (overflowBits F mode sat neg, { of := true, nx := true })
    else
      (F.signed neg (((q + F.mbits + F.bias).toNat * 2 ^ F.mbits + r.1) - 2 ^ F.mbits),
        { uf := tiny && r.2, nx := r.2 })

/-- `fres` of R125. -/
def fres (F : Fmt) (mode : Nat) (ftz sat : Bool) : Exact → Nat × Exc
  | .nan => (F.nanBits, .none)
  | .inf neg =>
    (if sat then F.signed neg F.maxBits else if F.inf then F.signed neg F.infBits else F.nanBits, .none)
  | .zero neg => (F.signed neg 0, .none)
  | .val neg man exp sticky => roundVal F mode ftz sat neg man exp sticky

/-! ### Exact operations (R74, R77, R126) -/

/-- A value as an exact result. -/
def FVal.exact : FVal → Exact
  | .nan _ => .nan
  | .inf neg => .inf neg
  | .zero neg => .zero neg
  | .fin neg man exp => .val neg man exp false

/-- Change the sign. -/
def FVal.negate : FVal → FVal
  | .nan s => .nan s
  | .inf neg => .inf (!neg)
  | .zero neg => .zero (!neg)
  | .fin neg man exp => .fin (!neg) man exp

def signedMan (neg : Bool) (man : Nat) : Int := if neg then -(man : Int) else man

/-- The exact sum of two values that are no NaN (R74, R77). -/
def addExact (mode : Nat) : FVal → FVal → Exact × Exc
  | .inf a, .inf b => if a = b then (.inf a, .none) else (.nan, { nv := true })
  | .inf a, _ => (.inf a, .none)
  | _, .inf b => (.inf b, .none)
  | .zero a, .zero b => (.zero (if a = b then a else mode = 3), .none)
  | .zero _, y => (y.exact, .none)
  | x, .zero _ => (x.exact, .none)
  | .fin a m e, .fin b n d =>
    let q := min e d
    let v := signedMan a m * (2 ^ (e - q).toNat : Nat) + signedMan b n * (2 ^ (d - q).toNat : Nat)
    if v = 0 then (.zero (mode = 3), .none) else (.val (v < 0) v.natAbs q false, .none)
  | .nan _, _ => (.nan, .none)
  | _, .nan _ => (.nan, .none)

/-- The sign of a value. -/
def FVal.neg : FVal → Bool
  | .nan _ => false
  | .inf n | .zero n | .fin n _ _ => n

/-- The exact product of two values that are no NaN, as a value of unbounded precision. -/
def mulExact (x y : FVal) : FVal × Exc :=
  let neg := x.neg != y.neg
  match x, y with
  | .inf _, .zero _ => (.nan false, { nv := true })
  | .zero _, .inf _ => (.nan false, { nv := true })
  | .inf _, _ => (.inf neg, .none)
  | _, .inf _ => (.inf neg, .none)
  | .zero _, _ => (.zero neg, .none)
  | _, .zero _ => (.zero neg, .none)
  | .fin _ m e, .fin _ n d => (.fin neg (m * n) (e + d), .none)
  | .nan _, _ => (.nan false, .none)
  | _, .nan _ => (.nan false, .none)

/-- A ratio of magnitudes, to at least `p` bits. -/
def ratio (neg : Bool) (m : Nat) (n : Nat) (e : Int) (p : Nat) : Exact :=
  let k := (n.log2 + 1 + p) - m.log2
  .val neg (m * 2 ^ k / n) (e - k) (m * 2 ^ k % n != 0)

/-- The exact quotient of two values (R126). -/
def divExact (x y : FVal) : Exact × Exc :=
  let neg := x.neg != y.neg
  match x, y with
  | .nan _, _ => (.nan, nvOf [x, y])
  | _, .nan _ => (.nan, nvOf [x, y])
  | .inf _, .inf _ => (.nan, { nv := true })
  | .inf _, _ => (.inf neg, .none)
  | .zero _, .zero _ => (.nan, { nv := true })
  | .zero _, _ => (.zero neg, .none)
  | .fin .., .zero _ => (.inf neg, { dz := true })
  | .fin .., .inf _ => (.zero neg, .none)
  | .fin _ m e, .fin _ n d => (ratio neg m n (e - d) 70, .none)

/-! ### Operations on encodings -/

/-- Finish an operation: round, and join the exceptions. -/
def finish (F : Fmt) (mode : Nat) (ftz sat : Bool) (r : Exact × Exc) : Nat × Exc :=
  let v := fres F mode ftz sat r.1
  (v.1, r.2.or v.2)

/-- Addition (R126). -/
def fpAdd (F : Fmt) (mode : Nat) (ftz : Bool) (a b : Nat) : Nat × Exc :=
  let x := fsrc F ftz a
  let y := fsrc F ftz b
  finish F mode ftz false
    (if x.isNan || y.isNan then (.nan, nvOf [x, y]) else addExact mode x y)

/-- Subtraction (R126). -/
def fpSub (F : Fmt) (mode : Nat) (ftz : Bool) (a b : Nat) : Nat × Exc :=
  let x := fsrc F ftz a
  let y := fsrc F ftz b
  finish F mode ftz false
    (if x.isNan || y.isNan then (.nan, nvOf [x, y]) else addExact mode x y.negate)

/-- Multiplication (R126). -/
def fpMul (F : Fmt) (mode : Nat) (ftz : Bool) (a b : Nat) : Nat × Exc :=
  let x := fsrc F ftz a
  let y := fsrc F ftz b
  finish F mode ftz false
    (if x.isNan || y.isNan then (.nan, nvOf [x, y])
     else ((mulExact x y).1.exact, (mulExact x y).2))

/-- Fused multiply-add, rounded once; NV for 0 × ∞ whatever the addend holds (R79, R126). -/
def fpFma (F : Fmt) (mode : Nat) (ftz : Bool) (a b c : Nat) : Nat × Exc :=
  let x := fsrc F ftz a
  let y := fsrc F ftz b
  let z := fsrc F ftz c
  let p := mulExact x y
  finish F mode ftz false
    (if x.isNan || y.isNan || z.isNan || p.1.isNan then
      (.nan, (nvOf [x, y, z]).or (if x.isNan || y.isNan then .none else p.2))
     else addExact mode p.1 z)

/-- Division (R126). -/
def fpDiv (F : Fmt) (mode : Nat) (ftz : Bool) (a b : Nat) : Nat × Exc :=
  finish F mode ftz false (divExact (fsrc F ftz a) (fsrc F ftz b))

/-! ### Order (R78, R128) -/

/-- Compare two values that are no NaN, −0 equal to +0: −1, 0 or 1. -/
def order (x y : FVal) : Int :=
  let mag : FVal → Nat × Int
    | .fin _ m e => (m, e)
    | _ => (0, 0)
  match x, y with
  | .inf a, .inf b => if a = b then 0 else if a then -1 else 1
  | .inf a, _ => if a then -1 else 1
  | _, .inf b => if b then 1 else -1
  | x, y =>
    let p := mag x
    let r := mag y
    let q := min p.2 r.2
    let a := signedMan x.neg p.1 * (2 ^ (p.2 - q).toNat : Nat)
    let b := signedMan y.neg r.1 * (2 ^ (r.2 - q).toNat : Nat)
    if a < b then -1 else if a = b then 0 else 1

/-- Compare with −0 below +0 (R78). -/
def orderZ (x y : FVal) : Int :=
  match x, y with
  | .zero a, .zero b => if a = b then 0 else if a then -1 else 1
  | x, y => order x y

/-- minimumNumber or maximumNumber (R78, R127). -/
def fpMinMax (F : Fmt) (max ftz : Bool) (a b : Nat) : Nat × Exc :=
  let x := fsrc F ftz a
  let y := fsrc F ftz b
  let exc := nvOf [x, y]
  let pick := if x.isNan then y else if y.isNan then x
    else if max then (if orderZ x y < 0 then y else x) else (if orderZ y x < 0 then y else x)
  ((fres F 0 false false pick.exact).1, exc)

/-- A comparison by its code, and its exceptions (R128). -/
def fpCompare (F : Fmt) (cc : Nat) (ftz : Bool) (a b : Nat) : Bool × Exc :=
  let x := fsrc F ftz a
  let y := fsrc F ftz b
  let un := x.isNan || y.isNan
  let exc : Exc := if un && decide (2 ≤ cc) && decide (cc ≤ 5) then { nv := true } else nvOf [x, y]
  let o := order x y
  let r :=
    if cc = 0 then !un && o = 0
    else if cc = 1 then un || o != 0
    else if cc = 2 then !un && decide (o < 0)
    else if cc = 3 then !un && decide (o ≤ 0)
    else if cc = 4 then !un && decide (0 < o)
    else if cc = 5 then !un && decide (0 ≤ o)
    else if cc = 6 then un
    else !un
  (r, exc)

/-- The class of an encoding, one bit (R129). -/
def fpClass (F : Fmt) (v : Nat) : Nat :=
  match unpack F v with
  | .nan s => if s then 2 ^ 8 else 2 ^ 9
  | .inf neg => if neg then 2 ^ 0 else 2 ^ 7
  | .zero neg => if neg then 2 ^ 3 else 2 ^ 4
  | x =>
    if isSubnormal F x then (if x.neg then 2 ^ 2 else 2 ^ 5) else (if x.neg then 2 ^ 1 else 2 ^ 6)

/-! ### Conversions (R80, R131-R136) -/

/-- Round to an integral value (R131). -/
def fpIntegral (F : Fmt) (mode : Nat) (ftz : Bool) (a : Nat) : Nat × Exc :=
  let x := fsrc F ftz a
  match x with
  | .fin neg man exp =>
    if 0 ≤ exp then ((fres F 0 false false x.exact).1, .none)
    else
      let n := (roundTo mode neg man exp false 0).1
      ((fres F 0 false false (if n = 0 then .zero neg else .val neg n 0 false)).1, .none)
  | x => ((fres F 0 false false x.exact).1, nvOf [x])

/-- An exact value to an integer of `w` bits (R80, R133). -/
def toInteger (mode w : Nat) (signed sat : Bool) (x : Exact) : Nat × Exc :=
  let lo : Int := if signed then -(2 ^ (w - 1) : Nat) else 0
  let hi : Int := if signed then (2 ^ (w - 1) : Nat) - 1 else (2 ^ w : Nat) - 1
  let bad := if signed then lo else hi
  match x with
  | .nan => (wrapNat w (if sat then 0 else bad), { nv := true })
  | .inf neg => (wrapNat w (if sat then (if neg then lo else hi) else bad), { nv := true })
  | .zero _ => (0, .none)
  | .val neg man exp sticky =>
    let r := roundTo mode neg man exp sticky 0
    let v := signedMan neg r.1
    if v < lo || hi < v then (wrapNat w (if sat then max lo (min hi v) else bad), { nv := true })
    else (wrapNat w v, { nx := r.2 })

/-- Float to integer (R80, R133). -/
def fpToInt (F : Fmt) (mode w : Nat) (signed sat ftz : Bool) (a : Nat) : Nat × Exc :=
  toInteger mode w signed sat (fsrc F ftz a).exact

/-- Integer to float (R80, R134). -/
def intToFp (F : Fmt) (mode : Nat) (sat : Bool) (v : Int) : Nat × Exc :=
  fres F mode false sat (if v = 0 then .zero false else .val (v < 0) v.natAbs 0 false)

/-- Whether one format holds every value of another (R135). -/
def holds (d s : Fmt) : Bool := decide (s.ebits ≤ d.ebits) && decide (s.mbits ≤ d.mbits)

/-- Float to float by R80's narrowing row. -/
def fpNarrow (src dst : Fmt) (mode : Nat) (sat ftz : Bool) (a : Nat) : Nat × Exc :=
  let x := fsrc src ftz a
  finish dst mode ftz sat (x.exact, nvOf [x])

/-- Float to float (R80, R135): exact where the target holds every value of the source. -/
def fpToFp (src dst : Fmt) (mode : Nat) (sat ftz : Bool) (a : Nat) : Nat × Exc :=
  fpNarrow src dst mode (sat && !holds dst src) ftz a

/-- An E4M3 immediate in another format (R40): exact, a NaN canonical. -/
def e4m3Imm (F : Fmt) (v : Nat) : Nat := (fpToFp fmtE4m3 F 0 false false v).1

end Sys2Proof.Machine
end

