-- ==== Sys2Proof/Machine/FpFunc.lean ====
section
/-! DEFINITION. The correctly rounded functions (R79, R130). A root is found exactly on integers. For
2^a, log2 a, sin a and cos a, integer arithmetic gives a lower and an upper bound on the result; when
both have the same leading bits, those bits with `sticky` round as the exact result does. Otherwise the
work is done again with twice the precision (DESIGN CHOICE, log 11). -/

namespace Sys2Proof.Machine

/-! ### Roots -/

/-- The integer square root of `n`, whose root has at most `k` bits. -/
def isqrt (n : Nat) : Nat → Nat → Nat
  | 0, r => r
  | k + 1, r => if (r + 2 ^ k) * (r + 2 ^ k) ≤ n then isqrt n k (r + 2 ^ k) else isqrt n k r

def sqrtNat (n : Nat) : Nat := isqrt n (n.log2 / 2 + 1) 0

/-- √(m × 2^e) to at least 70 bits. -/
def sqrtExact (m : Nat) (e : Int) : Exact :=
  let (m, e) := if e % 2 = 0 then (m, e) else (2 * m, e - 1)
  let n := m * 2 ^ 140
  let r := sqrtNat n
  .val false r (e / 2 - 70) (r * r != n)

/-- 1 / √(m × 2^e) to at least 70 bits; of an even power of two it is exact. -/
def rsqrtExact (m : Nat) (e : Int) : Exact :=
  let (m, e) := if e % 2 = 0 then (m, e) else (2 * m, e - 1)
  let k := 72 + m.log2
  let n := 2 ^ (2 * k)
  let r := sqrtNat (n / m)
  .val false r (-(e / 2) - k) (r * r * m != n)

/-! ### Bounds -/

/-- Bounds `lo ≤ x × 2^q ≤ hi` on a positive number, or none that are of use. -/
structure Bounds where
  lo : Nat
  hi : Nat
  deriving DecidableEq, Repr

/-- The leading 64 bits that both bounds share, or none (in part DESIGN CHOICE, log 11). -/
def agree (neg : Bool) (b : Bounds) (q : Nat) : Option Exact :=
  if b.lo < 2 ^ 64 then none
  else
    let g := b.lo.log2 - 63
    if b.lo / 2 ^ g = b.hi / 2 ^ g then some (.val neg (b.lo / 2 ^ g) ((g : Int) - q) true) else none

/-- Σ 1 / ((2i + 1) n^(2i+1)), scaled by 2^q and rounded down term by term; `sign` alternates. -/
def arcSeries (n : Nat) (alternate : Bool) : Nat → Nat → Nat → Int → Int
  | 0, _, _, acc => acc
  | fuel + 1, i, t, acc =>
    let term : Int := (t / (2 * i + 1) : Nat)
    arcSeries n alternate fuel (i + 1) (t / (n * n))
      (if alternate && i % 2 = 1 then acc - term else acc + term)

/-- atan(1/n) × 2^q, within 2q either way. -/
def atanInv (n q : Nat) : Int := arcSeries n true q 0 (2 ^ q / n) 0

/-- Bounds on π/2 × 2^q, by Machin's formula with 32 bits to spare. -/
def halfPi (q : Nat) : Bounds :=
  let p := q + 32
  let v := (8 * atanInv 5 p - 2 * atanInv 239 p).toNat
  ⟨(v - 40 * p) / 2 ^ 32, (v + 40 * p) / 2 ^ 32 + 1⟩

/-- Bounds on ln 2 × 2^q: 2 atanh(1/3). -/
def ln2 (q : Nat) : Bounds :=
  let p := q + 32
  let v := (2 * arcSeries 3 false p 0 (2 ^ p / 3) 0).toNat
  ⟨v / 2 ^ 32, (v + 10 * p) / 2 ^ 32 + 1⟩

/-- Σ over the terms of a power series that starts with `term`: each is the one before times
`x / 2^q` and divided by the next `step` numbers from `i`. `sign` alternates
(in part DESIGN CHOICE, log 11). -/
def powerSeries (q : Nat) (x : Nat) (step : Nat) (alternate : Bool) : Nat → Nat → Bool → Nat → Int → Int
  | 0, _, _, _, acc => acc
  | fuel + 1, i, minus, term, acc =>
    let acc := if minus then acc - term else acc + term
    let d := if step = 1 then i else i * (i + 1)
    powerSeries q x step alternate fuel (i + step) (alternate && !minus) (term * x / 2 ^ q / d) acc

/-- Bounds on e^(y) × 2^q for y between two bounds in [0, 1) (in part DESIGN CHOICE, log 11). -/
def expBounds (q : Nat) (y : Bounds) : Bounds :=
  let v := (powerSeries q y.lo 1 false q 1 false (2 ^ q) 0).toNat
  ⟨v, v + 4 * (y.hi - y.lo) + 4 * q⟩

/-- Bounds on sin r × 2^q for r between two bounds in [0, 2). -/
def sinBounds (q : Nat) (r : Bounds) : Bounds :=
  let v := powerSeries q (r.lo * r.lo / 2 ^ q) 2 true q 2 false r.lo 0
  ⟨(v - 16 * q).toNat, (v + 16 * q + (r.hi - r.lo : Nat)).toNat⟩

/-- Bounds on cos r × 2^q for r between two bounds in [0, 2). -/
def cosBounds (q : Nat) (r : Bounds) : Bounds :=
  let v := powerSeries q (r.lo * r.lo / 2 ^ q) 2 true q 1 false (2 ^ q) 0
  ⟨(v - 16 * q - (r.hi - r.lo : Nat)).toNat, (v + 16 * q).toNat⟩

/-! ### The functions on a finite non-zero operand -/

/-- Try with more and more precision; +0 stands if no try succeeds (in part DESIGN CHOICE, log 11). -/
def widen (try1 : Nat → Option Exact) : Nat → Nat → Exact
  | 0, _ => .zero false
  | fuel + 1, q =>
    match try1 q with
    | some x => x
    | none => widen try1 fuel (2 * q)

/-- m × 2^e scaled by 2^q, whole when q is large enough. -/
def scaled (m : Nat) (e : Int) (q : Nat) : Nat :=
  if 0 ≤ e + q then m * 2 ^ (e + q).toNat else m / 2 ^ (-(e + q)).toNat

/-- 2^a (R130). An integral power is exact. -/
def exp2Exact (neg : Bool) (m : Nat) (e : Int) : Exact :=
  if 0 ≤ e || m % 2 ^ (-e).toNat = 0 then
    let n : Int := if 0 ≤ e then (m : Int) * (2 ^ (min e 16).toNat : Nat) else (m / 2 ^ (-e).toNat : Nat)
    .val false 1 (if neg then -(min n 4096) else min n 4096) false
  else if 4096 ≤ m / 2 ^ (-e).toNat then .val false (2 ^ 63) (if neg then -4200 else 4000) true
  else
    widen (fun q =>
      let x := signedMan neg (scaled m e q)
      let n := x / (2 ^ q : Nat)
      let f := (x % (2 ^ q : Nat)).toNat
      let l := ln2 q
      let b := expBounds q ⟨f * l.lo / 2 ^ q, f * l.hi / 2 ^ q + 1⟩
      match agree false ⟨max b.lo (2 ^ q), min b.hi (2 ^ (q + 1) - 1)⟩ q with
      | some (.val s man exp sticky) => some (.val s man (exp + n) sticky)
      | r => r) 6 256

/-- Bits of log2 y for y between bounds in [1, 2), by squaring; none when a bit stays open. -/
def logBits (q : Nat) : Nat → Bounds → Nat → Option Nat
  | 0, _, acc => some acc
  | n + 1, y, acc =>
    let lo := y.lo * y.lo / 2 ^ q
    let hi := y.hi * y.hi / 2 ^ q + 1
    if 2 ^ (q + 1) ≤ lo then logBits q n ⟨lo / 2, hi / 2 + 1⟩ (2 * acc + 1)
    else if hi ≤ 2 ^ (q + 1) then logBits q n ⟨lo, hi⟩ (2 * acc)
    else none

/-- log2 a of a positive number (R130). A power of two is exact. -/
def log2Exact (m : Nat) (e : Int) : Exact :=
  let k : Int := (m.log2 : Int) + e
  if m = 2 ^ m.log2 then
    (if k = 0 then .zero false else .val (k < 0) k.natAbs 0 false)
  else
    widen (fun q =>
      let y := m * 2 ^ (q - m.log2)
      match logBits q 96 ⟨y, y⟩ 0 with
      | none => none
      | some b =>
        if 0 ≤ k then some (.val false (k.toNat * 2 ^ 96 + b) (-96) true)
        else some (.val true ((-k).toNat * 2 ^ 96 - b - 1) (-96) true)) 6 320

/-- sin a or cos a (R130), by the quarter turn that a lies in (in part DESIGN CHOICE, log 11). -/
def sinCosExact (cos neg : Bool) (m : Nat) (e : Int) : Exact :=
  widen (fun q0 =>
    let q := q0 + (max 0 (e + 24)).toNat
    let x := scaled m e q
    let p := halfPi q
    let n := x / p.hi
    if x / p.lo != n then none
    else
      let r : Bounds := ⟨x - n * p.hi, x - n * p.lo⟩
      let quarter := (n + one cos) % 4
      let useCos := quarter % 2 = 1
      let b := if useCos then cosBounds q r else sinBounds q r
      let b : Bounds := ⟨b.lo, min b.hi (2 ^ q - 1)⟩
      let b : Bounds := if n = 0 && !useCos then ⟨b.lo, min b.hi (x - 1)⟩ else b
      agree ((decide (2 ≤ quarter)) != (neg && !cos)) b q) 6 384

/-! ### On encodings (R130) -/

/-- The answers to −∞, −0, +0 and +∞. -/
structure Specials where
  ninf : Exact × Exc
  nzero : Exact × Exc
  pzero : Exact × Exc
  pinf : Exact × Exc

def invalid : Exact × Exc := (.nan, { nv := true })
def unit1 : Exact × Exc := (.val false 1 0 false, .none)

def specRcp : Specials :=
  ⟨(.zero true, .none), (.inf true, { dz := true }), (.inf false, { dz := true }), (.zero false, .none)⟩
def specRsq : Specials := ⟨invalid, (.inf true, { dz := true }), (.inf false, { dz := true }), (.zero false, .none)⟩
def specSqrt : Specials := ⟨invalid, (.zero true, .none), (.zero false, .none), (.inf false, .none)⟩
def specEx2 : Specials := ⟨(.zero false, .none), unit1, unit1, (.inf false, .none)⟩
def specLg2 : Specials := ⟨invalid, (.inf true, { dz := true }), (.inf true, { dz := true }), (.inf false, .none)⟩
def specSin : Specials := ⟨invalid, (.zero true, .none), (.zero false, .none), invalid⟩
def specCos : Specials := ⟨invalid, unit1, unit1, invalid⟩

/-- Apply a function to an encoding; `positive` functions are invalid below zero, and `always` is what every finite
operand that is not zero raises. -/
def fpFunc (sp : Specials) (positive : Bool) (always : Exc) (g : Bool → Nat → Int → Exact) (F : Fmt) (mode : Nat)
    (ftz : Bool) (a : Nat) : Nat × Exc :=
  let x := fsrc F ftz a
  finish F mode ftz false
    (match x with
      | .nan _ => (.nan, nvOf [x])
      | .inf neg => if neg then sp.ninf else sp.pinf
      | .zero neg => if neg then sp.nzero else sp.pzero
      | .fin neg m e => if positive && neg then invalid else (g neg m e, always))

def fpRcp := fpFunc specRcp false .none (fun neg m e => ratio neg 1 m (-e) 70)
/-- R130's list of exact results has no FRSQ: each of its finite results raises NX, also that of an even power of two,
whose value needs no rounding. -/
def fpRsq := fpFunc specRsq true { nx := true } (fun _ m e => rsqrtExact m e)
def fpSqrt := fpFunc specSqrt true .none (fun _ m e => sqrtExact m e)
def fpEx2 := fpFunc specEx2 false .none exp2Exact
def fpLg2 := fpFunc specLg2 true .none (fun _ m e => log2Exact m e)
def fpSin := fpFunc specSin false .none (sinCosExact false)
def fpCos := fpFunc specCos false .none (sinCosExact true)

end Sys2Proof.Machine
end

