-- ==== Sys2Proof/Machine/Float.lean ====
section
/-! DEFINITION. Class 2: floating point, conversions and bit-plane words (R124-R138). -/

namespace Sys2Proof.Machine

/-- The format of a float type code (R39). -/
def fmtOf (c : Nat) : Fmt :=
  if c = 16 then fmtF16 else if c = 17 then fmtBf16 else if c = 18 then fmtF32
  else if c = 19 then fmtF64 else if c = 20 then fmtE4m3 else fmtE5m2

/-- Registers that a float type takes. -/
def fmtRegs (F : Fmt) : Nat := if F = fmtF64 then 2 else 1

/-- Sources and destinations of class 2 (R35). -/
def acc2 : Acc := { g := true, s := true, q := true, z := true }
def dst2 : Acc := { g := true, q := true, z := true }

/-- RND codes that an instruction that rounds, or one that does not, accepts (R124). -/
def rndOk (rounds : Bool) (rnd : Nat) : Bool :=
  if rounds then decide (rnd ≤ 4) || rnd = 7 else rnd = 7

/-- An instruction raises exceptions and completes: flags, results, then FP_ENABLED (R11, R125). -/
def fpDone (k : Nat) (t : Thread) (e : Exc) (vs : List Nat) (s : State) : LaneOut :=
  let s := s.modThread k (fun t => { t with fstat := raiseFlags e t.fstat })
  if trapsFp e t.fstat then .after (trapAfter cFpEnabled) vs s else .done vs s

/-- The common encoding of class 2 (R38, R124). -/
def fpEnc (f : Fields) (n : Nat) (types : List Nat) (rounds ftz imm : Bool) : Enc :=
  let r := fmtRegs (fmtOf (mTYPE f))
  let (a, b, c) := roles f n r r r acc2
  { modOk := types.contains (mTYPE f) && rndOk rounds (mRND f) && !mSAT f && (ftz || !mFZ f)
      && (imm || !mIM f) && immOk f (immField f n)
    dst := .dst r dst2, sa := a, sb := b, sc := c }

/-- A floating-point immediate (R40, R126). -/
def fpImm (f : Fields) (F : Fmt) (packed : Bool) : Nat :=
  if formExt f.form = 0 then
    let v := e4m3Imm F f.sc.toNat
    if packed then v + 65536 * v else v
  else if packed then f.ext1.toNat % 2 ^ 32
  else f.ext1.toNat % 2 ^ F.width

def fpForm (f : Fields) (n : Nat) (types : List Nat) (rounds ftz imm packed : Bool) : Form :=
  formOf f (fpEnc f n types rounds ftz imm)
    (if mIM f then some (fpImm f (fmtOf (mTYPE f)) packed) else none)

/-! ### Arithmetic (R126, R127) -/

/-- An operation on one element: format, mode, `.ftz`, operands. -/
abbrev FpOp := Fmt → Nat → Bool → List Nat → Nat × Exc

/-- One element of the type. -/
def fpBody (f : Fields) (op : FpOp) : Body := fun k t l s =>
  let F := fmtOf (mTYPE f)
  let r := op F (modeOf (mRND f) t.fstat) (mFZ f) (l.map (· % 2 ^ F.width))
  fpDone k t r.2 [r.1] s

/-- Two 16-bit elements (R66, R126). -/
def packedBody (f : Fields) (op : FpOp) : Body := fun k t l s =>
  let F := fmtOf (mTYPE f)
  let m := modeOf (mRND f) t.fstat
  let lo := op F m (mFZ f) (l.map (· % 65536))
  let hi := op F m (mFZ f) (l.map (fun v => v / 65536 % 65536))
  fpDone k t (lo.2.or hi.2) [lo.1 + 65536 * hi.1] s

def opAdd : FpOp := fun F m z l => fpAdd F m z (nth 0 0 l) (nth 0 1 l)
def opSub : FpOp := fun F m z l => fpSub F m z (nth 0 0 l) (nth 0 1 l)
def opMul : FpOp := fun F m z l => fpMul F m z (nth 0 0 l) (nth 0 1 l)
def opDiv : FpOp := fun F m z l => fpDiv F m z (nth 0 0 l) (nth 0 1 l)
def opFma : FpOp := fun F m z l => fpFma F m z (nth 0 0 l) (nth 0 1 l) (nth 0 2 l)
def opMin : FpOp := fun F _ z l => fpMinMax F false z (nth 0 0 l) (nth 0 1 l)
def opMax : FpOp := fun F _ z l => fpMinMax F true z (nth 0 0 l) (nth 0 1 l)

/-- FADD (R126). -/
def execFadd (f : Fields) (s : State) : Out1 :=
  answer (fpForm f 2 [18] true true true false) (fpBody f opAdd) s
/-- FSUB (R126). -/
def execFsub (f : Fields) (s : State) : Out1 :=
  answer (fpForm f 2 [18] true true true false) (fpBody f opSub) s
/-- FMUL (R126). -/
def execFmul (f : Fields) (s : State) : Out1 :=
  answer (fpForm f 2 [18] true true true false) (fpBody f opMul) s
/-- FFMA (R126). -/
def execFfma (f : Fields) (s : State) : Out1 :=
  answer (fpForm f 3 [18] true true true false) (fpBody f opFma) s
/-- FDIV (R126). -/
def execFdiv (f : Fields) (s : State) : Out1 :=
  answer (fpForm f 2 [18, 19] true true true false) (fpBody f opDiv) s
/-- DADD (R126). -/
def execDadd (f : Fields) (s : State) : Out1 :=
  answer (fpForm f 2 [19] true true true false) (fpBody f opAdd) s
/-- DMUL (R126). -/
def execDmul (f : Fields) (s : State) : Out1 :=
  answer (fpForm f 2 [19] true true true false) (fpBody f opMul) s
/-- DFMA (R126). -/
def execDfma (f : Fields) (s : State) : Out1 :=
  answer (fpForm f 3 [19] true true true false) (fpBody f opFma) s
/-- PKADD (R126). -/
def execPkadd (f : Fields) (s : State) : Out1 :=
  answer (fpForm f 2 [16, 17] true true true true) (packedBody f opAdd) s
/-- PKMUL (R126). -/
def execPkmul (f : Fields) (s : State) : Out1 :=
  answer (fpForm f 2 [16, 17] true true true true) (packedBody f opMul) s
/-- PKFMA (R126). -/
def execPkfma (f : Fields) (s : State) : Out1 :=
  answer (fpForm f 3 [16, 17] true true true true) (packedBody f opFma) s
/-- FMIN (R127). -/
def execFmin (f : Fields) (s : State) : Out1 :=
  answer (fpForm f 2 [18, 19] false true true false) (fpBody f opMin) s
/-- FMAX (R127). -/
def execFmax (f : Fields) (s : State) : Out1 :=
  answer (fpForm f 2 [18, 19] false true true false) (fpBody f opMax) s

/-! ### Compare and classify (R128, R129) -/

/-- The encoding of FCMP and DCMP: the predicate in DST, the condition in MOD bits 4:2 (R128). -/
def fcmpForm (f : Fields) (ty : Nat) : Form :=
  let r := fmtRegs (fmtOf ty)
  let (a, b, c) := roles f 2 r r r acc2
  formOf f
    { modOk := mTYPE f = ty && !mSAT f && immOk f f.sc
      opOk := decide (f.dst.toNat < 8), dst := .raw, sa := a, sb := b, sc := c }
    (if mIM f then some (fpImm f (fmtOf ty) false) else none) [] [f.dst.toNat]

def fcmpBody (f : Fields) : Body := fun k t l s =>
  let F := fmtOf (mTYPE f)
  let r := fpCompare F (mRND f) (mFZ f) (nth 0 0 l % 2 ^ F.width) (nth 0 1 l % 2 ^ F.width)
  fpDone k t r.2 [] (s.modThread k (setPred f.dst.toNat r.1))

/-- FCMP (R128). -/
def execFcmp (f : Fields) (s : State) : Out1 := answer (fcmpForm f 18) (fcmpBody f) s
/-- DCMP (R128). -/
def execDcmp (f : Fields) (s : State) : Out1 := answer (fcmpForm f 19) (fcmpBody f) s

/-- FCLS (R129): a 32-bit destination. -/
def execFcls (f : Fields) (s : State) : Out1 :=
  answer
    (formOf f { fpEnc f 1 [18, 19, 16, 17, 20, 21] false false false with dst := .dst 1 dst2 })
    (fun _ _ l s => .done [fpClass (fmtOf (mTYPE f)) (nth 0 0 l)] s) s

/-! ### Functions of one operand (R130, R131) -/

def fnForm (f : Fields) (types : List Nat) : Form := fpForm f 1 types true true false false
def fnBody (f : Fields) (g : Fmt → Nat → Bool → Nat → Nat × Exc) : Body :=
  fpBody f (fun F m z l => g F m z (nth 0 0 l))

/-- FRCP (R130). -/
def execFrcp (f : Fields) (s : State) : Out1 := answer (fnForm f [18, 19]) (fnBody f fpRcp) s
/-- FRSQ (R130). -/
def execFrsq (f : Fields) (s : State) : Out1 := answer (fnForm f [18, 19]) (fnBody f fpRsq) s
/-- FSQRT (R130). -/
def execFsqrt (f : Fields) (s : State) : Out1 := answer (fnForm f [18, 19]) (fnBody f fpSqrt) s
/-- FEX2 (R130). -/
def execFex2 (f : Fields) (s : State) : Out1 := answer (fnForm f [18]) (fnBody f fpEx2) s
/-- FLG2 (R130). -/
def execFlg2 (f : Fields) (s : State) : Out1 := answer (fnForm f [18]) (fnBody f fpLg2) s
/-- FSIN (R130). -/
def execFsin (f : Fields) (s : State) : Out1 := answer (fnForm f [18]) (fnBody f fpSin) s
/-- FCOS (R130). -/
def execFcos (f : Fields) (s : State) : Out1 := answer (fnForm f [18]) (fnBody f fpCos) s
/-- FRND (R131). -/
def execFrnd (f : Fields) (s : State) : Out1 := answer (fnForm f [18, 19]) (fnBody f fpIntegral) s

/-! ### Conversions (R132-R136) -/

/-- The codes of R132 as type codes of R39. -/
def codeI (c : Nat) : Nat := 8 + c
def codeF (c : Nat) : Nat := if c = 0 then 16 else if c = 1 then 17 else if c = 2 then 18 else if c = 3 then 19
  else if c = 4 then 20 else 21

def mDTY (f : Fields) : Nat := bits f.mod.toNat 10 8
def mSTY (f : Fields) : Nat := bits f.mod.toNat 7 5

/-- The form of a conversion: reserved float codes, rounding code, register counts (R132). -/
def convForm (f : Fields) (dstFloat srcFloat ftz : Bool) : Form :=
  let regs (float : Bool) (c : Nat) : Nat := if float then (if c = 3 then 2 else 1) else (if c % 4 = 3 then 2 else 1)
  formOf f
    { modOk := (!dstFloat || decide (mDTY f < 6)) && (!srcFloat || decide (mSTY f < 6))
        && rndOk true (mRND f) && (ftz || !mFZ f)
      dst := .dst (regs dstFloat (mDTY f)) dst2
      sa := .src (regs srcFloat (mSTY f)) acc2 }

/-- F2I (R133). -/
def execF2i (f : Fields) (s : State) : Out1 :=
  answer (convForm f false true true)
    (fun k t l s =>
      let F := fmtOf (codeF (mSTY f))
      let c := codeI (mDTY f)
      let r := fpToInt F (modeOf (mRND f) t.fstat) (typeWidth c) (signedTy c) (mSAT f) (mFZ f)
        (nth 0 0 l % 2 ^ F.width)
      fpDone k t r.2 [placeInt c r.1] s) s

/-- I2F (R134). -/
def execI2f (f : Fields) (s : State) : Out1 :=
  answer (convForm f true false false)
    (fun k t l s =>
      let r := intToFp (fmtOf (codeF (mDTY f))) (modeOf (mRND f) t.fstat) (mSAT f)
        (readInt (codeI (mSTY f)) (nth 0 0 l))
      fpDone k t r.2 [r.1] s) s

/-- F2F (R135). -/
def execF2f (f : Fields) (s : State) : Out1 :=
  answer (convForm f true true true)
    (fun k t l s =>
      let F := fmtOf (codeF (mSTY f))
      let r := fpToFp F (fmtOf (codeF (mDTY f))) (modeOf (mRND f) t.fstat) (mSAT f) (mFZ f)
        (nth 0 0 l % 2 ^ F.width)
      fpDone k t r.2 [r.1] s) s

/-- SCLQ on encodings: an exact quotient rounded once (R136). -/
def scaleQuantise (ty mode : Nat) (sat ftz : Bool) (a b : Nat) : Nat × Exc :=
  let q := divExact (fsrc fmtF32 ftz a) (fsrc fmtF32 ftz b)
  if ty < 16 then
    let r := toInteger mode (typeWidth ty) true sat q.1
    (placeInt ty r.1, q.2.or r.2)
  else finish (fmtOf ty) mode ftz sat q

/-- The encoding of SCLQ. -/
def sclqForm (f : Fields) : Form :=
  let (a, b, c) := roles f 2 1 1 1 acc2
  formOf f
    { modOk := [8, 9, 20, 21].contains (mTYPE f) && rndOk true (mRND f) && immOk f f.sc
      dst := .dst 1 dst2, sa := a, sb := b, sc := c }
    (if mIM f then some (e4m3Imm fmtF32 f.sc.toNat) else none)

/-- SCLQ (R136). -/
def execSclq (f : Fields) (s : State) : Out1 :=
  answer (sclqForm f)
    (fun k t l s =>
      let r := scaleQuantise (mTYPE f) (modeOf (mRND f) t.fstat) (mSAT f) (mFZ f)
        (nth 0 0 l % 2 ^ 32) (nth 0 1 l % 2 ^ 32)
      fpDone k t r.2 [r.1] s) s

/-! ### Bit-plane words (R137, R138) -/

/-- A group of `n` registers, the first a multiple of 8. -/
def planeSrc (n : Nat) : Role := .srcAt n 8 { g := true }

/-- The other operand of BPACK and BPEXT. -/
def planeRoles (f : Fields) (n : Nat) : Role × Role × Role :=
  (planeSrc n, if mIM f then .none else .src 1 acc2, if mIM f then .raw else .none)

/-- One bit of each of 32 bytes (R137). -/
def planePack (bytes p : Nat) : Nat :=
  (upto 32).foldl (fun r j => r + one (bit bytes (8 * j + p % 8)) * 2 ^ j) 0

/-- The encoding of BPACK. -/
def bpackForm (f : Fields) : Form :=
  let (a, b, c) := planeRoles f 8
  formOf f
    { modOk := mTYPE f = 2 && mRND f = 7 && !mSAT f && !mFZ f && immOk f f.sc
      dst := .dst 1 dst2, sa := a, sb := b, sc := c }
    (if mIM f then some (intImm f 2 32 true) else none)

/-- BPACK (R137). -/
def execBpack (f : Fields) (s : State) : Out1 :=
  answer (bpackForm f)
    (fun _ _ l s => .done [planePack (nth 0 0 l) (nth 0 1 l)] s) s

/-- The value of the leading `n` planes of an 8-bit element (R82). -/
def planeValue (n : Nat) (mid : Bool) (v : Nat) : Int :=
  let t := sextInt n (v / 2 ^ (8 - n)) * (2 ^ (8 - n) : Nat)
  if mid && decide (n < 8) then t + (2 ^ (7 - n) : Nat) else t

/-- One element from plane words, the leading plane first (R138). -/
def planeExtract (n : Nat) (mid : Bool) (words e : Nat) : Int :=
  planeValue n mid ((upto n).foldl (fun v i => v + one (bit words (32 * i + e % 32)) * 2 ^ (7 - i)) 0)

/-- The encoding of BPEXT: RND holds the number of planes less one. -/
def bpextForm (f : Fields) : Form :=
  let (a, b, c) := planeRoles f (mRND f + 1)
  formOf f
    { modOk := mTYPE f = 10 && mRND f != 0 && !mFZ f && immOk f f.sc
      dst := .dst 1 dst2, sa := a, sb := b, sc := c }
    (if mIM f then some (intImm f 2 32 true) else none)

/-- BPEXT (R138). -/
def execBpext (f : Fields) (s : State) : Out1 :=
  answer (bpextForm f)
    (fun _ _ l s => .done [wrapNat 32 (planeExtract (mRND f + 1) (mSAT f) (nth 0 0 l) (nth 0 1 l))] s) s

end Sys2Proof.Machine
end

