-- ==== Sys2Proof/Machine/MemOps.lean ====
section
/-! DEFINITION. Memory operations in flight: how they are made when an instruction issues, and the device
steps that perform and end them: home-slice accesses (R203), undo-log entries (R345), claim releases
(R198), returning load data (R123, R216) and store acknowledgements (R225). -/

namespace Sys2Proof.Machine

/-! ### What an operation computes (R228-R230) -/

/-- Width of an atomic's type code (R227), and its kind: 0 raw, 1 signed, 2 unsigned, 3 float. -/
def atomWidth (ty : Nat) : Nat := if ty % 2 = 0 then 32 else 64
def atomInt (ty : Nat) : Nat := (if ty / 2 = 1 then 10 else 14) + ty % 2
def atomFmt (ty : Nat) : Fmt := if ty % 2 = 0 then fmtF32 else fmtF64

/-- The value that an operation writes over `old`; none when it writes nothing (R228, R230). -/
def opResult (o : MemOp) (old : Nat) : Option Nat :=
  let b := o.data.toNat
  let float := o.ty / 2 = 3
  let c := atomInt o.ty
  let x := readInt c old
  let y := readInt c b
  let int (v : Int) : Option Nat := some (wrapNat (atomWidth o.ty) v)
  match o.kind with
  | .load | .fill => none
  | .store => some (b + 2 ^ 64 * o.data2.toNat)
  | .exch => some b
  | .add => if float then some (fpAdd (atomFmt o.ty) 0 false old b).1 else int (x + y)
  | .min => if float then some (fpMinMax (atomFmt o.ty) false false old b).1 else int (min x y)
  | .max => if float then some (fpMinMax (atomFmt o.ty) true false old b).1 else int (max x y)
  | .and => some (old &&& b)
  | .or => some (old ||| b)
  | .xor => some (old ^^^ b)
  | .adds => int (satInt c (x + y))
  | .cas => if old = b then some o.data2.toNat else none

/-! ### The list of operations -/

def findOp (s : State) (id : Nat) : Option MemOp := s.ops.find? (fun o => o.id = id)
def modOp (id : Nat) (f : MemOp → MemOp) (s : State) : State :=
  { s with ops := s.ops.map (fun o => if o.id = id then f o else o) }
def dropOp (id : Nat) (s : State) : State := { s with ops := s.ops.filter (fun o => o.id != id) }

/-- Put an operation in flight under a fresh name. -/
def pushOp (o : MemOp) (s : State) : State :=
  let (id, s) := s.fresh
  { s with ops := s.ops ++ [{ o with id := id }] }

/-- An operation of a thread, its other parts to be filled in. -/
def blankOp (k : Nat) (t : Thread) : MemOp :=
  { id := 0, fn := t.fn, thread := k, others := [], wg := t.wg, core := coreOf k, kind := .load, stage := .sent,
    aperture := false, addr := 0, va := 0, cid := 0, size := 0, ty := 0, data := 0, data2 := 0,
    dst := 0xF8, regs := 0, transient := false, cls := 0, tag := false, acquire := none,
    bypass := false, hint := 0, value := [], seqTag := 0 }

/-- Whether two operations touch a common byte of scratchpad. -/
def padOverlap (o : MemOp) (wg off n : Nat) : Bool :=
  o.aperture && o.wg = wg && decide (o.addr < off + n) && decide (off < o.addr + o.size)

/-- The class of an event at an ordering point (R368). -/
def OpKind.event : OpKind → Nat
  | .load | .fill => 0
  | .store => 1
  | _ => 2

/-! ### Performing at the pool (R197, R219) -/

/-- Perform an operation on scratchpad: the state, and the bytes it found. The undo log keeps the line that it writes
(R345). -/
def performPad (o : MemOp) (s : State) : State × List Byte :=
  match look o.wg s.wgs with
  | none => (s, [])
  | some w =>
    let old := padRead w o.addr o.size
    let s := orderPoint o.fn 2 (s.coreNo o.fn o.core) (padObject o.wg o.addr) (laneAgent o.thread)
      o.kind.event none s
    match opResult o (ofBytes old) with
    | none => (s.modWg o.wg (padWarm o.addr o.size), old)
    | some v => ((logPad o.fn o.wg o.addr s).modWg o.wg (padWrite o.addr (toBytes o.size v)), old)

/-- A held operation is performed in the pool once no claim covers it and no older held operation of
its workgroup overlaps it (R198), in its turn where a replay serves it (R370). -/
def claimFree (s : State) (o : MemOp) : Bool :=
  !claimedPad s o.wg o.addr o.size
    && orderReady s o.fn 2 (s.coreNo o.fn o.core) (padObject o.wg o.addr) (laneAgent o.thread) o.kind.event
    && !s.ops.any (fun p => p.stage = .claimed && decide (p.id < o.id) && padOverlap p o.wg o.addr o.size)

/-- CLAIM_RELEASE (R198). -/
def execClaimRelease (id : Nat) (s : State) : Out1 :=
  match findOp s id with
  | none => .next s
  | some o =>
    if o.stage = .claimed && claimFree s o && !padFull s o.fn o.wg o.addr then
      let (s, old) := performPad o s
      .next (modOp id (fun o => { o with stage := .performed, value := old }) s)
    else .next s

/-! ### Performing at the home slice (R203, R212, R219) -/

/-- The core's agent number at a home slice (R368). -/
def homeAgent (s : State) (o : MemOp) : Nat := s.coreNo o.fn o.core

/-- Whether Bluord carries a core's requests to a home slice: it delivers them in the order of their sending (R409). -/
def crosses (core d : Nat) : Bool := sliceOf d / 64 != dieOf core

/-- A core sends its accesses to one line to the home slice in order (R212), and to one slice of the other die in order
(R409): one is served when none of those named before a bound waits, or is still under way. -/
def inTurn (s : State) (core pa bound : Nat) : Bool :=
  !s.ops.any (fun p => p.core = core && !p.aperture && decide (p.id < bound)
      && ((lineOf p.addr = lineOf pa && p.waiting)
        || (crosses core pa && sliceOf p.addr = sliceOf pa && p.stage = .sent)))
def homeReady (s : State) (o : MemOp) : Bool :=
  inTurn s o.core o.addr o.id
    && orderReady s o.fn 1 (sliceOf o.addr) (BitVec.ofNat 64 (lineOf o.addr)) (homeAgent s o) o.kind.event

/-- A line as a fill for a core brings it: the home slice's bytes merged with the core's stores that have not been
performed there (R212). -/
def mergedLine (s : State) (core line : Nat) : List Byte :=
  mergeStores (coreStores s core line) (homeLine s line)

/-- Fill a line into the L1; one that is resident is filled again (R199, R201). -/
def refill (o : MemOp) (s : State) : State :=
  let line := lineOf o.addr
  match l1Find line o.cid (s.core o.core).l1 with
  | none => l1Fill o.core line o.cid o.hint (mergedLine s o.core line) s
  | some _ => l1Refill o.core line o.cid o.hint (mergedLine s o.core line) s

/-- The bytes that a load which fills its line returns: those of the fill, but for the thread's own stores that
follow it (R27, R212). -/
def fillValue (s : State) (o : MemOp) : List Byte :=
  bytesAt (o.addr % 128) o.size
    (mergeStores ((coreStores s o.core (lineOf o.addr)).filter (fun p => p.thread != o.thread || decide (p.id < o.id)))
      (homeLine s (lineOf o.addr)))

/-- Whether a store of a thread reaches the signature area of a region slot while commands of that step sequencer that
it does not come before are queued or at work (R289). -/
def signatureRace (s : State) (o : MemOp) : Bool :=
  o.kind = .store && s.sections.any (fun p => match p.2.holder.bind (fun c => look c s.cohorts) with
    | some h => h.fn = o.fn && h.sq.any (fun c => !c.after.any (fun a => a.1 = o.thread && decide (o.id < a.2)))
        && p.2.slots.any (fun x => x.any (fun r => decide (valAt 0x20 8 r.desc < o.va.toNat + o.size)
          && decide (o.va.toNat < valAt 0x20 8 r.desc + 64 * (valAt 0x10 4 r.desc * valAt 0x14 4 r.desc))))
    | none => false)

/-- What such a store leaves: each bit the old one or its own, which of them is open (R289) (DESIGN CHOICE, log 81). -/
def mixedBits (s : State) (old new : Nat) : Nat :=
  let m := (Config.signatureMix s.freeCtr).toNat
  (new &&& m) ||| (old - (old &&& m))

/-- The home slice reads for an operation that writes nothing; a fill takes the line into the L1. -/
def homeLoad (o : MemOp) (s : State) : State :=
  let fills := !o.bypass && recMode s o.fn = 0
  let value := if fills then fillValue s o else memRead s.mem o.addr o.size
  let s := orderPoint o.fn 1 (sliceOf o.addr) (BitVec.ofNat 64 (lineOf o.addr)) (homeAgent s o) 0 none s
  let s := sliceTouch o.fn o.cid o.addr o.hint false s
  let s := modOp o.id (fun o => { o with stage := .performed, value := value }) s
  if fills then refill o s else s

/-- An atomic that the home slice has performed updates a resident line of the L1 as a store does; the core's stores to
the line that follow it stay over it (R212, R233). -/
def l1Atomic (o : MemOp) (v : Nat) (s : State) : State :=
  (coreStores s o.core (lineOf o.addr)).foldl (fun s p => l1Store o.core o.cid p.addr p.bytes s)
    (l1Store o.core o.cid o.addr (toBytes o.size v) s)

/-- The bytes of an operation reach device memory. -/
def homeStore (o : MemOp) (old v : Nat) (s : State) : State :=
  let race := signatureRace s o
  let w := if race then mixedBits s old v else v
  let s := if race then { s with freeCtr := s.freeCtr + 1 } else s
  let s := homeWrite o.fn o.cid o.addr 0 (toBytes o.size w) s
  if o.kind = .store then s else l1Atomic o v s

/-- The home slice performs a store, atomic or reduction: it gives a tag (R203), and the value is written if there
is one; an atomic without one leaves the L1's line as it was (in part DEDUCED, log 35). -/
def homeUpdate (o : MemOp) (s : State) : State :=
  let old := memRead s.mem o.addr o.size
  let (tag, s) := takeTag o.fn o.addr s
  let s := orderPoint o.fn 1 (sliceOf o.addr) (BitVec.ofNat 64 (lineOf o.addr)) (homeAgent s o) o.kind.event
    (some tag.toNat) s
  let s := if o.kind = .store then s else sliceTouch o.fn o.cid o.addr 0 false s
  let s := modOp o.id (fun o => { o with stage := .performed, value := old, seqTag := tag }) s
  match opResult o (ofBytes old) with
  | none => s
  | some v => homeStore o (ofBytes old) v s

/-- Perform an operation at its home slice. A line under another owner's tag fails its integrity check
(R205, R402). -/
def performHome (o : MemOp) (s : State) : State :=
  if foreign s o.cid o.addr then integrityHalt o.fn (s.coreNo o.fn o.core) (o.addr, o.cid) s
  else if o.kind.writes then homeUpdate o s
  else homeLoad o s

/-- Whether the operation's write needs an undo entry first (R345). -/
def opNeedsUndo (s : State) (o : MemOp) : Bool :=
  (opResult o (ofBytes (memRead s.mem o.addr o.size))).isSome && needsUndo s o.fn o.addr

/-- HOME_SLICE_ACCESS (R203): the oldest of the core's accesses to the line is performed, or held for
an undo entry. -/
def execHomeSliceAccess (id : Nat) (s : State) : Out1 :=
  match findOp s id with
  | none => .next s
  | some o =>
    if o.stage != .sent || o.aperture || !homeReady s o then .next s
    else if opNeedsUndo s o then .next (modOp id (fun o => { o with stage := .logging }) s)
    else .next (performHome o s)

/-- UNDO_ENTRY_ACCEPTED (R345): the entries that the log has taken are written to the undo area, and the operation
is performed; a write of an entry that fails, or that the area does not allow, is UNDO_FAIL. -/
def execUndoEntryAccepted (id : Nat) (accepted : Bool) (s : State) : Out1 :=
  match findOp s id with
  | none => .next s
  | some o =>
    if o.stage != .logging then .next s
    else if accepted && logSound s o.fn then .next (performHome o (postUndo o.fn (logUndo o.fn o.cid o.addr s)))
    else .next (raiseHalt o.fn fUndoFail (s.coreNo o.fn o.core) [] s)

/-! ### Ending an operation -/

/-- A load's value as its registers take it (R122). -/
def loadValue (code : Nat) (bytes : List Byte) : Nat :=
  let v := ofBytes bytes
  if code = 5 then wrapNat 32 (sextInt 8 v) else if code = 6 then wrapNat 32 (sextInt 16 v) else v

/-- What an operation brings back (R122, R231). -/
def MemOp.result (o : MemOp) : Nat :=
  let m := ofBytes o.value
  if o.kind = .load then loadValue o.ty o.value
  else if o.cls = 2 then o.seqTag.toNat
  else if o.tag then m + o.seqTag.toNat * 2 ^ (8 * o.size)
  else m

/-- The registers of a destination, as numbers of R35. -/
def dstRegs (dst regs : Nat) : List Nat := if dst < 0xE0 then (upto regs).map (dst + ·) else []

/-- Returned values reach g-registers whose place in program order was taken at issue (R19). -/
def landG (dst : Nat) (vs : List Word) (td : Bool) (t : Thread) : Thread :=
  let new := ((upto vs.length).map (dst + ·)).zip vs
  let t := { t with pendG := t.pendG.filter (fun n => !(new.map (·.1)).contains n) }
  if td then
    { t with trans := t.trans.map (fun e =>
        match new.find? (fun p => p.1 = e.reg) with
        | some p => { e with val := p.2 }
        | none => e) }
  else new.foldl (fun t p => storeG [] p.1 p.2 t) t

/-- Deliver an operation's result to its destination. -/
def land (o : MemOp) (s : State) : State :=
  let vs := wordsFrom o.result o.regs
  match regClass (BitVec.ofNat 8 o.dst) with
  | .g => s.modThread o.thread (landG o.dst vs o.transient)
  | .s => s.modWg o.wg (fun w => { writeS (o.dst - 0xC0) vs w with
      pendS := w.pendS.filter (fun n => !((upto o.regs).map (o.dst - 0xC0 + ·)).contains n) })
  | _ => s

/-- The lines of its frame that a thread writes when an operation's value lands. -/
def landWrites (o : MemOp) (t : Thread) : List Nat :=
  if regClass (BitVec.ofNat 8 o.dst) = .g then
    (landG o.dst (wordsFrom o.result o.regs) o.transient { t with wrote := [] }).wrote
  else []

/-- Whether the undo log has room for them (R347). -/
def landRoom (s : State) (o : MemOp) : Bool :=
  ((look o.thread s.threads).map (fun t => frameRoom s o.thread t (landWrites o t))).getD true

/-- A result lands, and the frame lines that it writes are accounted for (R345, R196). -/
def landed (o : MemOp) (s : State) : State :=
  match look o.thread s.threads with
  | none => land o s
  | some t => accountFrames o.thread t (land o s)

/-- The s-registers that a discarded load would have written wait no longer. -/
def unpend (o : MemOp) (s : State) : State :=
  s.modWg o.wg (fun w => { w with
    pendS := w.pendS.filter (fun n => !(dstRegs o.dst o.regs).contains (0xC0 + n)) })

/-- A value that returns after a halt leaves its destination as it was; the halt counts it for its core (R338, R340). -/
def dropValue (o : MemOp) (s : State) : State :=
  (unpend o s).modCtx o.fn (fun c => { c with halt := c.halt.map (fun h => { h with dropped := h.dropped ++ [o.core] }) })

/-- A load's data has returned to every thread that issued it: ld falls (R250), and with it the acquire's hold. -/
def loadOver (o : MemOp) (s : State) : State :=
  (o.thread :: o.others).foldl (fun s k => s.modThread k (fun t => { t with
    ld := t.ld - 1, acquiring := if o.acquire.isSome then t.acquiring - 1 else t.acquiring })) s

/-- LOAD_DATA_RETURN (R123, R216): the value lands, ld falls, an acquire invalidates the L1. A value that returns after
the exit of the threads that issued it, or after a halt, is discarded (R117, R338). -/
def execLoadDataReturn (id : Nat) (s : State) : Out1 :=
  match findOp s id with
  | none => .next s
  | some o =>
    if o.stage != .performed || o.cls = 2 || !landRoom s o then .next s
    else
      let s := dropOp id s
      if o.cls = 0 then .next s
      else if (look o.thread s.threads).isNone then .next (unpend o s)
      else if (s.ctx o.fn).halt.isSome then .next (dropValue o s)
      else
        let s := landed o s
        let s := match o.acquire with
          | some (_ + 1) => l1Acquire o.core s
          | _ => s
        .next (loadOver o s)

/-- The name that an exited thread keeps in what it leaves behind; `n` tells those apart that had one
place. -/
def deadName (k n : Nat) : Nat := k % 2 ^ 40 + 3 * 2 ^ 40 * (n + 1)

/-- Whether a name is an exited thread's. -/
def isDeadName (k : Nat) : Bool := decide (2 ^ 40 ≤ k)

/-- Whether stores of exited threads of a launch's function are still in flight (R117, R400)
(in part DEDUCED, log 51). -/
def leftStores (s : State) (fn : Nat) : Bool :=
  s.ops.any (fun o => o.fn = fn && o.kind.writes && isDeadName o.thread)

/-- Write a launch's completion word (R400) (in part DEDUCED, log 51, DEDUCED, log 65). -/
def completeLaunch (l : Launch) (status : Nat) (s : State) : State :=
  if l.completion = 0 then s
  else
    match engineWrite l.fn (4 * (sectionsOf (s.vf l.fn).sect).headD 0) 2 l.completion.toNat (toBytes 8 status) s with
    | .inr s => s
    | .inl x => orIntegrity l.fn 0xFFFF x.failed s

/-- A launch ends when every thread of every stage has exited (R149) and their stores are performed, for
its completion word is a release (R400) (in part DEDUCED, log 51). -/
def launchOver (s : State) (l : Launch) : Bool :=
  l.admitted && l.left.isEmpty && l.running = 0 && !leftStores s l.fn

/-- End the launches of a function that are over. -/
def endLaunches (fn : Nat) (s : State) : State :=
  (s.launches.filter (fun p => p.2.fn = fn && launchOver s p.2)).foldl
    (fun s p => completeLaunch p.2 0 { s with launches := drop p.1 s.launches }) s

/-- STORE_ACKNOWLEDGE (R225, R232): st falls; the tag register of a RED is written. -/
def execStoreAcknowledge (id : Nat) (s : State) : Out1 :=
  match findOp s id with
  | none => .next s
  | some o =>
    if o.stage != .performed || o.cls != 2 || (o.tag && !landRoom s o) then .next s
    else
      let s := dropOp id s
      let s := if o.tag then landed o s else s
      .next (endLaunches o.fn (s.modThread o.thread (fun t => { t with st := t.st - 1 })))

end Sys2Proof.Machine
end

