-- ==== Sys2Proof/Machine/MemInstr.lean ====
section
/-! DEFINITION. Class 3, memory: LD, ST, ATOM, ACAS, RED, FENCE, PREF, LDEM, RCLEAN, RINV
(R122, R123, R221-R237, R241). -/

namespace Sys2Proof.Machine

/-! ### Modifiers (R222, R223, R227) -/

def mORD (f : Fields) : Nat := bits f.mod.toNat 10 9
def mSCOPE (f : Fields) : Nat := bits f.mod.toNat 8 7
def mHINT (f : Fields) : Nat := bits f.mod.toNat 6 5
def mSIZE (f : Fields) : Nat := bits f.mod.toNat 4 2
def mSCALE (f : Fields) : Nat := bits f.mod.toNat 1 0

/-- Bytes of a size code (R122). -/
def sizeOf' (c : Nat) : Nat := if c = 5 then 1 else if c = 6 then 2 else 2 ^ c
/-- Registers of an access of so many bytes. -/
def regsOf (n : Nat) : Nat := regsFor (8 * n)

/-- A displacement's own field holds 0 when an extension word carries it (R42, R49). -/
def dispOk (f : Fields) : Bool := formExt f.form = 0 || f.sc = 0

/-- Base and index of a memory operand (R42). -/
def baseAcc (scalar : Bool) : Acc := if scalar then { s := true, z := true } else { g := true, s := true, z := true }

/-! ### Waits before an access -/

/-- The stall of an access while the thread's acquire has not returned (R216) or its counter is full
(R250). `cls` is 1 for ld, 2 for st, 0 for none. -/
def accessHold (t : Thread) (cls : Nat) : Option Stall :=
  if t.acquiring != 0 then some ⟨4, 0, 0⟩
  else if cls = 1 && decide (63 ≤ t.ld) then some ⟨4, 0, 0⟩
  else if cls = 2 && decide (63 ≤ t.st) then some ⟨5, 0, 0⟩
  else none

/-- The operations that were in flight when a wait in a state of R350 began: names below the bound that its own
stall keeps. A stall for a bank of the pool keeps the bank instead (R184). -/
def waitBound (s : State) (t : Thread) (state : Nat) : Nat :=
  match t.stall with
  | some st => if st.arg = 0 || st.reason = 3 || st.state != state then s.nextId else st.arg
  | none => s.nextId

/-- What a release at a scope waits for (R215, R232, R417): the thread's loads; its own stores that are
not performed in the core; at `.sec` or wider every store of the core that was in flight when the last of those loads
had returned, for a store that a load has read was in flight before; at `.sys` the thread's network commands. `state` is
the wait state of R350. -/
def releaseWait (s : State) (k : Nat) (t : Thread) (scope state : Nat) : Option Stall :=
  let bound := waitBound s t state
  if t.ld != 0 then some ⟨4, state, 0⟩
  else if s.ops.any (fun o => o.cls = 2 && decide (o.id < bound)
      && ((o.thread = k && (o.aperture || o.kind != .store))
        || (decide (1 ≤ scope) && o.core = coreOf k))) then some ⟨5, state, bound⟩
  else if scope = 3 && (s.wgs.any (fun w => w.2.ne.any (fun c => c.pusher = k))
      || s.net.any (fun n => n.2.thread = k)) then some ⟨15, state, bound⟩
  else none

/-! ### LD (R122, R123, R222-R224) -/

/-- The encoding of LD: its destination is a g-register or an s-register (in part DEDUCED, log 74). -/
def ldEnc (f : Fields) : Enc :=
  let n := sizeOf' (mSIZE f)
  { modOk := decide (mORD f ≤ 1) && (mORD f != 0 || mSCOPE f = 0) && decide (mSIZE f ≤ 6) && dispOk f
    dst := .dst (regsOf n) { g := true, s := true }
    sa := .src 2 (baseAcc (regClass f.dst = .s)), sb := .src 1 (baseAcc (regClass f.dst = .s)), sc := .raw }

/-- The thread has a value on its way to some destination registers: they are read only once it lands. -/
def expect (k : Nat) (t : Thread) (dst regs : Nat) (td : Bool) (s : State) : State :=
  match regClass (BitVec.ofNat 8 dst) with
  | .g => s.modThread k (fun t =>
      let t := ageTrans (dstRegs dst regs) t
      { t with
        pendG := t.pendG ++ dstRegs dst regs
        trans := if td then (dstRegs dst regs).map (fun n => ⟨n, 0, 0⟩) ++ t.trans else t.trans })
  | .s => s.modWg t.wg (fun w => { w with pendS := w.pendS ++ (upto regs).map (dst - 0xC0 + ·) })
  | _ => s

/-- Put an operation of a thread in flight: its counter rises and its destination waits (R250). -/
def send (o : MemOp) (t : Thread) (s : State) : State :=
  let s := pushOp o s
  let s := if o.regs = 0 then s else expect o.thread t o.dst o.regs o.transient s
  s.modThread o.thread (fun t => { t with
    ld := if o.cls = 1 then t.ld + 1 else t.ld
    st := if o.cls = 2 then t.st + 1 else t.st
    acquiring := if o.acquire.isSome then t.acquiring + 1 else t.acquiring })

/-- Whether the thread has a load or atomic of some of the bytes on its way, for which a load of them that the L1 could
serve waits (R27, R212, R233) (in part DEDUCED, log 35). -/
def lineBusy (s : State) (k pa n : Nat) : Bool :=
  s.ops.any (fun o => o.issuedBy k && !o.aperture && o.kind != .store && o.kind != .fill
    && decide (o.addr < pa + n) && decide (pa < o.addr + o.size) && o.waiting)

/-- The bytes of scratchpad that a load takes: the pool's, and the thread's own held stores (R27). -/
def padLoad (s : State) (k : Nat) (w : Workgroup) (wg off n : Nat) : List Byte :=
  (s.ops.filter (fun o => o.thread = k && o.stage = .claimed && o.kind = .store && padOverlap o wg off n)).foldl
    (fun bytes o => (upto n).map (fun i =>
      if o.addr ≤ off + i && off + i < o.addr + o.size then nth 0 (off + i - o.addr) o.bytes
      else nth 0 i bytes)) (padRead w off n)

/-- Where a load of device memory is served: by the line of the core's L1, or at the home slice. -/
def l1Hit (s : State) (fn core cid pa : Nat) (home : Bool) : Option L1Line :=
  if home || recMode s fn != 0 then none else l1Find (lineOf pa) cid (s.core core).l1

/-- LD for one thread (in part DEDUCED, log 35). -/
def ldBody (f : Fields) : Body := fun k t l s =>
  let n := sizeOf' (mSIZE f)
  let va := addrOf (nth 0 0 l) (nth 0 1 l) (mSCALE f) (dispOf f)
  let acq := if mORD f = 1 then some (mSCOPE f) else none
  let home := mORD f = 1 && mSCOPE f != 0
  let base : MemOp := { blankOp k t with
    kind := .load, va := BitVec.ofNat 64 va, size := n, ty := mSIZE f, dst := f.dst.toNat
    regs := regsOf n, transient := f.td, cls := 1, acquire := acq, bypass := home
    hint := if home && mHINT f = 3 then 0 else mHINT f }
  match accessHold t 1 with
  | some st => .stall st false
  | none =>
    match checkAccess s t.fn (coreOf k) t.wg .read va n with
    | .trap r => .trap r
    | .park stage page va => .park stage page va 0
    | .pad off =>
      match look t.wg s.wgs with
      | none => .trap (violation 4 va)
      | some w =>
        if s.ops.any (fun o => o.thread = k && o.stage = .claimed && o.kind != .store && padOverlap o t.wg off n)
          then .stall ⟨4, 0, 0⟩ false
        else if !padReady s k t off 0 then .stall ⟨15, 0, 0⟩ false
        else if banksBusy s k (padGranule w off).toList then .stall (bankStall s k (padGranule w off).toList) false
        else
          let s := useBanks k (padGranule w off).toList s
          let o := { base with aperture := true, addr := off, stage := .performed, value := padLoad s k w t.wg off n }
          .done [] (send o t (performPad o s).1)
    | .dev pa cid =>
      let s := tlbTake t.fn (coreOf k) va s
      match l1Hit s t.fn (coreOf k) cid pa home with
      | some line =>
        if lineBusy s k pa n then .stall ⟨4, 0, 0⟩ false
        else if banksBusy s k [line.way] then .stall (bankStall s k [line.way]) false
        else
        let s := useBanks k [line.way] s
        let o := { base with addr := pa, cid := cid, stage := .performed, value := bytesAt (pa % 128) n line.bytes }
        .done [] (send o t (l1Hinted (coreOf k) pa cid (mHINT f) s))
      | none => .done [] (send { base with addr := pa, cid := cid } t s)

/-- LD (R122, R123). -/
def execLd (f : Fields) (s : State) : Out1 := answer (formOf f (ldEnc f)) (ldBody f) s

/-! ### ST (R122, R123, R222, R225) -/

/-- The encoding of ST: the data in DST. -/
def stEnc (f : Fields) : Enc :=
  let n := sizeOf' (mSIZE f)
  { modOk := (mORD f = 0 || mORD f = 2) && (mORD f != 0 || mSCOPE f = 0) && mHINT f = 0
      && decide (mSIZE f ≤ 4) && dispOk f
    dst := .src (regsOf n) { g := true, q := decide (n ≤ 4), z := true }
    sa := .src 2 (baseAcc false), sb := .src 1 (baseAcc false), sc := .raw }

/-- Perform a write of the thread that passed its checks: in the pool, held by a claim (R198), or on its
way to the home slice and, for a store, performed in the core's L1 (R199). -/
def issuePad (o : MemOp) (t : Thread) (s : State) : LaneOut :=
  let held := claimedPad s o.wg o.addr o.size
    || s.ops.any (fun p => p.stage = .claimed && padOverlap p o.wg o.addr o.size)
  let bank := ((look o.wg s.wgs).bind (fun w => padGranule w o.addr)).toList
  if !padReady s o.thread t o.addr o.kind.event then .stall ⟨15, 0, 0⟩ false
  else if padFull s o.fn o.wg o.addr then .stall ⟨15, 13, 0⟩ true
  else if banksBusy s o.thread bank then .stall (bankStall s o.thread bank) false
  else
  let s := useBanks o.thread bank s
  if held then .done [] (send { o with aperture := true, stage := .claimed } t s)
  else if o.kind = .store then .done [] (performPad { o with aperture := true } s).1
  else
    let (s, old) := performPad { o with aperture := true } s
    .done [] (send { o with aperture := true, stage := .performed, value := old } t s)

def issueDev (o : MemOp) (t : Thread) (s : State) : LaneOut :=
  let bank := if o.kind = .store then
      ((l1Find (lineOf o.addr) o.cid (s.core o.core).l1).map (·.way)).toList else []
  if undoFull s o.fn o.addr then .stall ⟨15, 13, 0⟩ true
  else if banksBusy s o.thread bank then .stall (bankStall s o.thread bank) false
  else
    let s := tlbTake o.fn o.core o.va.toNat (useBanks o.thread bank s)
    let s := if o.kind = .store then l1Store o.core o.cid o.addr o.bytes s else s
    .done [] (send o t s)

/-- A write of the thread: checks, then the wait of a release (R215), then the access. -/
def issueWrite (o : MemOp) (t : Thread) (need : Need) (release : Option Nat) (s : State) : LaneOut :=
  match accessHold t o.cls with
  | some st => .stall st false
  | none =>
    match checkAccess s o.fn o.core o.wg need o.va.toNat o.size with
    | .trap r => .trap r
    | .park stage page va => .park stage page va (needCode need)
    | a =>
      match release.bind (fun scope => releaseWait s o.thread t scope 0) with
      | some st => .stall st false
      | none =>
        match a with
        | .pad off => issuePad { o with addr := off } t s
        | .dev pa cid => issueDev { o with addr := pa, cid := cid } t s
        | .trap r => .trap r
        | .park stage page va => .park stage page va (needCode need)

/-- ST for one thread. -/
def stBody (f : Fields) : Body := fun k t l s =>
  let n := sizeOf' (mSIZE f)
  let va := addrOf (nth 0 0 l) (nth 0 1 l) (mSCALE f) (dispOf f)
  let v := nth 0 2 l % 2 ^ (8 * n)
  issueWrite { blankOp k t with
      kind := .store, va := BitVec.ofNat 64 va, size := n, data := BitVec.ofNat 64 v
      data2 := BitVec.ofNat 64 (v / 2 ^ 64), cls := 2 }
    t .write (if mORD f = 2 then some (mSCOPE f) else none) s

/-- ST (R122, R123). -/
def execSt (f : Fields) (s : State) : Out1 := answer (formOf f (stEnc f)) (stBody f) s

/-! ### ATOM, ACAS, RED (R226-R233) -/

def mTAG (f : Fields) : Bool := f.mod.getLsbD 6
def mOP (f : Fields) : Nat := bits f.mod.toNat 5 3
def mTY (f : Fields) : Nat := bits f.mod.toNat 2 0

/-- The pairs of operation and type of R228. -/
def atomTypeOk (op ty : Nat) : Bool :=
  if op = 0 then true
  else if op ≤ 3 then ty / 2 != 0
  else if op ≤ 6 then ty / 2 = 0
  else ty / 2 = 1 || ty / 2 = 2

/-- The operation of an OP code (R228). -/
def atomKind (op : Nat) : OpKind :=
  if op = 0 then .exch else if op = 1 then .add else if op = 2 then .min else if op = 3 then .max
  else if op = 4 then .and else if op = 5 then .or else if op = 6 then .xor else .adds

/-- Registers of an atomic's operand, and of ATOM's and ACAS's result (R226, R231). -/
def atomRegs (f : Fields) : Nat := atomWidth (mTY f) / 32
def atomDst (f : Fields) : Role :=
  if mTAG f then .dst (2 * atomRegs f) { g := true } else .dst (atomRegs f) { g := true, z := true }

def atomSrc (f : Fields) : Role := .src (atomRegs f) { g := true, z := true }

/-- The encoding of ATOM. -/
def atomEnc (f : Fields) : Enc :=
  { modOk := atomTypeOk (mOP f) (mTY f) && (mORD f != 0 || mSCOPE f = 0) && dispOk f
    dst := atomDst f, sa := .src 2 (baseAcc false), sb := atomSrc f, sc := .raw, tdOk := false }

/-- The encoding of ACAS. -/
def acasEnc (f : Fields) : Enc :=
  { modOk := decide (mTY f ≤ 1) && mOP f = 0 && (mORD f != 0 || mSCOPE f = 0)
    dst := atomDst f, sa := .src 2 (baseAcc false), sb := atomSrc f, sc := atomSrc f, tdOk := false }

/-- The encoding of RED. -/
def redEnc (f : Fields) : Enc :=
  { modOk := atomTypeOk (mOP f) (mTY f) && (mORD f = 0 || mORD f = 2) && (mORD f != 0 || mSCOPE f = 0)
      && dispOk f
    dst := if mTAG f then .dst 1 { g := true } else .none
    sa := .src 2 (baseAcc false), sb := atomSrc f, sc := .raw, tdOk := false }

/-- An atomic of a thread: `b` and, for ACAS, the swap value (R229, R230). -/
def atomOp (f : Fields) (k : Nat) (t : Thread) (kind : OpKind) (va b swap cls : Nat) : MemOp :=
  { blankOp k t with
    kind := kind, va := BitVec.ofNat 64 va, size := atomWidth (mTY f) / 8, ty := mTY f
    data := BitVec.ofNat 64 b, data2 := BitVec.ofNat 64 swap, cls := cls, tag := mTAG f
    dst := f.dst.toNat
    regs := if cls = 2 then one (mTAG f) else atomRegs f * (1 + one (mTAG f))
    acquire := if cls = 1 && mORD f % 2 = 1 then some (mSCOPE f) else none }

/-- The scope of an atomic's release, if it is one. -/
def atomRelease (f : Fields) : Option Nat := if 2 ≤ mORD f then some (mSCOPE f) else none

/-- ATOM (R229). -/
def execAtom (f : Fields) (s : State) : Out1 :=
  answer (formOf f (atomEnc f))
    (fun k t l s => issueWrite
      (atomOp f k t (atomKind (mOP f)) (addrOf (nth 0 0 l) 0 0 (dispOf f)) (nth 0 1 l) 0 1)
      t .both (atomRelease f) s) s

/-- ACAS (R230): a displacement comes in extension word 1 only. -/
def execAcas (f : Fields) (s : State) : Out1 :=
  answer (formOf f (acasEnc f))
    (fun k t l s => issueWrite
      (atomOp f k t .cas
        (addrOf (nth 0 0 l) 0 0 (if formExt f.form = 0 then 0 else sextInt 64 f.ext1.toNat))
        (nth 0 1 l) (nth 0 2 l) 1)
      t .both (atomRelease f) s) s

/-- RED (R232). -/
def execRed (f : Fields) (s : State) : Out1 :=
  answer (formOf f (redEnc f))
    (fun k t l s => issueWrite
      (atomOp f k t (atomKind (mOP f)) (addrOf (nth 0 0 l) 0 0 (dispOf f)) (nth 0 1 l) 0 2)
      t .write (atomRelease f) s) s

/-! ### FENCE (R220, R234, R235) -/

/-- FENCE with KIND 01 to 11 (R234): a release waits by R215, an acquire for the thread's loads; then
an acquire at `.sec` or wider invalidates the L1. -/
def execFence (f : Fields) (s : State) : Out1 :=
  answer (formOf f { modOk := bits f.mod.toNat 6 0 = 0 && mORD f != 0 })
    (fun k t _ s =>
      let wait := if 2 ≤ mORD f then releaseWait s k t (mSCOPE f) 23
        else if t.ld != 0 then some ⟨4, 23, 0⟩ else none
      match wait with
      | some st => .stall st false
      | none => .done [] (if mORD f % 2 = 1 && mSCOPE f != 0 then l1Acquire (coreOf k) s else s)) s

/-- FENCE.code (R235). -/
def execFenceCode (f : Fields) (s : State) : Out1 :=
  answer (formOf f { modOk := bits f.mod.toNat 8 0 = 0 })
    (fun k t _ s =>
      if t.st != 0 then .stall ⟨5, 23, 0⟩ false
      else .done [] (s.modCore (coreOf k) (dropCode (fun _ => false)))) s

/-! ### PREF and LDEM (R236, R237) -/

/-- The encoding of PREF and LDEM; `levels` and `hints` are how many codes of each are defined. -/
def prefEnc (f : Fields) (levels hints : Nat) : Enc :=
  { modOk := bits f.mod.toNat 10 9 = 0 && mSIZE f = 0 && decide (mSCOPE f < levels)
      && decide (mHINT f < hints) && dispOk f
    sa := .src 2 (baseAcc false), sb := .src 1 (baseAcc false), sc := .raw }

/-- Where PREF or LDEM finds its line; none makes it a no-op (R236). -/
def quietAccess (s : State) (t : Thread) (k va : Nat) : Option (Nat × Nat) :=
  if 2 ^ 57 ≤ va || inAperture va || inFrames s t.fn va 1 then none
  else
    match peek s t.fn (coreOf k) .read va with
    | .ok pa cid => some (pa, cid)
    | _ => none

/-- PREF (R236). -/
def execPref (f : Fields) (s : State) : Out1 :=
  answer (formOf f (prefEnc f 2 4))
    (fun k t l s =>
      let va := addrOf (nth 0 0 l) (nth 0 1 l) (mSCALE f) (dispOf f)
      match accessHold t 0 with
      | some st => .stall st false
      | none =>
        match quietAccess s t k va with
        | none => .done [] s
        | some (pa, cid) =>
          let s := tlbTake t.fn (coreOf k) va s
          if mSCOPE f = 0 && recMode s t.fn = 0 && (l1Find (lineOf pa) cid (s.core (coreOf k)).l1).isSome then
            .done [] (l1Hinted (coreOf k) pa cid (mHINT f) s)
          else
            .done [] (pushOp { blankOp k t with
              kind := .fill, va := BitVec.ofNat 64 va, addr := pa, cid := cid, size := 1
              bypass := mSCOPE f = 1, hint := mHINT f } s)) s

/-- LDEM (R237): the priority of the line in each named level where it is resident. -/
def execLdem (f : Fields) (s : State) : Out1 :=
  answer (formOf f (prefEnc f 3 2))
    (fun k t l s =>
      let va := addrOf (nth 0 0 l) (nth 0 1 l) (mSCALE f) (dispOf f)
      match quietAccess s t k va with
      | none => .done [] s
      | some (pa, cid) =>
        let s := tlbTake t.fn (coreOf k) va s
        let lvl : Prio := if mHINT f = 1 then .first else .normal
        let s := if mSCOPE f = 2 then s
          else s.modCore (coreOf k) (fun c => { c with l1 := c.l1.map (fun l =>
            if l.line = lineOf pa && l.cid = cid then { l with prio := lvl } else l) })
        let s := if mSCOPE f = 1 then s
          else s.modSlice (sliceOf pa) (fun v => { v with lines := v.lines.map (fun p =>
            if p.1 = lineOf pa && p.2.cid = cid then (p.1, { p.2 with prio := lvl }) else p) })
        .done [] s) s

/-! ### RCLEAN and RINV (R241) -/

/-- The encoding of RCLEAN and RINV. -/
def regionEnc (f : Fields) : Enc :=
  { modOk := bits f.mod.toNat 10 9 = 0 && bits f.mod.toNat 6 0 = 0 && mSCOPE f != 0 && dispOk f
    sa := .src 2 (baseAcc false), sb := .src 1 { g := true, s := true, z := true }, sc := .raw }

/-- Whether a region of the context reaches a byte of `size` bytes at a device address; pages that do
not translate are skipped (R241). -/
def regionTouches (s : State) (fn core pa size : Nat) : Nat → Nat → Nat → Bool
  | 0, _, _ => false
  | fuel + 1, a, n =>
    if n = 0 then false
    else
      let m := min n (4096 - a % 4096)
      (match mapped s fn core a with
        | some (b, _) => decide (b < pa + size) && decide (pa < b + m)
        | none => false) || regionTouches s fn core pa size fuel (a + m) (n - m)

/-- The line of the tables that fails its integrity check when such a region is gone through (R402). -/
def regionFails (s : State) (fn core : Nat) : Nat → Nat → Nat → Option (Nat × Nat)
  | 0, _, _ => none
  | fuel + 1, a, n =>
    if n = 0 then none
    else
      let m := min n (4096 - a % 4096)
      match mappedFails s fn core a with
      | some x => some x
      | none => regionFails s fn core fuel (a + m) (n - m)

/-- A region's address and length, or the trap of one beyond the address space. -/
def regionOf (f : Fields) (l : List Nat) : Sum TrapReq (Nat × Nat) :=
  let a := addrOf (nth 0 0 l) 0 0 (dispOf f)
  if 2 ^ 57 < a + nth 0 1 l then .inl (violation 2 a)
  else .inr (a, if inAperture a then 0 else nth 0 1 l)

/-- RCLEAN: the core's stores to the region that were in flight are acknowledged (R241). -/
def execRclean (f : Fields) (s : State) : Out1 :=
  answer (formOf f (regionEnc f))
    (fun k t l s =>
      match regionOf f l with
      | .inl r => .trap r
      | .inr (a, n) =>
        let bound := waitBound s t 23
        if s.ops.any (fun o => o.core = coreOf k && !o.aperture && o.kind.writes && decide (o.id < bound)
            && regionTouches s t.fn (coreOf k) o.addr o.size (n / 4096 + 2) a n) then
          .stall ⟨15, 23, bound⟩ true
        else .done [] (orIntegrity t.fn (s.coreNo t.fn (coreOf k)) (regionFails s t.fn (coreOf k) (n / 4096 + 2) a n) s)) s

/-- RINV: the thread's loads have returned; then the lines go, read-only ones included (R241). -/
def execRinv (f : Fields) (s : State) : Out1 :=
  answer (formOf f (regionEnc f))
    (fun k t l s =>
      match regionOf f l with
      | .inl r => .trap r
      | .inr (a, n) =>
        if t.ld != 0 then .stall ⟨4, 23, 0⟩ true
        else .done [] (dropRegion t.fn (coreOf k) (n / 4096 + 2) a n s)) s

end Sys2Proof.Machine
end

