-- ==== Sys2Proof/Machine/Pool.lean ====
section
/-! DEFINITION. The Pool Allocator (R184-R193): FGROW (R119), PGROW, PSHRK, PQRY (R238-R240), the wait
list (R187), POOLCFG and POOLWAIT (R190, R191) and the residue of other contexts (R387). -/

namespace Sys2Proof.Machine

/-- The function whose context runs on a core (R394). -/
def runningOn (s : State) (core : Nat) : Option Nat :=
  (s.ctxs.find? (fun p => p.2.running && (s.vf p.1).sect.getLsbD (sectOf core))).map (·.1)

/-- A grow takes effect: scratchpad of the workgroup, or the thread's frame (R119, R238). -/
def growNow (k wg : Nat) (scratch : Bool) (asked : Nat) (s : State) : State :=
  let s := if scratch then s.modWg wg (fun w => padResize (w.spsize + Config.granuleBytes * asked) w)
    else s.modThread k (growFrame (8 * asked))
  settlePool (coreOf k) s

/-- The trap of a grow that fails; bit 31 of the detail word: without waiting (R331). -/
def growTrap (scratch atOnce : Bool) (asked : Nat) : TrapReq :=
  trapBefore (if scratch then cPoolGrowFail else cFrameGrowFail)
    (asked % 2 ^ 10 + one atOnce * 2 ^ 31)

/-- A grow's answer. `pred` is the predicate of a `.nw` form. -/
def growDone (pred : Option Nat) (v : Bool) (k : Nat) (s : State) : LaneOut :=
  match pred with
  | some d => .done [] (s.modThread k (setPred d v))
  | none => .done [] s

/-- A grow asks the Pool Allocator (R186, R187, R189). In a replay it takes its logged outcome (R370). -/
def askPool (pred : Option Nat) (scratch : Bool) (asked k : Nat) (t : Thread) (s : State) : LaneOut :=
  let core := coreOf k
  let need := needOf s core scratch asked
  let limit := growLimit s t.fn k
  let fits := decide (need ≤ grantable s core)
  let granted : LaneOut :=
    growDone pred true k (growNow k t.wg scratch asked (noteOutcome k t.fn 3 0 s))
  let failed (s : State) : LaneOut :=
    match pred with
    | some _ => growDone pred false k s
    | none => .fail (growTrap scratch (limit = 0 || decide (Config.growMax < need)) asked) s
  match loggedOutcome s k t.fn 3 with
  | some 2 => failed (noteOutcome k t.fn 3 2 s)
  | some _ => if fits then granted else .stall ⟨2, 0, 0⟩ true
  | none =>
    if (s.core core).waitList.isEmpty && fits then granted
    else if pred.isSome || limit = 0 || Config.growMax < need then failed (noteOutcome k t.fn 3 2 s)
    else .wait (.pool scratch asked) (s.modCore core (fun c => { c with
      waitList := c.waitList ++ [⟨k, scratch, asked, (s.ctx t.fn).clock⟩] }))

/-- NW and D of a grow's modifier. -/
def mNW (f : Fields) : Bool := f.mod.getLsbD 0
def mD (f : Fields) : Nat := bits f.mod.toNat 4 2
def growPred (f : Fields) : Option Nat := if mNW f then some (mD f) else none

/-- The encoding of FGROW (R119). -/
def fgrowEnc (f : Fields) : Enc :=
  { modOk := bits f.mod.toNat 10 5 = 0 && bits f.mod.toNat 1 1 = 0 && (mNW f || mD f = 0)
    opOk := frameCountOk f.sc, sc := .raw }

/-- FGROW (R119): beyond FLIM both forms fail at once (R8). -/
def execFgrow (f : Fields) (s : State) : Out1 :=
  answer (formOf f (fgrowEnc f) none [] (growPred f).toList)
    (fun k t _ s =>
      if t.flim < t.fsize + f.sc.toNat then .trap (growTrap false true (f.sc.toNat / 8))
      else askPool (growPred f) false (f.sc.toNat / 8) k t s) s

/-- n of PGROW and PSHRK: SA, or the zero-extended SB (R238). -/
def countRoles (f : Fields) : Role × Role :=
  if mIM f then (.none, .raw) else (.src 1 { g := true, s := true, z := true }, .none)
def countOf (f : Fields) (l : List Nat) : Nat := if mIM f then f.sb.toNat else nth 0 0 l

/-- The encoding of PGROW. -/
def pgrowEnc (f : Fields) : Enc :=
  { modOk := bits f.mod.toNat 9 5 = 0 && bits f.mod.toNat 1 1 = 0 && (mNW f || mD f = 0)
    sa := (countRoles f).1, sb := (countRoles f).2 }

/-- PGROW (R238). -/
def execPgrow (f : Fields) (s : State) : Out1 :=
  answer (formOf f (pgrowEnc f) none [] (growPred f).toList)
    (fun k t l s =>
      let n := countOf f l
      let size := ((look t.wg s.wgs).map (·.spsize)).getD 0
      if n = 0 then growDone (growPred f) true k s
      else if Config.granuleBytes * Config.growMax < size + Config.granuleBytes * n then
        match growPred f with
        | some _ => growDone (growPred f) false k s
        | none => .trap (growTrap true true n)
      else askPool (growPred f) true n k t s) s

/-! ### PSHRK (R239) -/

/-- The lowest and the end byte that a running copy writes, as its descriptor bounds them (R255)
(in part DEDUCED, log 41). -/
def copyBounds (d : List Byte) : Int × Int :=
  let ctl := valAt 0x10 4 d
  let size := if bits ctl 2 0 = 5 then 32 * bits ctl 12 9 else 2 ^ bits ctl 2 0
  let dst : Int := valAt 8 8 d
  let spans := (upto 7).map (fun j =>
    if j ≤ bits ctl 8 6 then
      (sextInt 64 (valAt (0x70 + 8 * j) 8 d)) * (valAt (0x18 + 4 * j) 4 d - 1 : Nat)
    else 0)
  (dst + (spans.map (fun x => min x 0)).sum, dst + (spans.map (fun x => max x 0)).sum + size)

/-- L of an ACP's modifier. -/
def acpLen (mod : BitVec 11) : Nat := 4 * 2 ^ bits mod.toNat 9 8

/-- Element size of an MOUT's format. -/
def drainSize (code : Nat) : Nat := if code = 0 then 4 else if code ≤ 2 then 2 else 1

/-- The scratchpad range that a begun command may still write, as addresses: of an ACP, a copy, an MOUT, a TKPOP, or
an NGET with its length in `vc`. -/
def writeSpan (c : Cmd) : Int × Int :=
  if c.op = 0x282 then copyBounds c.data
  else if c.op = 0x280 then (c.vb.toNat, c.vb.toNat + acpLen c.mod)
  else if c.op = 0x28C then
    let p := c.vb.toNat
    (c.va.toNat, c.va.toNat + bits p 40 34 * (16 * bits p 63 48) + (bits p 25 18 + 1) * drainSize (bits p 17 15))
  else if c.op = 0x299 then (Config.apertureBase + c.va.toNat, Config.apertureBase + c.va.toNat + 64)
  else if c.op = 0x311 then
    let a := wrapNat 64 ((c.vb.toNat : Int) + sextInt 64 c.ext2.toNat)
    if inAperture a then (a, a + c.vc.toNat) else (0, 0)
  else (0, 0)

/-- Whether a begun command may still write bytes `lo` to `hi − 1` of its scratchpad. -/
def writesPad (c : Cmd) (lo hi : Nat) : Bool :=
  c.begun && c.done.isNone &&
    let (a, b) := writeSpan c
    decide (a < (Config.apertureBase + hi : Nat)) && decide (((Config.apertureBase + lo : Nat) : Int) < b)

/-- The matrix commands that name a workgroup as OWG, whoever has signed them (R273). -/
def ownedCmds (s : State) (wg : Nat) : List Cmd :=
  s.cohorts.flatMap (fun p => p.2.mx.filter (fun c => p.2.members[c.mod.toNat % 4]? = some wg))

/-- Whether a begun SQMAP of a section may still write bytes `lo` to `hi − 1` of a workgroup's scratchpad (R295): one
bit for each tile of its slot's region. -/
def writesMap (v : Section) (wg lo hi : Nat) (c : Cmd) : Bool :=
  let d := ((nth none (c.mod.toNat % 4) v.slots).map (·.desc)).getD []
  let size := (valAt 0x10 4 d * valAt 0x14 4 d + 7) / 8
  c.op = 0x2A3 && c.wg = wg && c.begun && c.done.isNone && decide (c.va.toNat < Config.apertureBase + hi)
    && decide (Config.apertureBase + lo < c.va.toNat + size)

/-- Whether the top of a workgroup's scratchpad from `lo` on is still in use (R239)
(in part DEDUCED, log 41). -/
def padBusy (s : State) (wg lo hi : Nat) : Bool :=
  (allCmds s).any (fun c => match c.claim with
    | some (w, a, b, _) => w = wg && decide (a < hi) && decide (lo < b)
    | none => false)
  || (match look wg s.wgs with
    | some w => (wgCmds w ++ ownedCmds s wg).any (fun c => writesPad c lo hi)
    | none => false)
  || s.cohorts.any (fun p => p.2.sq.any (writesMap (s.sect p.2.sect) wg lo hi))
  || s.ops.any (fun o => o.waiting && padOverlap o wg lo (hi - lo))

/-- PSHRK (R239). -/
def execPshrk (f : Fields) (s : State) : Out1 :=
  answer (formOf f { modOk := bits f.mod.toNat 9 0 = 0, sa := (countRoles f).1, sb := (countRoles f).2 })
    (fun k t l s =>
      let n := countOf f l
      let size := ((look t.wg s.wgs).map (·.spsize)).getD 0
      if size < Config.granuleBytes * n then .trap (trapBefore cIllegalOperand)
      else if n = 0 then .done [] s
      else if padBusy s t.wg (size - Config.granuleBytes * n) size then .stall ⟨15, 21, n⟩ true
      else .done [] (settlePool (coreOf k) (s.modWg t.wg (padResize (size - Config.granuleBytes * n))))) s

/-! ### PQRY (R240) -/

/-- The value of a selector. -/
def pqryValue (s : State) (core wg sel : Nat) : Nat :=
  if sel = 0 then ((look wg s.wgs).map (·.spsize)).getD 0
  else if sel = 1 then grantable s core
  else if sel = 2 then l1G s core
  else (s.core core).waitList.length

/-- PQRY (R240); in a replay the logged value (R370). -/
def execPqry (f : Fields) (s : State) : Out1 :=
  answer (formOf f { modOk := decide (f.mod.toNat ≤ 3), dst := .dst 1 { g := true } })
    (fun k t _ s =>
      let v := (loggedOutcome s k t.fn 1).getD (pqryValue s (coreOf k) t.wg f.mod.toNat)
      .done [v] (noteOutcome k t.fn 1 v s)) s

/-! ### The wait list (R187) -/

/-- Whether a request can be granted: it is the oldest, the pool can give what it needs, it has not waited
longer than POOLWAIT cycles, and no checkpoint request is in force (R187, R344). -/
def grantDue (s : State) (core : Nat) (t : Thread) (r : PoolReq) : Bool :=
  (s.core core).waitList.head? = some r && (s.ctx t.fn).ckpt.isNone
    && decide ((s.ctx t.fn).clock ≤ r.since + poolLimit s t.fn core)
    && decide (needOf s core r.scratch r.asked ≤ grantable s core)

/-- POOL_GRANT (R187): the oldest request, once it is free to grant. While a checkpoint request is in
force the list stands still (R344). -/
def execPoolGrant (core : Nat) (s : State) : Out1 :=
  match (s.core core).waitList with
  | [] => .next s
  | r :: rest =>
    match look r.thread s.threads with
    | none => .next (s.setCore core { s.core core with waitList := rest })
    | some t =>
      if !grantDue s core t r then .next s
      else
        let s := s.setCore core { s.core core with waitList := rest }
        let s := growNow r.thread t.wg r.scratch r.asked (noteOutcome r.thread t.fn 3 1 s)
        .next (s.modThread r.thread (goOn (s.ctx t.fn).pcycle))

/-- POOL_WAIT_TIMEOUT (R187): a request has waited POOLWAIT cycles. One that becomes free to grant in that
very cycle is granted (in part DESIGN CHOICE, log 15). -/
def execPoolWaitTimeout (core thread : Nat) (s : State) : Out1 :=
  match (s.core core).waitList.find? (fun r => r.thread = thread), look thread s.threads with
  | some r, some t =>
    if (s.ctx t.fn).ckpt.isSome || (s.ctx t.fn).clock < r.since + poolLimit s t.fn core || grantDue s core t r then
      .next s
    else
      let s := s.modCore core (fun c => { c with
        waitList := c.waitList.filter (fun q => q.thread != thread) })
      .next (takeTraps [⟨thread, growTrap r.scratch false r.asked, t.pc, t.pc⟩]
        (noteOutcome thread t.fn 3 2 s))
  | _, _ => .next s

/-- Write POOLCFG (R191). -/
def writePoolcfg (core : Nat) (v : Word) (s : State) : State :=
  let old := (s.core core).poolcfg
  let max := if 32 ≤ bits v.toNat 9 0 && bits v.toNat 9 0 ≤ 512 then v &&& 0x3FF else old &&& 0x3FF
  settlePool core (s.modCore core (fun c => { c with poolcfg := (v &&& 0x400) ||| max }))

/-- POOLCFG_WRITE (R191). -/
def execPoolcfgWrite (core : Nat) (value : Word) (s : State) : Out1 := .next (viaMgmt (writePoolcfg core value) s)

/-- Note a write from outside a thread that a core's running context sees (R378). -/
def noteOutside (core reg old : Nat) (s : State) : State :=
  match runningOn s core with
  | some fn => noteSwr fn reg core none old s
  | none => s

/-- POOLWAIT_WRITE (R378): from the next cycle on waiting requests are compared with the new limit. -/
def execPoolwaitWrite (core : Nat) (value : Word) (s : State) : Out1 :=
  .next (viaMgmt (fun s =>
    noteOutside core 0x401 (s.core core).poolwait.toNat (s.modCore core (fun c => { c with poolwait := value }))) s)

/-- The units of a thread's that a line of its frame or trap-frame area is in, counted from its first (R185). -/
def lineUnits (t : Thread) (n : Nat) : List Nat :=
  (upto (t.fsize / 8)).filter (fun u => u / 4 = n)
    ++ ((upto Config.trapUnits).filter (fun j => (t.flim / 8 + j) / 4 = n)).map (t.fsize / 8 + ·)

/-- A thread's lines that some of its units hold leave the pool; dirty ones are written to the context image. -/
def pushLines (k : Nat) (t : Thread) (gone : Nat → Bool) (s : State) : Thread × State :=
  let l := t.lines.filter (fun p => (lineUnits t p.1).any gone)
  ({ t with lines := t.lines.filter (fun p => !l.contains p) },
    (l.filter (·.2)).foldl (fun s p => frameBack k t s p.1) s)

/-- The same for the threads of a context that is switched out, whose units on a core are counted in the order of
its threads. -/
def pushThreads (core : Nat) (units : List Nat) : Nat → Tbl Thread → State → Tbl Thread × State
  | _, [], s => ([], s)
  | base, (k, t) :: l, s =>
    let (t', s) := if coreOf k = core then pushLines k t (fun u => units.contains (base + u)) s else (t, s)
    let (l, s) := pushThreads core units (if coreOf k = core then base + unitsOf t.fsize else base) l s
    ((k, t') :: l, s)

/-- The latest checkpoint of a function has other threads. -/
def setImageThreads (fn : Nat) (threads : Tbl Thread) (s : State) : State :=
  s.modCtx fn (fun c => { c with images := match c.images with
    | [] => []
    | i :: l => { i with threads := threads } :: l })

/-- The threads that a function which is switched out will come back with. -/
def imageThreads (s : State) (fn : Nat) : Tbl Thread := ((s.ctx fn).images.head?.map (·.threads)).getD []

/-- Residue units of a function on a core go: its lines in them are written to their context images (R352, R387). -/
def pushOut (fn core : Nat) (units : List Nat) (s : State) : State :=
  let (threads, s) := pushThreads core units 0 (imageThreads s fn) s
  setImageThreads fn threads s

/-- The lines of frames that a core's pool holds as residue: function, thread, line. -/
def residueLines (s : State) (core : Nat) : List (Nat × Nat × Nat) :=
  (s.core core).residue.flatMap (fun r => ((imageThreads s r.1).filter (fun p => coreOf p.1 = core)).flatMap (fun p =>
    p.2.lines.map (fun l => (r.1, p.1, l.1))))

/-- A residue line leaves the pool: a dirty one is written to its context image. -/
def pushLine (s : State) (x : Nat × Nat × Nat) : State :=
  match look x.2.1 (imageThreads s x.1) with
  | none => s
  | some t =>
    let s := if look x.2.2 t.lines = some true then frameBack x.2.1 t s x.2.2 else s
    setImageThreads x.1 (put x.2.1 { t with lines := t.lines.filter (fun l => l.1 != x.2.2) } (imageThreads s x.1)) s

/-- The misses of the context that runs on a core push residue lines out, each a line of the pool's choice (R352, R387)
(in part DESIGN CHOICE, log 88). -/
def pushMissed (core : Nat) : Nat → State → State
  | 0, s => s.modCore core (fun c => { c with missed := 0 })
  | n + 1, s =>
    let l := residueLines s core
    if l.isEmpty then s.modCore core (fun c => { c with missed := 0 })
    else
      let x := nth (0, 0, 0) (Config.residueVictim s.freeCtr % l.length) l
      pushMissed core n (pushLine { s with freeCtr := s.freeCtr + 1 } x)

/-- The residue granule of the lowest number: scratchpad and window granules, and frame granules that hold residue
units (R387). -/
def lowestResidue (l : Tbl Residue) : Option Nat := (sortBy id (l.flatMap (fun p => p.2.pads) ++ residueGrans l)).head?

/-- Residue without what is in a granule. -/
def leaveGranule (g : Nat) (l : Tbl Residue) : Tbl Residue :=
  (l.map (fun p => (p.1, ({ pads := p.2.pads.filter (· != g), units := drop g p.2.units } : Residue)))).filter
    (fun p => !(p.2.pads.isEmpty && p.2.units.isEmpty))

/-- One granule of residue is written out and is residue no more, with all frame units in it, of whatever function
(R387) (in part DEDUCED, log 73). -/
def drainLowest (core : Nat) (s : State) : State :=
  match lowestResidue (s.core core).residue with
  | none => s
  | some g =>
    let s := (s.core core).residue.foldl (fun s p => match look g p.2.units with
      | some units => pushOut p.1 core units s
      | none => s) s
    s.modCore core (fun c => { c with residue := leaveGranule g c.residue })

/-- One granule of residue returns to the Pool Allocator. -/
def drainOne (core : Nat) (s : State) : State := settlePool core (drainLowest core s)

/-- RESIDUE_DRAIN (R387): one granule of residue returns. -/
def execResidueDrain (core : Nat) (s : State) : Out1 :=
  match runningOn s core with
  | none => .next s
  | some fn =>
    if (s.core core).residue.isEmpty || (s.ctx fn).pcycle < (s.core core).drainAt then .next s
    else .next ((drainOne core s).modCore core (fun c => { c with drainAt := c.drainAt + Config.drainPeriod }))

end Sys2Proof.Machine
end

