-- ==== Sys2Proof/Machine/Sync.lean ====
section
/-! DEFINITION. Class 4, except CDECL: barriers (R154, R155, R170), warp collectives (R172-R176), harvest
(R177, R178), PAUSE, SUSPEND and event counters (R179-R181); the steps that time them out; the barrier
checksum (R369); and the regroup boundary (R142). -/

namespace Sys2Proof.Machine

/-! ### Range words (R169) -/

def rangeFirst (r : Nat) : Nat := bits r 9 0
def rangeCount (r : Nat) : Nat := bits r 20 10

/-- Whether a range word's set holds a TLIN. -/
def inRange (r tlin : Nat) : Bool :=
  rangeCount r = 0 || (decide (rangeFirst r ≤ tlin) && decide (tlin < rangeFirst r + rangeCount r))

/-- The thread count of a workgroup (R147). -/
def wgSize (w : Workgroup) : Nat := w.wgx * w.wgy * w.wgz

/-- Whether a range word is one that no thread of a workgroup of `size` threads may supply. -/
def rangeMalformed (r size : Nat) : Bool :=
  bits r 31 21 != 0 || decide (1024 < rangeCount r) || (rangeCount r = 0 && rangeFirst r != 0)
    || decide (size < rangeFirst r + rangeCount r)

/-- Whether a range word raises ILLEGAL_OPERAND in the thread that supplies it. -/
def rangeBad (s : State) (t : Thread) (r : Nat) : Bool :=
  rangeMalformed r (((look t.wg s.wgs).map wgSize).getD 0) || !inRange r t.tlin

/-- The living compute threads of a workgroup that a range word names, in ascending TLIN. -/
def namedThreads (s : State) (wg r : Nat) : List (Nat × Thread) :=
  sortBy (fun p => p.2.tlin) ((s.computeOf wg).filter (fun p => inRange r p.2.tlin))

/-- The detail word of BARRIER_STALL (R331) (in part DEDUCED, log 39). -/
def stallDetail (field arrivals expected : Nat) : Nat :=
  field + arrivals % 2 ^ 11 * 2 ^ 8 + expected % 2 ^ 11 * 2 ^ 19

/-- Whether a thread can do nothing more in the present cycle: it waits, it has tried, its slot has issued, its
context does not run, or a checkpoint request holds it. -/
def threadQuiet (s : State) (k : Nat) (t : Thread) : Bool :=
  let c := s.ctx t.fn
  t.wait.isSome || t.polled || decide (slotOf k < (s.core (coreOf k)).slotNext) || !c.running || c.halt.isSome
    || (c.ckpt.isSome && gathered s k t)

/-- Whether a core's issues, arrivals and exits of the present cycle are over (R155). -/
def coreQuiet (s : State) (core : Nat) : Bool :=
  (s.core core).bundles.all (fun b => b.all (fun k => ((look k s.threads).map (threadQuiet s k)).getD true))

/-- Whether a count that began at `origin` has reached a core's BARSTALL, after the cycle's arrivals and exits
(R155, R156); it pauses during a checkpoint request (R344). -/
def stallDue (s : State) (fn core origin : Nat) : Bool :=
  let limit := stallLimit s fn core
  limit != 0 && (s.ctx fn).ckpt.isNone && decide (origin + limit ≤ (s.ctx fn).clock)
    && ((s.ctx fn).cycleOver || coreQuiet s core)

/-! ### The barrier checksum (R369) -/

/-- One byte of CRC-64/ECMA-182. -/
def crcByte (c : DWord) (b : Byte) : DWord :=
  (upto 8).foldl (fun c _ => if c.msb then (c <<< 1) ^^^ 0x42F0E1EBA9EA3693 else c <<< 1)
    (c ^^^ (b.setWidth 64 <<< 56))

def crc64 (l : List Byte) : DWord := l.foldl crcByte 0

/-- The registers of a thread that a checksum folds: those that are not dead. -/
def liveRegs (t : Thread) : List (Nat × Word) :=
  ((upto t.fsize).filter (fun n => !isDead t n)).map (fun n => (n, readG t n))

/-- The bytes that a register adds. -/
def regBytes (p : Nat × Word) : List Byte := BitVec.ofNat 8 p.1 :: toBytes 4 p.2.toNat

/-- A checksum of a workgroup's barrier. -/
def csumOf (wg : Nat) (w : Workgroup) (n gen : Nat) (c : DWord) : Csum :=
  ⟨wg, n + w.wgic * 16 + w.stage * 64, gen, linearIndex w, c⟩

/-- Whether a logged checksum is a counterpart of another: of the same workgroup, which a replay places as it was
placed, and the same barrier (R370, R371). -/
def sameCsum (a b : Csum) : Bool := a.wg = b.wg && a.name = b.name && a.cohort = b.cohort

/-- What follows the header of a checksum's record (R369). -/
def csumBytes (c : Csum) : List Byte :=
  toBytes 8 c.sum.toNat ++ toBytes 4 c.gen ++ toBytes 4 c.name ++ toBytes 4 c.cohort ++ toBytes 4 0

/-- A barrier generation of a workgroup completes while recording or replaying: its checksum is logged,
compared with its recorded counterpart (R371) and written to the ring. -/
def checksum (wg n : Nat) (s : State) : State :=
  match look wg s.wgs with
  | none => s
  | some w =>
    if recMode s w.fn = 0 then s
    else
      let b := nth ⟨0, 0, 0, 0, []⟩ n w.bars
      let c := crc64 ((namedThreads s wg b.range.toNat).flatMap
        (fun p => ((look p.2.tlin b.regs).getD []).flatMap regBytes))
      let gen := b.gen + 1
      let x := csumOf wg w n gen c
      let s := s.modWg wg (fun w => { w with csum := c })
      let s := if (s.ctx w.fn).tracectl.getLsbD 1 then
          traceRecord w.fn w.core (traceHeader s w.fn w.core 1 3 ++ csumBytes x) s
        else s
      if recMode s w.fn = 1 then
        s.modCtx w.fn (fun v => { v with csums := v.csums ++ [x] })
      else
        match (s.ctx w.fn).replay with
        | none => s
        | some (l, sums) =>
          let s := s.modCtx w.fn (fun v => { v with replay := some (l, sums.eraseP (sameCsum x)) })
          match sums.find? (sameCsum x) with
          | none => s
          | some p =>
            if p.sum = c then s
            else raiseHalt w.fn fReplayDiverged (s.coreNo w.fn w.core)
              ([BitVec.ofNat 8 n, BitVec.ofNat 8 w.wgic, 0, 0] ++ toBytes 4 gen
                ++ toBytes 4 (linearIndex w)) s

/-! ### Barriers (R154, R155, R170) -/

def State.bar (s : State) (wg n : Nat) : Barrier :=
  ((look wg s.wgs).map (fun w => nth ⟨0, 0, 0, 0, []⟩ n w.bars)).getD ⟨0, 0, 0, 0, []⟩
def State.modBar (s : State) (wg n : Nat) (f : Barrier → Barrier) : State :=
  s.modWg wg (fun w => { w with bars := setNth (f (nth ⟨0, 0, 0, 0, []⟩ n w.bars)) n w.bars })

/-- The bit of a barrier in a thread's masks. -/
def barBit (n : Nat) : BitVec 16 := 1#16 <<< n

/-- Whether a thread waits at a barrier. -/
def waitsAt (n : Nat) (t : Thread) : Bool :=
  match t.wait with
  | some (.barrier m) => m = n
  | some (.barrierAgain m _ _) => m = n
  | _ => false

/-- Whether every participant that has not exited has arrived. -/
def barFull (s : State) (wg n : Nat) : Bool :=
  let b := s.bar wg n
  b.arrivals != 0 && (namedThreads s wg b.range.toNat).all (fun p => p.2.arrived.getLsbD n)

/-- A thread when a generation completes: its arrival is over, and if it waits for that it goes on. -/
def releaseBar (now n : Nat) (t : Thread) : Thread :=
  let t := { t with arrived := t.arrived &&& ~~~(barBit n) }
  if t.wait = some (.barrier n) then goOn now t else t

/-- The open generation completes. -/
def finishGen (wg n : Nat) (s : State) : State :=
  let s := checksum wg n s
  let now := ((look wg s.wgs).map (fun w => (s.ctx w.fn).pcycle)).getD 0
  let s := s.modBar wg n (fun b => { b with range := 0, arrivals := 0, gen := b.gen + 1, regs := [] })
  { s with threads := s.threads.map (fun p => if p.2.wg = wg then (p.1, releaseBar now n p.2) else p) }

/-- Record an arrival, and complete the generation if it was the last: whether it did. None: the open
generation has another set. -/
def arrive (k : Nat) (t : Thread) (n : Nat) (range : Word) (s : State) : Option (Bool × State) :=
  let b := s.bar t.wg n
  if b.arrivals != 0 && b.range != range then none
  else
    let regs := if recMode s t.fn = 0 then b.regs else put t.tlin (liveRegs t) b.regs
    let s := s.modBar t.wg n (fun b => { b with
      range := range, arrivals := b.arrivals + 1, origin := (s.ctx t.fn).clock, regs := regs })
    let s := s.modThread k (fun t => { t with
      arrived := t.arrived ||| barBit n, withdrawn := t.withdrawn &&& ~~~(barBit n) })
    if barFull s t.wg n then some (true, finishGen t.wg n s) else some (false, s)

/-- A thread whose second arrival waited for the generation that has now completed arrives; one that may not is
among those that trap. -/
def arriveAgain (n : Nat) (r : List Trapping × State) (k : Nat) : List Trapping × State :=
  let (l, s) := r
  match look k s.threads with
  | none => r
  | some t =>
    match t.wait with
    | some (.barrierAgain m range waits) =>
      if m != n || t.arrived.getLsbD n then r
      else
        match arrive k t n range s with
        | none => (l ++ [⟨k, trapBefore cIllegalOperand, t.pc, t.pc⟩], s)
        | some (true, s) => (l, s.modThread k (goOn (s.ctx t.fn).pcycle))
        | some (false, s) =>
          if waits then (l, s.modThread k (fun t => { t with wait := some (.barrier n) }))
          else (l, s.modThread k (goOn (s.ctx t.fn).pcycle))
    | _ => r

/-- The second arrivals that waited for the generation are made, in ascending TLIN; those that trap do so by the
fragments of their issues (R336). -/
def arriveWaiting (wg n : Nat) (s : State) : State :=
  let (l, s) := ((sortBy (fun p => p.2.tlin) (s.computeOf wg)).map (·.1)).foldl (arriveAgain n) ([], s)
  takeTraps l s

/-- After an exit: complete the generation if everybody left has arrived. -/
def settleBar (wg n : Nat) (s : State) : State :=
  if barFull s wg n then arriveWaiting wg n (finishGen wg n s) else s

/-- A thread begins to wait at a barrier: the count's origin if nobody waits there (R155). -/
def beginWait (t : Thread) (n : Nat) (s : State) : State :=
  if (s.computeOf t.wg).any (fun p => waitsAt n p.2) then s
  else s.modBar t.wg n (fun b => { b with origin := (s.ctx t.fn).clock })

/-- The number of a barrier instruction. -/
def mBAR (f : Fields) : Nat := bits f.mod.toNat 3 0

/-- The encoding of BAR, BARA and BARW: no mark bit may be set. -/
def barEnc (f : Fields) (range : Bool) : Enc :=
  { modOk := bits f.mod.toNat 10 4 = 0, opOk := !f.lua
    sa := if range then .src 1 { g := true, s := true, z := true } else .none }

/-- BAR and BARA for one thread. An arrival is a release at `.core` (R171). In an apprentice thread the trap of
R160 is one that execution raises, after the guard and after the encoding's checks (R50)
(in part DEDUCED, log 76). -/
def arriveBody (f : Fields) (waits : Bool) : Body := fun k t l s =>
  let n := mBAR f
  let range := BitVec.ofNat 32 (nth 0 0 l)
  if t.apprentice then .trap (trapBefore cIllegalInstruction)
  else if rangeBad s t (nth 0 0 l) then .trap (trapBefore cIllegalOperand)
  else
    match releaseWait s k t 0 0 with
    | some st => .stall st false
    | none =>
      if t.arrived.getLsbD n then .wait (.barrierAgain n range waits) (beginWait t n s)
      else
        match arrive k t n range s with
        | none => .trap (trapBefore cIllegalOperand)
        | some (true, s) => .done [] (arriveWaiting t.wg n s)
        | some (false, s) => if waits then .wait (.barrier n) (beginWait t n s) else .done [] s

/-- BAR (R170). -/
def execBar (f : Fields) (s : State) : Out1 := answer (formOf f (barEnc f true)) (arriveBody f true) s
/-- BARA (R170). -/
def execBara (f : Fields) (s : State) : Out1 := answer (formOf f (barEnc f true)) (arriveBody f false) s

/-- BARW (R170). -/
def execBarw (f : Fields) (s : State) : Out1 :=
  answer (formOf f (barEnc f false))
    (fun k t _ s =>
      let n := mBAR f
      if t.apprentice then .trap (trapBefore cIllegalInstruction)
      else if t.withdrawn.getLsbD n then
        .fail (trapBefore cBarrierStall (stallDetail n 0 0))
          (s.modThread k (fun t => { t with withdrawn := t.withdrawn &&& ~~~(barBit n) }))
      else if t.arrived.getLsbD n then .wait (.barrier n) (beginWait t n s)
      else .done [] s) s

/-- BARRIER_STALL (R155): those who wait trap, and every arrival of the generation is withdrawn
(in part DEDUCED, log 39). -/
def execBarrierStall (wg bar : Nat) (s : State) : Out1 :=
  match look wg s.wgs with
  | none => .next s
  | some w =>
    let b := s.bar wg bar
    let waiters := (sortBy (fun p => p.2.tlin) ((s.computeOf wg).filter (fun p => waitsAt bar p.2))).map (·.1)
    if waiters.isEmpty || !stallDue s w.fn w.core b.origin then .next s
    else
      let detail := stallDetail bar b.arrivals (namedThreads s wg b.range.toNat).length
      let s := s.modBar wg bar (fun b => { b with range := 0, arrivals := 0, regs := [] })
      let s := { s with threads := s.threads.map (fun p =>
        if p.2.wg = wg && p.2.arrived.getLsbD bar then
          (p.1, { p.2 with
            arrived := p.2.arrived &&& ~~~(barBit bar)
            withdrawn := if waitsAt bar p.2 then p.2.withdrawn else p.2.withdrawn ||| barBit bar })
        else p) }
      .next (stallTrap waiters detail s)

/-! ### Warp collectives (R172-R176) -/

/-- The living members of a collective: lanes of the warp that its mask names; 0 names all. -/
def members (s : State) (warp : Nat) (mask : Word) : List Nat :=
  ((s.threads.filter (fun p => warpOf p.1 = warp)).map (fun p => laneOf p.1)).filter
    (fun i => mask = 0 || mask.getLsbD i)

def collFull (s : State) (c : Collective) : Bool :=
  (members s c.warp c.mask).all (fun i => c.here.any (fun a => a.lane = i))

/-- PCOLL's MODE, and whether its result is a predicate (R174). -/
def collMode (mod : BitVec 11) : Nat := bits mod.toNat 9 8
def collPred (op : Nat) (mod : BitVec 11) : Bool := op = 0x208 && collMode mod != 3

/-- The lanes whose arrivals meet a condition. -/
def lanesWith (c : Collective) (p : Arrival → Bool) : Nat := maskOf ((c.here.filter p).map (·.lane))

/-- The result of PCOLL. -/
def pcollResult (c : Collective) : Nat :=
  let g := lanesWith c (fun a => a.value != 0)
  if collMode c.mod = 0 then one (c.here.all (fun a => a.value != 0))
  else if collMode c.mod = 1 then one (g != 0)
  else if collMode c.mod = 2 then one (g = 0 || c.here.all (fun a => a.value != 0))
  else g

/-- The result of LXCH for one member (R175). -/
def lxchResult (c : Collective) (a : Arrival) : Nat :=
  let m := bits c.mod.toNat 4 3
  let l : Int := a.lane
  let k : Int := a.sel.toNat
  let from1 : Int := if m = 0 then k else if m = 1 then l - k else if m = 2 then l + k
    else ((a.lane ^^^ a.sel.toNat : Nat) : Int)
  match c.here.find? (fun b => (b.lane : Int) = from1) with
  | some b => b.value.toNat
  | none => a.value.toNat

/-- What a completed collective gives one member. -/
def collResult (c : Collective) (a : Arrival) : Nat :=
  if c.op = 0x208 then pcollResult c
  else if c.op = 0x209 then lxchResult c a
  else lanesWith c (fun b => b.value = a.value)

/-- Give a waiting member its result. -/
def deliver (c : Collective) (s : State) (a : Arrival) : State :=
  if collPred c.op c.mod then
    match look a.thread s.threads with
    | some t => s.modThread a.thread (fun u =>
        goOn (s.ctx t.fn).pcycle (setPred a.sel.toNat (collResult c a != 0) u))
    | none => s
  else finishWait a.thread (collResult c a) s

/-- Whether an instance is the one of a warp and program counter. -/
def isColl (warp : Nat) (pc : DWord) (c : Collective) : Bool := c.warp = warp && c.pc = pc

/-- Replace, add or remove the instance of a warp and program counter. -/
def putColl (warp : Nat) (pc : DWord) (c : Option Collective) (w : Workgroup) : Workgroup :=
  { w with colls := w.colls.filter (fun d => !isColl warp pc d) ++ c.toList }

/-- One thread reaches a warp collective (R172). -/
def collArrive (f : Fields) (op k : Nat) (t : Thread) (mask : Word) (value : DWord) (sel : Word)
    (s : State) : LaneOut :=
  match look t.wg s.wgs with
  | none => .trap (trapBefore cIllegalOperand)
  | some w =>
    let warp := warpOf k
    let old := w.colls.find? (isColl warp t.pc)
    let clash := match old with
      | some c => c.op != op || c.mod != f.mod || c.mask != mask
      | none => false
    if (mask != 0 && !mask.getLsbD (laneOf k)) || clash then .trap (trapBefore cIllegalOperand)
    else
      let here := ((old.map (·.here)).getD []) ++ [⟨k, laneOf k, value, sel⟩]
      let c : Collective := ⟨warp, t.apprentice, t.pc, op, f.mod, mask, here, (s.ctx t.fn).clock⟩
      if collFull s c then
        let s := s.modWg t.wg (putColl warp t.pc none)
        let s := (c.here.filter (fun a => a.thread != k)).foldl (deliver c) s
        let v := collResult c ⟨k, laneOf k, value, sel⟩
        if collPred op f.mod then .done [] (s.modThread k (setPred sel.toNat (v != 0))) else .done [v] s
      else .wait (.collective t.pc) (s.modWg t.wg (putColl warp t.pc (some c)))

/-- The mask register and other lane operands of class 4. -/
def lane4 : Acc := { g := true, s := true, z := true }

/-- The encoding of PCOLL (R174). -/
def pcollEnc (f : Fields) : Enc :=
  let gather := collMode f.mod = 3
  { modOk := bits f.mod.toNat 6 0 = 0
    opOk := decide (f.sa.toNat < 8) && (gather || decide (f.dst.toNat < 8))
    dst := if gather then .dst 1 { g := true, z := true } else .raw
    sa := .raw, sb := if mIM f then .none else .src 1 lane4, sc := if mIM f then .raw else .none }

/-- The mask of a collective: source B, or SC sign-extended. -/
def maskImm (f : Fields) : Option Nat :=
  if mIM f then some (wrapNat 32 (sextInt 8 f.sc.toNat)) else none

/-- PCOLL (R174). -/
def execPcoll (f : Fields) (s : State) : Out1 :=
  answer (formOf f (pcollEnc f) (maskImm f) [f.sa.toNat % 8]
      (if collMode f.mod = 3 then [] else [f.dst.toNat % 8]))
    (fun k t l s => collArrive f 0x208 k t (BitVec.ofNat 32 (nth 0 0 l))
      (BitVec.ofNat 64 (one (predAt t (f.sa.toNat % 8) != f.mod.getLsbD 7)))
      (if collMode f.mod = 3 then 0 else BitVec.ofNat 32 (f.dst.toNat % 8)) s) s

/-- The encoding of LXCH (R175) (in part DEDUCED, log 74). -/
def lxchEnc (f : Fields) : Enc :=
  { modOk := mTYPE f = 2 && bits f.mod.toNat 2 0 = 0
    dst := .dst 1 { g := true, q := true, z := true }
    sa := .src 1 { g := true, q := true, z := true }, sb := .src 1 lane4
    sc := if mIM f then .raw else .src 1 { g := true, s := true } }

/-- LXCH (R175). -/
def execLxch (f : Fields) (s : State) : Out1 :=
  answer (formOf f (lxchEnc f) (if mIM f then some (wrapNat 32 (sextInt 8 f.sc.toNat)) else none))
    (fun k t l s => collArrive f 0x209 k t (BitVec.ofNat 32 (nth 0 1 l)) (BitVec.ofNat 64 (nth 0 0 l))
      (BitVec.ofNat 32 (nth 0 2 l)) s) s

/-- The encoding of MATCH (R176): its value is a g-register or zr, as R35 accepts it in class 4 where the entry
names no other (in part DEDUCED, log 74). -/
def matchEnc (f : Fields) : Enc :=
  let w := typeWidth (mTYPE f)
  { modOk := (mTYPE f = 2 || mTYPE f = 3) && bits f.mod.toNat 4 0 = 0
    dst := .dst 1 { g := true, z := true }, sa := .src (regsFor w) { g := true, z := true }
    sb := if mIM f then .none else .src 1 lane4, sc := if mIM f then .raw else .none }

/-- MATCH (R176). -/
def execMatchLanes (f : Fields) (s : State) : Out1 :=
  answer (formOf f (matchEnc f) (maskImm f))
    (fun k t l s => collArrive f 0x20A k t (BitVec.ofNat 32 (nth 0 1 l)) (BitVec.ofNat 64 (nth 0 0 l)) 0 s) s

/-- COLLECTIVE_STALL (R173): the arrived members trap and the instance is discarded. -/
def execCollectiveStall (wg warp : Nat) (pc : DWord) (s : State) : Out1 :=
  match look wg s.wgs with
  | none => .next s
  | some w =>
    match w.colls.find? (isColl warp pc) with
    | none => .next s
    | some c =>
      if !stallDue s w.fn w.core c.origin then .next s
      else
        let s := s.modWg wg (putColl warp pc none)
        .next (stallTrap (c.here.map (·.thread))
          (stallDetail 0x40 c.here.length (members s c.warp c.mask).length) s)

/-- A member exits before it arrives: the instance goes on without it (R172, R173). -/
def collDrop (wg warp lane clock : Nat) (s : State) : State :=
  match look wg s.wgs with
  | none => s
  | some w =>
    (w.colls.filter (fun c => c.warp = warp && (c.mask = 0 || c.mask.getLsbD lane)
        && !c.here.any (fun a => a.lane = lane))).foldl (fun s c =>
      if collFull s c then
        c.here.foldl (deliver c) (s.modWg wg (putColl warp c.pc none))
      else s.modWg wg (putColl warp c.pc (some { c with origin := clock }))) s

/-! ### Harvest (R87, R153, R177, R178) -/

/-- The operation of a node of the tree; NaN results are canonical (R177). -/
def harvestOp (h : Harvest) (a b : Nat) : Nat :=
  if 16 ≤ h.ty then
    let F := fmtOf h.ty
    if h.op = 0 then (fpAdd F h.rm false a b).1 else (fpMinMax F (h.op = 2) false a b).1
  else
    let x := readInt h.ty a
    let y := readInt h.ty b
    if h.op = 0 then wrapNat (typeWidth h.ty) (x + y)
    else if h.op = 1 then wrapNat (typeWidth h.ty) (min x y)
    else if h.op = 2 then wrapNat (typeWidth h.ty) (max x y)
    else if h.op = 3 then a &&& b
    else if h.op = 4 then a ||| b
    else a ^^^ b

/-- One level of the tree of R87. -/
def treeLevel (op : Nat → Nat → Nat) : List Nat → List Nat
  | a :: b :: l => op a b :: treeLevel op l
  | l => l

/-- The tree of R87. -/
def treeOf (op : Nat → Nat → Nat) : Nat → List Nat → Nat
  | _, [] => 0
  | _, [a] => a
  | 0, a :: _ => a
  | fuel + 1, l => treeOf op fuel (treeLevel op l)

/-- The value of a completed reduction, in 64 bits (R66, R177). -/
def harvestValue (h : Harvest) : DWord :=
  let v := treeOf (harvestOp h) 11 (h.given.map (fun p => p.2.toNat))
  let v := if 16 ≤ h.ty && (unpack (fmtOf h.ty) v).isNan then (fmtOf h.ty).nanBits else v
  if h.ty = 10 then sext64 32 v else BitVec.ofNat 64 (v % 2 ^ typeWidth h.ty)

/-- A reduction completes once every living thread of its set has contributed. -/
def settleHarvest (wg n : Nat) (s : State) : State :=
  match look wg s.wgs with
  | none => s
  | some w =>
    match nth none n w.harvest with
    | none => s
    | some h =>
      if (namedThreads s wg h.range.toNat).all (fun p => (look p.2.tlin h.given).isSome) then
        s.modWg wg (fun w => { w with
          hval := setNth (harvestValue h) n w.hval, hseq := setNth h.seq n w.hseq
          harvest := setNth none n w.harvest })
      else s

/-- OP and RM of REDH. -/
def mHOP (f : Fields) : Nat := bits f.mod.toNat 4 2
def mHRM (f : Fields) : Nat := bits f.mod.toNat 1 0

/-- The encoding of REDH (R177). -/
def redhEnc (f : Fields) : Enc :=
  let w := typeWidth (mTYPE f)
  { modOk := (if mHOP f ≤ 2 then [10, 11, 14, 15, 18, 19].contains (mTYPE f)
      else mHOP f ≤ 5 && (mTYPE f = 2 || mTYPE f = 3)) && (mHRM f = 0 || (mHOP f = 0 && decide (16 ≤ mTYPE f)))
    dst := .dst 1 { h := true }, sa := .src (regsFor w) { g := true }
    sb := .src 1 lane4, sc := if mIM f then .raw else .src 1 { g := true, s := true }, tdOk := false }

/-- REDH for one thread. -/
def redhBody (f : Fields) : Body := fun _ t l s =>
  let n := f.dst.toNat - 0xF0
  let range := nth 0 1 l
  let seq : BitVec 16 := BitVec.ofNat 16 (nth 0 2 l)
  let new : Harvest := ⟨mHOP f, mTYPE f, mHRM f, BitVec.ofNat 32 range, seq, []⟩
  match look t.wg s.wgs with
  | none => .trap (trapBefore cIllegalOperand)
  | some w =>
    let give (h : Harvest) : LaneOut :=
      let s := s.modWg t.wg (fun w => { w with
        harvest := setNth (some { h with given := put t.tlin (BitVec.ofNat 64 (nth 0 0 l)) h.given }) n w.harvest
        hlast := setNth (s.ctx t.fn).clock n w.hlast })
      .done [] (settleHarvest t.wg n s)
    if t.apprentice then .trap (trapBefore cIllegalInstruction)
    else if rangeBad s t range then .trap (trapBefore cIllegalOperand)
    else
      match nth none n w.harvest with
      | none => give new
      | some h =>
        if h.seq != seq || (look t.tlin h.given).isSome then .stall ⟨11, 18, n⟩ true
        else if h.op = new.op && h.ty = new.ty && h.rm = new.rm && h.range = new.range then give h
        else .trap (trapBefore cIllegalOperand)

/-- REDH (R177). -/
def execRedh (f : Fields) (s : State) : Out1 :=
  answer (formOf f (redhEnc f) (if mIM f then some f.sc.toNat else none)) (redhBody f) s

/-- The encoding of HGET (R178). -/
def hgetEnc (f : Fields) : Enc :=
  { modOk := (mTYPE f = 2 || mTYPE f = 3) && bits f.mod.toNat 4 0 = 0
    dst := .dst (regsFor (typeWidth (mTYPE f))) { s := true }, sa := .src 1 { h := true }
    sb := if mIM f then .none else .src 1 { s := true }, sc := if mIM f then .raw else .none, tdOk := false }

/-- How far an h-register is past a sequence number. -/
def seqAhead (w : Workgroup) (n : Nat) (seq : Nat) : Int :=
  sextInt 16 ((nth 0 n w.hseq) - BitVec.ofNat 16 seq).toNat

/-- HGET for the bundle. -/
def hgetBody (f : Fields) : Body := fun k t l s =>
  let n := f.sa.toNat - 0xF0
  match look t.wg s.wgs with
  | none => .trap (trapBefore cIllegalOperand)
  | some w =>
    let d := seqAhead w n (nth 0 1 l)
    if t.apprentice then .trap (trapBefore cIllegalInstruction)
    else if d < 0 || (loggedOutcome s k t.fn 5 = some 1 && d = 0) then .stall ⟨11, 3, n⟩ true
    else if d = 0 then .done [(nth 0 n w.hval).toNat] (noteOutcome k t.fn 5 0 s)
    else .fail (trapBefore cIllegalOperand) (noteOutcome k t.fn 5 1 s)

/-- HGET (R178). Apprentice threads of a bundle trap for themselves (R160). -/
def execHget (f : Fields) (s : State) : Out1 :=
  answer { formOf f (hgetEnc f) (if mIM f then some f.sc.toNat else none) with byRole := true } (hgetBody f) s

/-- Whether some threads that stalled in one HGET still wait: the sequence number that the first of them read for
their bundle is not there (R178). -/
def hgetWaits (w : Workgroup) (n : Nat) (ts : List Thread) : Bool :=
  match ts.findSome? (·.held) with
  | some l => decide (seqAhead w n (nth 0 1 l) < 0)
  | none => true

/-- The threads of a workgroup that began to wait in HGET with one of them, for the same sequence number. -/
def hgetMates (s : State) (t : Thread) : Tbl Thread :=
  (s.threadsOf t.wg).filter (fun p =>
    p.2.stall = t.stall && p.2.stallFrom = t.stallFrom && p.2.pc = t.pc && p.2.held = t.held)

/-- HGET_STALL (R178): the count runs from the later of the last contribution and the beginning of the
wait; every thread of the workgroup that began to wait with this one traps, if the value has not come. The detail word
counts no arrivals and no participants (in part DEDUCED, log 39). -/
def execHgetStall (thread : Nat) (s : State) : Out1 :=
  match look thread s.threads with
  | none => .next s
  | some t =>
    match t.stall, t.stallFrom, look t.wg s.wgs with
    | some ⟨11, 3, n⟩, some since, some w =>
      let l := hgetMates s t
      if !stallDue s t.fn (coreOf thread) (max since (nth 0 n w.hlast)) || !hgetWaits w n (l.map (·.2)) then .next s
      else .next (stallTrap (l.map (·.1)) (stallDetail (0x80 + n) 0 0) s)
    | _, _, _ => .next s

/-! ### PAUSE, SUSPEND, event counters (R161, R162, R179-R181) -/

/-- PAUSE (R179). -/
def execPause (f : Fields) (s : State) : Out1 :=
  answer (formOf f { modOk := bits f.mod.toNat 9 0 = 0, sa := (countRoles f).1, sb := (countRoles f).2 })
    (fun k t l s =>
      let n := countOf f l
      .done [] (if n = 0 then s
        else s.modThread k (fun u => { u with pauseTill := some ((s.ctx t.fn).pcycle + n) }))) s

/-- PAUSE_EXPIRY (R161, R179): at a regroup boundary after the cycles have passed, the first of which is the cycle of the
issue (in part DEDUCED, log 87). -/
def execPauseExpiry (thread : Nat) (s : State) : Out1 :=
  match look thread s.threads with
  | none => .next s
  | some t =>
    match t.pauseTill with
    | none => .next s
    | some c =>
      if (s.ctx t.fn).pcycle < c || (s.ctx t.fn).pcycle % 4 != 0 then .next s
      else .next (s.modThread thread (fun t => { t with pauseTill := none }))

/-- Whether a counter has reached a target (R162). -/
def reached (v target : Word) : Bool := !(v - target).msb

/-- A suspended thread resumes at its continuation. -/
def resume (now : Nat) (t : Thread) : Thread :=
  match t.wait with
  | some (.suspended cont _ _ _) => { goOn now t with pc := cont }
  | _ => t

/-- A wake event of a workgroup ends the IDLE of its threads (R381). -/
def wakeIdle (wg : Nat) (s : State) : State :=
  { s with threads := s.threads.map (fun p =>
      match p.2.wait with
      | some (.idle _) => if p.2.wg = wg then (p.1, goOn (s.ctx p.2.fn).pcycle p.2) else p
      | _ => p) }

/-- Wake the threads of a workgroup that wait for an event counter's value (R162). -/
def wakeEvents (wg n : Nat) (s : State) : State :=
  let v := ((look wg s.wgs).map (fun w => nth 0 n w.ev)).getD 0
  { s with threads := s.threads.map (fun p =>
      match p.2.wait with
      | some (.suspended _ false i target) =>
        if p.2.wg = wg && i = n && reached v target then (p.1, resume (s.ctx p.2.fn).pcycle p.2) else p
      | _ => p) }

/-- The task queue of a workgroup's binding, as its key; none when it is not bound. -/
def boundQueue (w : Workgroup) (n : Nat) : Option Nat :=
  let q := nth 0xFFFF n w.bind
  if q = 0xFFFF then none else some (queueKey w.fn q)

/-- The Task Queue Controller has completed something for a queue: a Foreman thread whose wait packet names that is
ready (R389). -/
def taskDone (q : Nat) (s : State) : State :=
  { s with foreman := s.foreman.map (fun p => if p.2.queue = q && p.2.onTask then (p.1, { p.2 with running := true }) else p) }

/-- A task queue's event counter has risen: the threads that wait for it wake (R162, R260, R381). -/
def wakeQueue (q : Nat) (s : State) : State :=
  match look q s.queues with
  | none => s
  | some v =>
    let s := (s.wgs.filter (fun p => (upto 16).any (fun i => boundQueue p.2 i = some q))).foldl
      (fun s p => wakeIdle p.1 s) s
    { s with threads := s.threads.map (fun p =>
        match p.2.wait with
        | some (.suspended _ true i target) =>
          if (look p.2.wg s.wgs).bind (boundQueue · i) = some q && reached v.events target then
            (p.1, resume (s.ctx p.2.fn).pcycle p.2)
          else p
        | _ => p) }

/-- The value of the counter that a SUSPEND names; none when the binding is not bound (R180). -/
def suspendCounter (s : State) (w : Workgroup) (tq : Bool) (n : Nat) : Option Word :=
  if tq then (boundQueue w n).map (fun q => ((look q s.queues).map (·.events)).getD 0)
  else some (nth 0 n w.ev)

/-- SUSPEND (R162, R180): the thread's dirty frame lines are written back (R194). A continuation out of the address space
is found before a binding that is not bound (in part DEDUCED, log 87). -/
def execSuspend (f : Fields) (s : State) : Out1 :=
  answer (formOf f { loopEnc f with modOk := bits f.mod.toNat 8 4 = 0 && decide (bits f.mod.toNat 10 9 ≤ 1) })
    (fun k t l s =>
      let cont := relative t.pc (loopDisp f)
      let tq := bits f.mod.toNat 10 9 = 1
      let n := mBAR f
      if 2 ^ 57 ≤ cont then .trap (trapBefore cAccessViolation 2)
      else
        match (look t.wg s.wgs).bind (fun w => suspendCounter s w tq n) with
        | none => .trap (trapBefore cIllegalOperand)
        | some v =>
          let target := BitVec.ofNat 32 (nth 0 0 l)
          if reached v target then .jump (BitVec.ofNat 64 cont) s
          else if !frameRoom s k t (ocSync { t with wrote := [] }).wrote then .stall ⟨15, 13, 0⟩ false
          else .wait (.suspended (BitVec.ofNat 64 cont) tq n target)
            (cleanFrame k (s.modThread k (fun t => { endTrans (ocSync t) with oc := [], fills := [] })))) s

/-- The object of an event counter, and whether a replay serves this thread next (R368, R370). -/
def eventReady (s : State) (k : Nat) (t : Thread) (n event : Nat) : Bool :=
  orderReady s t.fn 4 (s.coreNo t.fn (coreOf k)) (wgObject t.wg n) (laneAgent k) event
def eventDone (k : Nat) (t : Thread) (n event : Nat) (s : State) : State :=
  orderPoint t.fn 4 (s.coreNo t.fn (coreOf k)) (wgObject t.wg n) (laneAgent k) event none s

/-- The encoding of EVADD (R181). -/
def evaddEnc (f : Fields) : Enc :=
  { modOk := bits f.mod.toNat 9 4 = 0, dst := .dst 1 { g := true, z := true }
    sa := (countRoles f).1, sb := (countRoles f).2 }

/-- EVADD (R181). -/
def execEvadd (f : Fields) (s : State) : Out1 :=
  answer (formOf f (evaddEnc f))
    (fun k t l s =>
      let n := mBAR f
      let a : Word := BitVec.ofNat 32 (if mIM f then wrapNat 32 (sextInt 8 f.sb.toNat) else nth 0 0 l)
      let old := ((look t.wg s.wgs).map (fun w => nth 0 n w.ev)).getD 0
      if !eventReady s k t n 2 then .stall ⟨15, 0, 0⟩ false
      else
        let s := eventDone k t n 2 (s.modWg t.wg (fun w => { w with ev := setNth (old + a) n w.ev }))
        .done [old.toNat] (wakeEvents t.wg n (if a = 0 then s else wakeIdle t.wg s))) s

/-- EVGET (R181) (in part DEDUCED, log 74). -/
def execEvget (f : Fields) (s : State) : Out1 :=
  answer (formOf f { modOk := bits f.mod.toNat 10 4 = 0, dst := .dst 1 { g := true, s := true } })
    (fun k t _ s =>
      let n := mBAR f
      if !eventReady s k t n 0 then .stall ⟨15, 0, 0⟩ false
      else .done [(((look t.wg s.wgs).map (fun w : Workgroup => nth 0 n w.ev)).getD 0).toNat] (eventDone k t n 0 s)) s

/-! ### The regroup boundary (R142) -/

/-- Bundles of threads that share a program counter: the nth holds, for each lane, the nth of the
threads there, which are given in ascending warp position. -/
def bundlesOf (ks : List Nat) : List (List Nat) :=
  let rank (k : Nat) : Nat := (ks.filter (fun j => laneOf j = laneOf k && decide (j < k))).length
  (groupBy rank ks).map (sortBy laneOf)

/-- The bundles of a core's slots as a boundary forms them. -/
def regroup (s : State) (core : Nat) : List (List Nat) :=
  let ts := s.threads.filter (fun p => coreOf p.1 = core && bundled p.2)
  (upto 4).flatMap (fun slot =>
    let here := ts.filter (fun p => slotOf p.1 = slot)
    (groupBy (fun p => 2 * p.2.pc.toNat + one p.2.pauseTill.isSome) here).flatMap
      (fun g => bundlesOf (g.map (·.1))))

/-- The broadcast address of a slot as a boundary finds it: that of most bundle members (R145). -/
def bcastOf (s : State) (bundles : List (List Nat)) (slot : Nat) : Option Nat :=
  mostPc s (bundles.flatten.filter (fun k => slotOf k = slot))

/-- The words of a run from an address on; none where the run does not reach it. -/
def runFrom (a : Option Nat) (l : List CodeWord) : List CodeWord :=
  match a with
  | none => []
  | some a => l.dropWhile (fun w => w.va != a)

/-- A core after a regroup boundary: its bundles are formed anew, and each slot's stream follows the broadcast
address (R142, R145). -/
def regrouped (s : State) (core now : Nat) (c : Core) : Core :=
  let l := regroup s core
  let b := (upto 4).map (bcastOf s l)
  let follow := s.threads.filter (fun p => coreOf p.1 = core && nth none (slotOf p.1) b = some p.2.pc.toNat)
  { c with bundles := l, regroupAt := some now, bcast := b, streaming := follow.map (·.1)
           runs := (upto 4).map (fun n => runFrom (nth none n b) (nth [] n c.runs)) }

/-- REGROUP_BOUNDARY (R142, R145): once in a cycle that is a multiple of 4. -/
def execRegroupBoundary (core : Nat) (s : State) : Out1 :=
  match runningOn s core with
  | none => .next s
  | some fn =>
    let now := (s.ctx fn).pcycle
    if now % 4 != 0 || (s.core core).regroupAt = some now then .next s
    else .next (s.modCore core (regrouped s core now))

end Sys2Proof.Machine
end

