-- ==== Sys2Proof/Machine/Units.lean ====
section
/-! DEFINITION. Unit images (R346): the bulk state of a section's quadrant and step sequencer as the lines of its
image, what the undo log keeps of them, and how a unit passes from one context to another (R352). -/

namespace Sys2Proof.Machine

/-! ### The lines of an image -/

/-- `n` cells of a table from one on, each as so many bytes. -/
def cellBytes {w : Nat} (size first n : Nat) (t : Tbl (BitVec w)) : List Byte :=
  (upto n).flatMap (fun i => toBytes size ((look (first + i) t).getD 0).toNat)

/-- A plane's tag: format code, PLANES, RMODE, 0. -/
def planeTag (p : Plane) : List Byte := toBytes 1 p.code ++ toBytes 1 p.planes ++ toBytes 1 p.rmode ++ toBytes 1 0

/-- Lines 5,121 to 5,135: the step sequencer. -/
def sequencerBytes (q : Section) : List Byte :=
  bytesAt 0 1920 (q.slots.flatMap (fun x => bytesAt 0 64 ((x.map (·.desc)).getD []))
    ++ q.slots.flatMap (fun x => toBytes 4 ((x.map (·.steps.toNat)).getD 0))
    ++ toBytes 512 (maskOf q.skip) ++ toBytes 512 (maskOf q.valid))

/-- A line of a section's unit image (R346). -/
def unitLine (v : Section) (n : Nat) : List Byte :=
  if n < 1536 then cellBytes 2 (64 * n) 64 v.planeS.w
  else if n < 3072 then cellBytes 2 (64 * (n - 1536)) 64 v.planeH.w
  else if n < 3840 then cellBytes 4 (32 * (n - 3072)) 32 v.acc0
  else if n < 4608 then cellBytes 4 (32 * (n - 3840)) 32 v.acc1
  else if n < 5120 then cellBytes 4 (32 * (n - 4608)) 32 v.scales
  else if n = 5120 then bytesAt 0 128 (planeTag v.planeS ++ planeTag v.planeH)
  else bytesAt (128 * (n - 5121)) 128 (sequencerBytes v)

/-- Lines 0 to 5,120: the quadrant. -/
def quadrantBytes (v : Section) : List Byte := (upto 5121).flatMap (unitLine v)

/-- Put bytes into a table as cells of so many bytes from one on; a zero is not listed. -/
def putCells {w : Nat} (size first : Nat) (b : List Byte) (t : Tbl (BitVec w)) : Tbl (BitVec w) :=
  (upto (b.length / size)).foldl (fun t i =>
    let v := BitVec.ofNat w (valAt (size * i) size b)
    if v = 0 then drop (first + i) t else put (first + i) v t) t

/-- A plane with the tag of four bytes. -/
def retag (b : List Byte) (p : Plane) : Plane :=
  { p with code := valAt 0 1 b, planes := valAt 1 1 b, rmode := valAt 2 1 b }

/-- The step sequencer that its bytes describe: the queue that a slot names is that of `names`, as no image holds it
(in part DESIGN CHOICE, log 83). -/
def sequencerFrom (names : List (Option RegionSlot)) (b : List Byte) (v : Section) : Section :=
  { v with
    slots := (upto 4).map (fun i =>
      let d := bytesAt (64 * i) 64 b
      if d.all (· = 0) then none
      else (nth none i names).map (fun r => { r with desc := d, steps := BitVec.ofNat 32 (valAt (256 + 4 * i) 4 b) }))
    skip := (upto 4096).filter (fun i => bit (nth 0 (272 + i / 8) b).toNat (i % 8))
    valid := (upto 4096).filter (fun i => bit (nth 0 (784 + i / 8) b).toNat (i % 8)) }

/-- Put the bytes of a line of the image into the section. -/
def setUnitLine (names : List (Option RegionSlot)) (n : Nat) (b : List Byte) (v : Section) : Section :=
  if n < 1536 then { v with planeS := { v.planeS with w := putCells 2 (64 * n) b v.planeS.w } }
  else if n < 3072 then { v with planeH := { v.planeH with w := putCells 2 (64 * (n - 1536)) b v.planeH.w } }
  else if n < 3840 then { v with acc0 := putCells 4 (32 * (n - 3072)) b v.acc0 }
  else if n < 4608 then { v with acc1 := putCells 4 (32 * (n - 3840)) b v.acc1 }
  else if n < 5120 then { v with scales := putCells 4 (32 * (n - 4608)) b v.scales }
  else if n = 5120 then { v with planeS := retag b v.planeS, planeH := retag (b.drop 4) v.planeH }
  else sequencerFrom names (patch (128 * (n - 5121)) b (sequencerBytes v)) v

/-! ### The lines that a command changes -/

/-- The keys at which two tables differ. -/
def changedKeys {w : Nat} (a b : Tbl (BitVec w)) : List Nat :=
  distinct ((a ++ b).filterMap (fun p => if look p.1 a = look p.1 b then none else some p.1))

/-- The lines of the unit image that differ in two sections. -/
def changedLines (a b : Section) : List Nat :=
  distinct ((changedKeys a.planeS.w b.planeS.w).map (· / 64)
    ++ (changedKeys a.planeH.w b.planeH.w).map (fun k => 1536 + k / 64)
    ++ (changedKeys a.acc0 b.acc0).map (fun k => 3072 + k / 32)
    ++ (changedKeys a.acc1 b.acc1).map (fun k => 3840 + k / 32)
    ++ (changedKeys a.scales b.scales).map (fun k => 4608 + k / 32)
    ++ (if planeTag a.planeS = planeTag b.planeS && planeTag a.planeH = planeTag b.planeH then [] else [5120])
    ++ (if a.slots = b.slots && a.skip = b.skip && a.valid = b.valid then []
      else (upto 15).filterMap (fun i => if unitLine a (5121 + i) = unitLine b (5121 + i) then none else some (5121 + i))))

/-- Those of them that the undo log has no entry of in the epoch (R346). -/
def unloggedLines (s : State) (fn sect : Nat) (new : Section) : List Nat :=
  (changedLines (s.sect sect) new).filter (fun n => needsEntry s fn (.unit sect n))

/-- The log takes the lines of a unit image as they are before they change (R345, R346). -/
def logUnit (fn sect : Nat) (l : List Nat) (s : State) : State :=
  l.foldl (fun s n => addEntry fn (.unit sect n) (s.ctx fn).cidb (unitLine (s.sect sect) n) s) s

/-- Change a section's bulk state: the log takes first what it needs; none while it has no room (R346, R347). -/
def changeBulk (fn sect : Nat) (f : Section → Section) (s : State) : Option State :=
  let new := f (s.sect sect)
  let l := unloggedLines s fn sect new
  if undoHolds s fn l.length then some ((logUnit fn sect l s).setSect sect new) else none

/-! ### Images in memory -/

/-- Whether a context has a tenure of a section's quadrant, so that its image has content (R346): its latest state
image tells. -/
def keepsUnit (s : State) (fn sect : Nat) : Bool :=
  (((s.ctx fn).images.head?.bind (fun i => look sect i.sections)).bind (·.holder)).isSome

/-- The line of the tables that fails its integrity check when a unit image's lines are translated, and the first line
met that fails it when they are read (R205, R402). -/
def unitWalkFails (s : State) (fn sect : Nat) : Option (Nat × Nat) :=
  (upto Config.unitImageLines).findSome? (fun n => mappedFails s fn (4 * sect) (unitImage s fn sect + 128 * n))
def unitForeign (s : State) (fn sect : Nat) : Option (Nat × Nat) :=
  match unitWalkFails s fn sect with
  | some x => some x
  | none => (upto Config.unitImageLines).findSome? (fun n =>
      let pa := unitPa s fn sect n
      if foreign s (s.ctx fn).cidb pa then some (pa, (s.ctx fn).cidb) else none)

/-- The section's bulk state goes to the unit image of the context that it is of. -/
def saveUnit (sect : Nat) (s : State) : State :=
  match (s.sect sect).unitFn with
  | none => s
  | some fn =>
    if !keepsUnit s fn sect then s
    else
      match unitWalkFails s fn sect with
      | some x => integrityHalt fn (256 + s.sectNo fn sect) x s
      | none => (upto Config.unitImageLines).foldl (fun s n =>
          areaWrite fn (unitPa s fn sect n) (unitLine (s.sect sect) n) s) s

/-- A section's registers of its own stay when its tenure or its context changes; the rest is `new`'s. -/
def restoreSection (old new : Section) : Section :=
  { new with
    sqpat := old.sqpat, mxspare := old.mxspare, tlb2 := old.tlb2, engStalls := old.engStalls, retired := old.retired }

/-- The section with the bulk state that `new` has. -/
def withBulk (new v : Section) : Section :=
  { v with
    planeS := new.planeS, planeH := new.planeH, acc0 := new.acc0, acc1 := new.acc1, scales := new.scales
    slots := new.slots, skip := new.skip, valid := new.valid }

/-- The bulk state of a context comes back from its unit image (in part DESIGN CHOICE, log 83). -/
def loadUnit (fn sect : Nat) (s : State) : State :=
  let names := (((s.ctx fn).images.head?.bind (fun i => look sect i.sections)).map (·.slots)).getD []
  let new := (upto Config.unitImageLines).foldl (fun v n =>
    setUnitLine names n (memRead s.mem (unitPa s fn sect n) 128) v) Section.reset
  s.modSect sect (withBulk new)

/-- Whether a section's unit is in a context's hands. -/
def unitOurs (s : State) (fn sect : Nat) : Bool := (s.sect sect).unitFn = some fn

/-- A context's first use of a unit: what it holds of another context is saved, and the context's own bulk state
comes back (R346, R352). A line of its image that fails its integrity check is INTEGRITY_FAIL of the context, which does
not come to have the unit (R402). -/
def claimUnit (fn sect : Nat) (s : State) : State :=
  if unitOurs s fn sect then s
  else
    let s := (saveUnit sect s).modSect sect (fun v => { v with unitFn := none })
    let take (s : State) : State := s.modSect sect (fun v => { v with unitFn := some fn })
    if !keepsUnit s fn sect then take (s.modSect sect (withBulk .reset))
    else
      match unitForeign s fn sect with
      | some x => integrityHalt fn (256 + s.sectNo fn sect) x s
      | none => take (loadUnit fn sect s)

end Sys2Proof.Machine
end

