-- ==== Sys2Proof/Machine/Queues.lean ====
section
/-! DEFINITION. What every engine shares: command queues (R244-R246), completion words (R247, R248), guard
slots (R254), the conditions under which a command begins (R246, R251, R253, R254, R270, R344), an
engine's reads and writes (R198, R209, R252, R345), and COMMAND_COMPLETE. -/

namespace Sys2Proof.Machine

/-! ### Queues -/

/-- The commands of a queue, oldest first. -/
def queueOf (s : State) : QRef → List Cmd
  | .cp0 g => ((look g s.wgs).map (·.cp0)).getD []
  | .cp1 g => ((look g s.wgs).map (·.cp1)).getD []
  | .tk g => ((look g s.wgs).map (·.tk)).getD []
  | .ne g => ((look g s.wgs).map (·.ne)).getD []
  | .mx c => ((look c s.cohorts).map (·.mx)).getD []
  | .sq c => ((look c s.cohorts).map (·.sq)).getD []

def modQueueOf (q : QRef) (f : List Cmd → List Cmd) (s : State) : State :=
  match q with
  | .cp0 g => s.modWg g (fun w => { w with cp0 := f w.cp0 })
  | .cp1 g => s.modWg g (fun w => { w with cp1 := f w.cp1 })
  | .tk g => s.modWg g (fun w => { w with tk := f w.tk })
  | .ne g => s.modWg g (fun w => { w with ne := f w.ne })
  | .mx c => s.modCohort c (fun w => { w with mx := f w.mx })
  | .sq c => s.modCohort c (fun w => { w with sq := f w.sq })

/-- Id and depth of a queue (R244). -/
def queueId : QRef → Nat
  | .cp0 _ => 0 | .cp1 _ => 1 | .mx _ => 2 | .sq _ => 3 | .tk _ => 4 | .ne _ => 5
def queueDepth : QRef → Nat
  | .cp0 _ | .cp1 _ => Config.depthCP
  | .mx _ => Config.depthMX | .sq _ => Config.depthSQ | .tk _ => Config.depthTK | .ne _ => Config.depthNE

/-- The commands that stand in a queue: one that has begun has left it (R246). -/
def standing (l : List Cmd) : List Cmd := l.filter (fun c => !c.begun)
def queueFull (s : State) (q : QRef) : Bool := decide (queueDepth q ≤ (standing (queueOf s q)).length)

/-- The cohort whose guard slots a queue's commands name. -/
def queueCohort (s : State) : QRef → Nat
  | .cp0 g | .cp1 g | .tk g | .ne g => ((look g s.wgs).map (·.cohort)).getD 0
  | .mx c | .sq c => c

/-- The function whose queue it is, and the core whose translations its engine uses. -/
def queueFn (s : State) : QRef → Nat
  | .cp0 g | .cp1 g | .tk g | .ne g => ((look g s.wgs).map (·.fn)).getD 0
  | .mx c | .sq c => ((look c s.cohorts).map (·.fn)).getD 0
def queueCore (s : State) : QRef → Nat
  | .cp0 g | .cp1 g | .tk g | .ne g => ((look g s.wgs).map (·.core)).getD 0
  | .mx c | .sq c => 4 * ((look c s.cohorts).map (·.sect)).getD 0

/-- Whether a workgroup, or some workgroup of the owner of a queue, has a living thread. -/
def wgLive (s : State) (g : Nat) : Bool := s.threads.any (fun p => p.2.wg = g)
def ownerLive (s : State) : QRef → Bool
  | .cp0 g | .cp1 g | .tk g | .ne g => wgLive s g
  | .mx c | .sq c => ((look c s.cohorts).map (fun h => h.members.any (wgLive s))).getD false

/-- The queues of a workgroup and its cohort by id (R316). -/
def queuesOfWg (g : Nat) (w : Workgroup) : List QRef :=
  [.cp0 g, .cp1 g, .mx w.cohort, .sq w.cohort, .tk g, .ne g]

/-- Every queue of a cohort and its workgroups. -/
def queuesOfCohort (s : State) (c : Nat) : List QRef :=
  [.mx c, .sq c] ++ (((look c s.cohorts).map (·.members)).getD []).flatMap
    (fun g => [.cp0 g, .cp1 g, .tk g, .ne g])

/-- Commands that a workgroup pushed or signed, in every queue of it and its cohort. -/
def cohortCmds (s : State) (c : Nat) : List Cmd :=
  match look c s.cohorts with
  | none => []
  | some h => h.mx ++ h.sq ++ h.members.flatMap (fun g => ((look g s.wgs).map wgCmds).getD [])

/-! ### Parts of a command (R301) -/

/-- Whether a command's modifier follows R301: CPY, matrix, sequencer and network commands. -/
def hasTail (op : Nat) : Bool :=
  op = 0x282 || (decide (0x288 ≤ op) && decide (op ≤ 0x28D)) || (decide (0x2A0 ≤ op) && decide (op ≤ 0x2A4))
    || (decide (0x310 ≤ op) && decide (op ≤ 0x312))

/-- The guard slot that a command carries. -/
def Cmd.slot (c : Cmd) : Option Nat :=
  if hasTail c.op && c.mod.getLsbD 10 then some (bits c.mod.toNat 9 6) else none

/-- The completion queue that it names. -/
def Cmd.cq (c : Cmd) : Option Nat :=
  if c.op = 0x299 then some (bits c.mod.toNat 6 4)
  else if (hasTail c.op || c.op = 0x29A) && c.mod.getLsbD 5 then some (bits c.mod.toNat 4 2)
  else none

/-- Whether a command is a matrix command. -/
def isMatrix (op : Nat) : Bool := decide (0x288 ≤ op) && decide (op ≤ 0x28D)

/-- The DST, SA, SB and SC fields of a command as issued. -/
def Cmd.dst (c : Cmd) : Nat := bits c.flds.toNat 31 24

/-- The workgroup whose completion queue a command names (R301, R308); none where the cohort has none. -/
def Cmd.target (s : State) (q : QRef) (c : Cmd) : Option Nat :=
  if isMatrix c.op then
    (look (queueCohort s q) s.cohorts).bind (fun h =>
      if c.dst % 4 < h.csize then h.members[c.dst % 4]? else none)
  else some c.wg

/-- The state of a guard slot: 0 FREE, 1 OPEN, 2 TRUE, 3 FALSE. -/
def slotState (s : State) (cohort n : Nat) : Nat :=
  ((look cohort s.cohorts).map (fun h => nth 0 n h.guards)).getD 0
def setSlot (cohort n v : Nat) (s : State) : State :=
  s.modCohort cohort (fun h => { h with guards := setNth v n h.guards })

/-! ### Pushing (R245) -/

/-- A command of a thread, its values to be filled in. -/
def newCmd (f : Fields) (op k : Nat) (t : Thread) (s : State) : Cmd :=
  { id := 0, op := op, mod := f.mod, flds := BitVec.ofNat 32 (f.dst.toNat * 2 ^ 24 + f.sa.toNat * 2 ^ 16
      + f.sb.toNat * 2 ^ 8 + f.sc.toNat)
    va := 0, vb := 0, vc := 0, vd := 0, ext1 := f.ext1, ext2 := f.ext2, tlin := t.tlin
    wgic := ((look t.wg s.wgs).map (·.wgic)).getD 0, pusher := k, wg := t.wg, signers := []
    after := [(k, s.nextId)], fence := none, begun := false, done := none, progress := 0, data := []
    claim := none, parked := none, why := 0, reach := [], desc := [], answers := [], fate := none }

/-- Enter a command into a queue under a fresh name. -/
def enqueue (q : QRef) (c : Cmd) (s : State) : State :=
  let (id, s) := s.fresh
  modQueueOf q (fun l => l ++ [{ c with id := id }]) s

/-- The tail of R301 in a modifier: GSL and CQ are 0 when they are not used (in part DEDUCED, log 38). -/
def tailOk (f : Fields) : Bool :=
  (f.mod.getLsbD 10 || bits f.mod.toNat 9 6 = 0) && (f.mod.getLsbD 5 || bits f.mod.toNat 4 2 = 0)

/-- What keeps a command from being pushed: a guard slot that is FREE, a counter at its ceiling, or a
full queue (R245, R250, R301). `ceiling` is the counter and its stall reason. -/
def pushHold (s : State) (q : QRef) (c : Cmd) (ceiling : Option (Nat × Nat)) : Option (Sum TrapReq Stall) :=
  if c.slot.any (fun n => slotState s (queueCohort s q) n = 0) then some (.inl (trapBefore cIllegalOperand))
  else
    match ceiling with
    | some (n, reason) =>
      if 63 ≤ n then some (.inr ⟨reason, 0, 0⟩)
      else if queueFull s q then some (.inr ⟨9, 7, 0⟩) else none
    | none => if queueFull s q then some (.inr ⟨9, 7, 0⟩) else none

/-- Push a command, or say what holds it; then what else changes. -/
def pushOr (q : QRef) (c : Cmd) (ceiling : Option (Nat × Nat)) (also : State → State) (s : State) :
    LaneOut :=
  match pushHold s q c ceiling with
  | some (.inl r) => .trap r
  | some (.inr st) => .stall st false
  | none => .done [] (also (enqueue q c s))

/-! ### Beginning -/

/-- Stores, atomics and reductions that came before the push, of every pusher or signer, are
acknowledged or performed in the pool (R251, R285). -/
def storesDone (s : State) (c : Cmd) : Bool :=
  !s.ops.any (fun o => o.kind.writes && (!o.aperture || o.waiting)
    && c.after.any (fun a => a.1 = o.thread && decide (o.id < a.2)))

/-- Whether the tenure of the queue's cohort has run long enough for its first command (R270). -/
def tenureRipe (s : State) (q : QRef) : Bool :=
  match q with
  | .mx c | .sq c =>
    match look c s.cohorts with
    | some h => decide ((s.sect h.sect).tenureAt + Config.tenureDelay ≤ (s.ctx h.fn).pcycle)
    | none => false
  | _ => true

/-- Whether an engine works for a function at all: it runs and its halt line is down. -/
def engineOn (s : State) (fn : Nat) : Bool := (s.ctx fn).running && (s.ctx fn).halt.isNone

/-- The queues of a function's workgroups and cohorts, and the commands at their heads. -/
def queuesOfFn (s : State) (fn : Nat) : List QRef :=
  (s.wgs.filter (fun p => p.2.fn = fn)).flatMap (fun p => [.cp0 p.1, .cp1 p.1, .tk p.1, .ne p.1])
    ++ (s.cohorts.filter (fun p => p.2.fn = fn)).flatMap (fun p => [.mx p.1, .sq p.1])
def headIds (s : State) (fn : Nat) : List Nat := (queuesOfFn s fn).filterMap (fun q => (queueOf s q).head?.map (·.id))

/-- Whether a thread waits for the Task Queue Controller's answer to the command (R320)
(in part DEDUCED, log 36). -/
def awaited (s : State) (c : Cmd) : Bool :=
  (c.op = 0x298 || c.op = 0x29A) && ((look c.pusher s.threads).map (fun t => isPendP t (c.dst % 8))).getD false

/-- Whether a checkpoint request lets a head command begin: it was at its queue's head when the request was made, or
a thread waits for an answer to a command of its queue (R287, R320, R344) (in part DEDUCED, log 36). -/
def ckptLets (s : State) (q : QRef) (c : Cmd) : Bool :=
  match (s.ctx (queueFn s q)).ckpt with
  | none => true
  | some r => r.heads.contains c.id || (queueOf s q).any (awaited s)

/-- Whether the head command may begin now: its engine runs and does not hold for a checkpoint, its
slot is not OPEN, and what it must follow is done (in part DEDUCED, log 36). -/
def mayBegin (s : State) (q : QRef) (c : Cmd) : Bool :=
  let fn := queueFn s q
  engineOn s fn && !logSpent s fn && ckptLets s q c && !c.begun && c.done.isNone && c.parked.isNone
    && c.fence.isNone && storesDone s c && tenureRipe s q

/-- Whether a head command is discarded: its slot is FALSE, or OPEN with its owner gone (R254, R341). -/
def discarded (s : State) (q : QRef) (c : Cmd) : Bool :=
  match c.slot with
  | none => false
  | some n =>
    slotState s (queueCohort s q) n = 3 || (slotState s (queueCohort s q) n = 1 && !ownerLive s q)

/-- Whether an OPEN slot holds a head command. -/
def guardHeld (s : State) (q : QRef) (c : Cmd) : Bool :=
  match c.slot with
  | none => false
  | some n => slotState s (queueCohort s q) n = 1 && ownerLive s q

/-- Change the head of a queue. -/
def modHead (q : QRef) (f : Cmd → Cmd) (s : State) : State :=
  modQueueOf q (fun l => match l with
    | [] => []
    | c :: r => f c :: r) s

/-- The place in the stop area, which is the agent number, of the unit that serves a queue (R244, R339). -/
def agentOf (s : State) (q : QRef) : Nat :=
  let fn := queueFn s q
  let core := queueCore s q
  match q with
  | .cp0 _ => 384 + 2 * s.coreNo fn core
  | .cp1 _ => 384 + 2 * s.coreNo fn core + 1
  | .mx _ => 256 + s.sectNo fn (sectOf core)
  | .sq _ => 320 + s.sectNo fn (sectOf core)
  | .tk _ => 896 + dieOf core
  | .ne _ => 898 + dieOf core

/-- The unit of a queue advances its head command in this cycle (R366). -/
def unitMoved (q : QRef) (s : State) : State :=
  s.modCtx (queueFn s q) (fun c => { c with advanced := c.advanced.filter (· != agentOf s q) ++ [agentOf s q] })

/-- The head command's writes are done; STATUS and VALUE are what it will report (R248)
(in part DESIGN CHOICE, log 12). -/
def doneHead (q : QRef) (status value : Nat) (s : State) : State :=
  unitMoved q (modHead q (fun c => { c with
    begun := true, done := some (status, value % 2 ^ 24), claim := none, why := 0 }) s)

/-- Whether a command that has begun can go on: its engine runs, and the order log has room (R367). -/
def goesOn (s : State) (q : QRef) (c : Cmd) : Bool :=
  c.begun && c.done.isNone && c.parked.isNone && engineOn s (queueFn s q) && !logSpent s (queueFn s q)

/-- The section whose quadrant and step sequencer a queue's commands use. -/
def queueUnit (s : State) : QRef → Option Nat
  | .mx c | .sq c => some (((look c s.cohorts).map (·.sect)).getD 0)
  | _ => none

/-- Whether the unit of a queue is in its context's hands; the first command waits until it is (R352). -/
def unitReady (s : State) (q : QRef) : Bool := (queueUnit s q).all (unitOurs s (queueFn s q))

/-- The head command waits, for a cause of R366, while its unit comes into its context's hands (R346, R352). -/
def claimHead (q : QRef) (s : State) : State :=
  match queueUnit s q with
  | some sect => modHead q (fun c => { c with why := 6 }) (claimUnit (queueFn s q) sect s)
  | none => s

/-- Run the head of a queue if it is a command of the opcode and may begin, or has begun and can go on. -/
def beginHead (q : QRef) (op : Nat) (go : Cmd → State → State) (s : State) : State :=
  match queueOf s q with
  | [] => s
  | c :: _ =>
    if c.op = op && goesOn s q c then go c s
    else if c.op != op || !mayBegin s q c || guardHeld s q c then s
    else if discarded s q c then doneHead q 1 0 s
    else if !unitReady s q then claimHead q s
    else go c s

/-! ### An engine's reads and writes -/

/-- What stops an engine's access: it holds at the pool port, the undo log or an ordering point, for a cause of
R366; it waits for translation; it fails; or the line's integrity check does (R205, R402). -/
inductive EngStop where
  | hold (cause : Nat)
  | park (stage page va : Nat)
  | fault
  | integrity (pa cid : Nat)
  deriving DecidableEq, Repr

/-- Whether a replay serves an event of an agent on each of some lines next; the lines' loads are logged. -/
def linesReady (s : State) (fn agent event : Nat) (l : List Nat) : Bool :=
  l.all (fun i => orderReady s fn 1 (sliceOf (i * 128)) (BitVec.ofNat 64 i) agent event)
def linesDone (fn agent : Nat) (l : List Nat) (s : State) : State :=
  if recMode s fn = 0 then s
  else l.foldl (fun s i => orderPoint fn 1 (sliceOf (i * 128)) (BitVec.ofNat 64 i) agent 0 none s) s

/-- The sequence tag that a home slice gave last to a partition (R203). -/
def lastTag (s : State) (fn d : Nat) : Nat := ((look (partitionOf s fn) (s.slice (sliceOf d)).seqs).getD 0).toNat

/-- An agent's write to one line at its home slice: with its entry of the order log, which bears the tag (R368). -/
def lineStore (fn agent cid : Nat) (s : State) (p : Nat × List Byte) : State :=
  let s := lineWrite fn cid s p
  if recMode s fn = 0 then s
  else orderPoint fn 1 (sliceOf p.1) (BitVec.ofNat 64 (lineOf p.1)) agent 1 (some (lastTag s fn p.1)) s

/-- An engine of a function: its agent number at ordering points, and the core of its translations. -/
structure Eng where
  fn : Nat
  core : Nat
  agent : Nat
  /-- The command whose own claim does not hold its writes. -/
  self : Nat
  deriving DecidableEq, Repr

/-- Read device memory of the context at the home slices, in pieces that do not cross a page. -/
def engReadDev (e : Eng) : Nat → Nat → Nat → State → Sum EngStop (List Byte × State)
  | 0, _, _, s => .inr ([], s)
  | fuel + 1, va, n, s =>
    if n = 0 then .inr ([], s)
    else
      let m := min n (4096 - va % 4096)
      match engineXlat s e.fn e.core .read va m with
      | .park stage page va => .inl (.park stage page va)
      | .violation _ => .inl .fault
      | .integrity pa cid => .inl (.integrity pa cid)
      | .ok pa cid =>
        match firstForeign s cid pa m with
        | some x => .inl (.integrity x.1 x.2)
        | none =>
        if !linesReady s e.fn e.agent 0 (touched pa m) then .inl (.hold 6)
        else
          let bytes := memRead s.mem pa m
          match engReadDev e fuel (va + m) (n - m) (sliceReads e.fn cid pa m
            (linesDone e.fn e.agent (touched pa m) (sectXlat e.fn e.core va s).2)) with
          | .inl x => .inl x
          | .inr (rest, s) => .inr (bytes ++ rest, s)

/-- Write device memory of the context at the home slices; every line that needs an undo entry must
find room in the log (R345, R347). -/
def engWriteDev (e : Eng) : Nat → Nat → List Byte → State → Sum EngStop State
  | 0, _, _, s => .inr s
  | fuel + 1, va, l, s =>
    if l.isEmpty then .inr s
    else
      let m := min l.length (4096 - va % 4096)
      match engineXlat s e.fn e.core .write va m with
      | .park stage page va => .inl (.park stage page va)
      | .violation _ => .inl .fault
      | .integrity pa cid => .inl (.integrity pa cid)
      | .ok pa cid =>
        let lines := touched pa m
        let new := (lines.filter (fun i => needsUndo s e.fn (i * 128))).length
        match partForeign s cid pa m with
        | some x => .inl (.integrity x.1 x.2)
        | none =>
        if !undoHolds s e.fn new then .inl (.hold 1)
        else if !linesReady s e.fn e.agent 1 lines then .inl (.hold 5)
        else engWriteDev e fuel (va + m) (l.drop m)
          ((linePieces (m + 1) pa (l.take m)).foldl (lineStore e.fn e.agent cid) (sectXlat e.fn e.core va s).2)

/-- Whether scratchpad bytes lie under another command's claim (R198). -/
def claimedByOther (s : State) (self wg off n : Nat) : Bool :=
  (allCmds s).any (fun c => c.id != self && match c.claim with
    | some (w, _, hi, ptr) => w = wg && decide (off < hi) && decide (ptr < off + n)
    | none => false)

/-- Read `n` bytes at an address of a command; an aperture address reaches the scratchpad of workgroup
`wg` (R197). -/
def engGet (e : Eng) (wg va n : Nat) (s : State) : Sum EngStop (List Byte × State) :=
  if inAperture va then
    match look wg s.wgs with
    | none => .inl .fault
    | some w => if w.spsize < padOffset va + n then .inl .fault else .inr (padRead w (padOffset va) n, s.modWg wg (padWarm (padOffset va) n))
  else engReadDev e (n / 4096 + 2) va n s

/-- The lines of a scratchpad that some bytes are in, and whether the undo log has room for those that need an entry
(R345, R347). -/
def padLines (off n : Nat) : List Nat := touched off n
def padsHold (s : State) (fn wg off n : Nat) : Bool :=
  undoHolds s fn ((padLines off n).filter (fun i => needsEntry s fn (.pad wg i))).length

/-- Write bytes at an address of a command. -/
def engPut (e : Eng) (wg va : Nat) (l : List Byte) (s : State) : Sum EngStop State :=
  if inAperture va then
    match look wg s.wgs with
    | none => .inl .fault
    | some w =>
      if w.spsize < padOffset va + l.length then .inl .fault
      else if claimedByOther s e.self wg (padOffset va) l.length then .inl (.hold 5)
      else if !padsHold s e.fn wg (padOffset va) l.length then .inl (.hold 1)
      else .inr ((padLines (padOffset va) l.length).foldl (fun s i => logPad e.fn wg (i * 128) s) s |>.modWg wg
        (padWrite (padOffset va) l))
  else engWriteDev e (l.length / 4096 + 2) va l s

/-- A command's run over a list: the state, how many are done, what stopped it. -/
structure EngRun where
  s : State
  done : Nat
  stop : Option EngStop

/-- The engine that serves a queue, for its command `self` (R244, R339). -/
def engineOf (s : State) (q : QRef) (self : Nat) : Eng :=
  ⟨queueFn s q, queueCore s q, agentOf s q, self⟩

def engFold {α : Type} (f : α → State → Sum EngStop State) : List α → EngRun → EngRun
  | [], r => r
  | a :: l, r =>
    match f a r.s with
    | .inr s => engFold f l { r with s := s, done := r.done + 1 }
    | .inl x => { r with stop := some x }

/-- The head command parks on a page fault, if an entry of the die's queue is free (R209)
(in part DEDUCED, log 42). -/
def parkHead (q : QRef) (stage page va kind : Nat) (s : State) : State :=
  let die := dieOf (queueCore s q)
  let (e, s) := takeEntry die (queueFn s q) stage page va kind s
  match e with
  | some e => modHead q (fun c => { c with parked := some (die, e), begun := true, why := 8 }) s
  | none => modHead q (fun c => { c with begun := true, why := 8 }) s

/-- What becomes of a command that an access stops before it has changed anything: it tries again
later, parks, or ends with a status (in part DEDUCED, log 42, DEDUCED, log 47). -/
def stopHead (q : QRef) (status value : Nat) (x : EngStop) (s : State) : State :=
  match x with
  | .hold cause => modHead q (fun c => { c with begun := true, why := cause }) s
  | .park stage page va => parkHead q stage page va 0 s
  | .fault => doneHead q status value s
  | .integrity pa cid => integrityHalt (queueFn s q) (engineOf s q 0).agent (pa, cid) s

/-- The head command is done, with the pieces that it has done for its stop record (R340). -/
def doneAt (q : QRef) (status value : Nat) (reach : List Nat) (s : State) : State :=
  modHead q (fun c => { c with reach := reach }) (doneHead q status value s)

/-- A command's end, or what stopped it. With FAULT the writes before the fault stay; a command that holds or
parks has done nothing yet but note, by `keep`, how far it has come. -/
def finishRun (q : QRef) (s0 : State) (r : EngRun) (keep : Cmd → Cmd) (okValue : Nat) (faultValue : Nat → Nat)
    (reach : List Nat) : State :=
  match r.stop with
  | none => doneAt q 0 okValue reach r.s
  | some .fault => doneAt q 2 (faultValue r.done) reach r.s
  | some x => modHead q keep (stopHead q 2 0 x s0)

/-- A command changes its section's bulk state and goes on, or holds until the undo log has room for the lines that it
changes, with what it has come to (R346). -/
def changeUnit (q : QRef) (sect : Nat) (f : Section → Section) (keep : Cmd → Cmd) (go : State → State) (s : State) :
    State :=
  match changeBulk (queueFn s q) sect f s with
  | some s => go s
  | none => modHead q keep (stopHead q 2 0 (.hold 1) s)

/-- The end of a command that changes bulk state by what it has read; also a fault leaves what came before it, and
what it has read stays read where it must wait. -/
def finishUnit (q : QRef) (sect : Nat) (f : Section → Section) (r : EngRun) (keep : Cmd → Cmd) (okValue : Nat)
    (faultValue : Nat → Nat) (reach : List Nat) : State :=
  match r.stop with
  | none | some .fault =>
    changeUnit q sect f keep (fun s => finishRun q s { r with s := s } keep okValue faultValue reach) r.s
  | some _ => finishRun q r.s r keep okValue faultValue reach

/-! ### COMMAND_COMPLETE (R246-R248, R253, R258, R271) -/

/-- A completion word. -/
def completionWord (q : QRef) (status value : Nat) : Word :=
  BitVec.ofNat 32 (status * 2 ^ 28 + queueId q * 2 ^ 24 + value % 2 ^ 24)

/-- Whether the completion queue that a command names has no place (R247). -/
def cqFull (s : State) (q : QRef) (c : Cmd) : Bool :=
  match c.cq, c.target s q with
  | some n, some g =>
    wgLive s g && ownerLive s q
      && decide (Config.depthCQ ≤ (((look g s.wgs).map (fun w => nth [] n w.cq)).getD []).length)
  | _, _ => false

/-- Push the completion word; with the owner gone it is pushed nowhere (R341) (in part DEDUCED, log 44). -/
def pushWord (q : QRef) (c : Cmd) (status value : Nat) (s : State) : State :=
  match c.cq, c.target s q with
  | some n, some g =>
    if wgLive s g && ownerLive s q then
      wakeIdle g (s.modWg g (fun w => { w with
        cq := setNth (nth [] n w.cq ++ [completionWord q status value]) n w.cq
        popped := if queueId q = 4 && status = 0 then
            put n ((look n w.popped).getD [] ++ [if c.op = 0x299 then c.data else []]) w.popped
          else w.popped }))
    else s
  | _, _ => s

/-- The counters that a command leaves: cp, the batch tag, tl of every signer or of the pusher (R250). -/
def leaveCounters (c : Cmd) (s : State) : State :=
  if c.op = 0x282 then s.modThread c.pusher (fun t => { t with cp := t.cp - 1 })
  else if c.op = 0x280 then
    let n := bits c.mod.toNat 7 5
    s.modThread c.pusher (fun t => { t with cp := t.cp - 1, tags := setNth (nth 0 n t.tags - 1) n t.tags })
  else if isMatrix c.op then
    c.signers.foldl (fun s k => s.modThread k (fun t => { t with tl := t.tl - 1 })) s
  else if 0x2A0 ≤ c.op && c.op ≤ 0x2A4 then s.modThread c.pusher (fun t => { t with tl := t.tl - 1 })
  else s

/-- The source address of an ACP (R303). -/
def acpSource (c : Cmd) : Nat := wrapNat 64 ((c.va.toNat : Int) + sextInt 64 c.ext1.toNat)

/-- A failed ACP is kept in the thread's error latch, unless it is set: GONE or FAULT, and the source
address (R304). -/
def latchAcp (c : Cmd) (status : Nat) (s : State) : State :=
  if c.op = 0x280 && (status = 2 || status = 3) then
    s.modThread c.pusher (fun t => { t with
      latch := if t.latch.isSome then t.latch else some (status = 3, BitVec.ofNat 64 (acpSource c)) })
  else s

/-- All entries of a fence are at the heads of their queues: they leave together (R253). -/
def leaveFence (s : State) (n : Nat) (qs : List QRef) : State :=
  let named := qs.filter (fun q => (queueOf s q).any (fun c => c.fence = some n))
  if named.all (fun q => (queueOf s q).head?.map (·.fence) = some (some n)) then
    named.foldl (fun s q => modQueueOf q (fun l => l.filter (fun c => c.fence != some n)) (unitMoved q s)) s
  else s

/-- A removed workgroup's name in its cohort, and in the commands of its that the cohort's queues still hold: none of
them is the workgroup's that takes its place (R291, R295). -/
def retireMember (g n : Nat) (h : Cohort) : Cohort :=
  let gone : List Cmd → List Cmd := List.map (fun c => if c.wg = g then { c with wg := deadName g n } else c)
  { h with members := h.members.map (fun m => if m = g then deadName m n else m), mx := gone h.mx, sq := gone h.sq }

/-- A cohort whose workgroups are gone and whose MX and SQ queues are empty ceases, and with it its tenure
(R270) (in part DEDUCED, log 43). -/
def reapCohort (c : Nat) (s : State) : State :=
  match look c s.cohorts with
  | none => s
  | some h =>
    if h.members.any (fun g => (look g s.wgs).isSome) || !h.mx.isEmpty || !h.sq.isEmpty then s
    else
      { s with cohorts := drop c s.cohorts }.modSect h.sect
        (fun q => if q.holder = some c then { q with holder := none } else q)

/-- What a workgroup that ceases has in flight: writes of its scratchpad go with it, the rest keeps no place of the
workgroup that may come after it (R117, R147). -/
def leaveOps (g n : Nat) (s : State) : State :=
  { s with ops := (s.ops.filter (fun o => !(o.wg = g && o.aperture))).map (fun o =>
      if o.wg = g then { o with wg := deadName g n } else o) }

/-- A workgroup whose last thread has exited ceases once no command of its queues is left, nor, with all
of its cohort gone, of its cohort's (R147, R341) (in part DEDUCED, log 43). -/
def reapWg (g : Nat) (s : State) : State :=
  match look g s.wgs with
  | none => s
  | some w =>
    let q := ((look w.cohort s.cohorts).map (fun h =>
      (h.mx.isEmpty && h.sq.isEmpty) || h.members.any (wgLive s))).getD true
    if wgLive s g || !(wgCmds w).isEmpty || !q then s
    else
      let (n, s) := s.fresh
      endLaunches w.fn (settlePool w.core
        (reapCohort w.cohort ({ leaveOps g n s with wgs := drop g s.wgs }.modCohort w.cohort (retireMember g n))))

/-- The workgroups that a queue's commands keep. -/
def reapOwners (q : QRef) (s : State) : State :=
  match q with
  | .cp0 g | .cp1 g | .tk g | .ne g => reapWg g s
  | .mx c | .sq c => (((look c s.cohorts).map (·.members)).getD []).foldl (fun s g => reapWg g s) s

/-- COMMAND_COMPLETE: the head command whose writes are done leaves with its word, or a fence whose
entries are all at their heads leaves. -/
def execCommandComplete (q : QRef) (s : State) : Out1 :=
  match queueOf s q with
  | [] => .next s
  | c :: rest =>
    if !engineOn s (queueFn s q) then .next s
    else
      match c.fence with
      | some n => .next (reapOwners (.mx (queueCohort s q)) (leaveFence s n (queuesOfCohort s (queueCohort s q))))
      | none =>
        match c.done with
        | none => .next s
        | some (status, value) =>
          if cqFull s q c then .next s
          else
            let s := modQueueOf q (fun _ => rest) (unitMoved q s)
            .next (reapOwners q (latchAcp c status (leaveCounters c (pushWord q c status value s))))

end Sys2Proof.Machine
end

