-- ==== Sys2Proof/Machine/Engines.lean ====
section
/-! DEFINITION. Class 5, the Copy Engine and queue control: ACP, TAGW, CPY, WPTR (R255-R258, R303-R307),
QFENCE, GUARD, GRES, WAIT (R253, R254, R316-R318), and the steps that run copies. -/

namespace Sys2Proof.Machine

/-- An address operand of class 5: an even pair, or zr (R300) (in part DEDUCED, log 40). -/
def addr5 : Acc := { g := true, s := true, z := true }

/-- An access fails at an address beyond the address space or on the wrong side of the aperture: the
kind of R331. -/
def sideTrap (va : Nat) : TrapReq := violation (if 2 ^ 57 ≤ va then 2 else 7) va

/-! ### ACP (R258, R303, R304) -/

def mTAGN (f : Fields) : Nat := bits f.mod.toNat 7 5

/-- The encoding of ACP: v stays in SC in form 10. -/
def acpEnc (f : Fields) : Enc :=
  { modOk := bits f.mod.toNat 4 0 = 0, sa := .src 2 addr5, sb := .src 2 addr5
    sc := if mIM f then .raw else .src 1 lane4 }

/-- The signed displacement that form 10 adds. -/
def ext1Disp (f : Fields) : Int := if formExt f.form = 0 then 0 else sextInt 64 f.ext1.toNat

/-- ACP for one thread: the first trap of R303 that applies, then the push (in part DEDUCED, log 40). -/
def acpBody (f : Fields) : Body := fun k t l s =>
  let src := wrapNat 64 ((nth 0 0 l : Nat) + ext1Disp f)
  let dst := nth 0 1 l
  let v := nth 0 2 l
  if 2 ^ 57 ≤ src || inAperture src then .trap (sideTrap src)
  else if !inAperture dst then .trap (sideTrap dst)
  else if src % 4 != 0 then .trap (trapBefore cMisaligned 0 (BitVec.ofNat 64 src))
  else if dst % acpLen f.mod != 0 then .trap (trapBefore cMisaligned 0 (BitVec.ofNat 64 dst))
  else if acpLen f.mod < v then .trap (trapBefore cIllegalOperand)
  else
    pushOr (.cp1 t.wg)
      { newCmd f 0x280 k t s with
        va := BitVec.ofNat 64 (nth 0 0 l), vb := BitVec.ofNat 64 dst, vc := BitVec.ofNat 64 v }
      (some (max t.cp (nth 0 (mTAGN f) t.tags), 6))
      (fun s => s.modThread k (fun t => { t with
        cp := t.cp + 1, tags := setNth (nth 0 (mTAGN f) t.tags + 1) (mTAGN f) t.tags })) s

/-- ACP (R303). -/
def execAcp (f : Fields) (s : State) : Out1 :=
  answer (formOf f (acpEnc f) (if mIM f then some f.sc.toNat else none)) (acpBody f) s

/-- The ACP at the head of CP1 is performed (R258): it writes nothing where it fails (R304)
(in part DESIGN CHOICE, log 12). -/
def runAcp (wg : Nat) (c : Cmd) (s : State) : State :=
  let q := QRef.cp1 wg
  let len := acpLen c.mod
  let v := c.vc.toNat
  let size := ((look wg s.wgs).map (·.spsize)).getD 0
  let e := engineOf s q c.id
  if size < padOffset c.vb.toNat + len then doneHead q 3 0 s
  else
    match if v = 0 then .inr ([], s) else engGet e wg (acpSource c) v s with
    | .inl x => stopHead q 2 0 x s
    | .inr (b, s1) =>
      match engPut e wg c.vb.toNat (b ++ List.replicate (len - v) 0) s1 with
      | .inl x => stopHead q 3 0 x s
      | .inr s2 => doneHead q 0 0 s2

/-- ACP_COMMAND (R258). -/
def execAcpCommand (wg : Nat) (s : State) : Out1 := .next (beginHead (.cp1 wg) 0x280 (runAcp wg) s)

/-- The trap of a set ACP error latch (R304, R331). -/
def latchTrap (l : Bool × DWord) : TrapReq := violation (if l.1 then 5 else 6) l.2.toNat

/-- A wait for copies ends: the latch traps and is cleared, or the pop of R249 takes place. -/
def copiesSeen (k : Nat) (t : Thread) (useLatch : Bool) (acquire : Bool) (s : State) : LaneOut :=
  match t.latch with
  | some l =>
    if useLatch then .fail (latchTrap l) (s.modThread k (fun t => { t with latch := none }))
    else .done [] (if acquire then l1Acquire (coreOf k) s else s)
  | none => .done [] (if acquire then l1Acquire (coreOf k) s else s)

/-- TAGW (R305). -/
def execTagw (f : Fields) (s : State) : Out1 :=
  answer (formOf f { modOk := bits f.mod.toNat 9 3 = 0, sa := (countRoles f).1, sb := (countRoles f).2 })
    (fun k t l s =>
      if min (countOf f l) 63 < nth 0 (bits f.mod.toNat 2 0) t.tags then .stall ⟨6, 9, 0⟩ true
      else copiesSeen k t true true s) s

/-! ### CPY (R255-R257, R306) -/

/-- The encoding of CPY. -/
def cpyEnc (f : Fields) : Enc :=
  { modOk := tailOk f && !f.mod.getLsbD 0 && decide (f.dst.toNat < 8), dst := .raw, sa := .src 2 addr5
    tdOk := false }

/-- CPY (R306): channel 1 with MOD bit 1. -/
def execCpy (f : Fields) (s : State) : Out1 :=
  answer (formOf f (cpyEnc f))
    (fun k t l s =>
      pushOr (if f.mod.getLsbD 1 then .cp1 t.wg else .cp0 t.wg)
        { newCmd f 0x282 k t s with va := BitVec.ofNat 64 (nth 0 0 l) } (some (t.cp, 6))
        (fun s => s.modThread k (fun t => { t with cp := t.cp + 1 })) s) s

/-- Fields of a copy descriptor (R255). -/
def copyCtl (d : List Byte) : Nat := valAt 0x10 4 d
def copyEsz (d : List Byte) : Nat := bits (copyCtl d) 2 0
def copyPlanes (d : List Byte) : Nat := bits (copyCtl d) 12 9
def copyNdim (d : List Byte) : Nat := bits (copyCtl d) 8 6
def copySize (d : List Byte) : Nat := if copyEsz d = 5 then 32 * copyPlanes d else 2 ^ copyEsz d
def copyAlign (d : List Byte) : Nat := if copyEsz d = 5 then 16 else copySize d
def copyExtent (d : List Byte) (j : Nat) : Nat := if j ≤ copyNdim d then valAt (0x18 + 4 * j) 4 d else 1
def copyStride (d : List Byte) (off j : Nat) : Int := sextInt 64 (valAt (off + 8 * j) 8 d)
def copyTotal (d : List Byte) : Nat := (upto 7).foldl (fun n j => n * copyExtent d j) 1

/-- Whether a descriptor is well formed (R255, R256). -/
def copyOk (d : List Byte) : Bool :=
  valAt 0x14 4 d = 0 && valAt 0x34 4 d = 0 && (bytesAt 0xA8 24 d).all (· = 0)
    && bits (copyCtl d) 31 13 = 0 && bits (copyCtl d) 5 3 = 0 && decide (copyEsz d ≤ 5)
    && decide (copyNdim d ≤ 6)
    && (if copyEsz d = 5 then decide (2 ≤ copyPlanes d) && decide (copyPlanes d ≤ 8) else copyPlanes d = 0)
    && (upto 7).all (fun j => decide (j ≤ copyNdim d)
      || (copyStride d 0x38 j = 0 && copyStride d 0x70 j = 0))

/-- The address of element `n` in iteration order: a base and the strides from a descriptor offset. -/
def copyAddr (d : List Byte) (base strides n : Nat) : Nat :=
  let r := (upto 7).foldl (fun (acc : Int × Nat) j =>
    let x := copyExtent d j
    (acc.1 + (acc.2 % x : Nat) * copyStride d strides j, acc.2 / x)) ((base : Int), n)
  wrapNat 64 r.1

def copySrc (d : List Byte) (n : Nat) : Nat := copyAddr d (valAt 0 8 d) 0x38 n
def copyDst (d : List Byte) (n : Nat) : Nat := copyAddr d (valAt 8 8 d) 0x70 n

/-- The lowest byte and the end of what a copy's elements cover, from a base and its strides. -/
def copySpan (d : List Byte) (base strides : Nat) : Int × Int :=
  let spans := (upto 7).map (fun j => copyStride d strides j * ((copyExtent d j - 1 : Nat) : Int))
  ((base : Int) + (spans.map (fun x => min x 0)).sum,
    (base : Int) + (spans.map (fun x => max x 0)).sum + copySize d)

/-- Whether a copy that starts in scratchpad leaves it (R248, R306). -/
def copyGone (d : List Byte) (size : Nat) : Bool :=
  [(valAt 0 8 d, 0x38), (valAt 8 8 d, 0x70)].any (fun p =>
    inAperture p.1 && (decide ((copySpan d p.1 p.2).1 < (Config.apertureBase : Nat))
      || decide (((Config.apertureBase + size : Nat) : Int) < (copySpan d p.1 p.2).2)))

/-- The descriptor of a CPY, or how the command ends without one: one that does not translate ends it BADDESC in every
context (R306) (in part DEDUCED, log 42). -/
def copyDesc (e : Eng) (wg : Nat) (c : Cmd) (s : State) : Sum (Sum Nat EngStop) (List Byte × State) :=
  let a := wrapNat 64 ((c.va.toNat : Int) + sextInt 64 c.ext1.toNat)
  let size := ((look wg s.wgs).map (·.spsize)).getD 0
  if a % 64 != 0 then .inl (.inl 5)
  else if inAperture a && decide (size < padOffset a + 192) then .inl (.inl 3)
  else
    match engGet e wg a 192 s with
    | .inl .fault | .inl (.park _ _ _) => .inl (.inl 5)
    | .inl x => .inl (.inr x)
    | .inr r => .inr r

/-- The commands that have begun and name a write pointer leave it to the one that begins now (R257):
their third value is set. -/
def yieldPointer (wp : Nat) (l : List Cmd) : List Cmd :=
  l.map (fun c => if c.op = 0x282 && c.begun && c.dst % 8 = wp then { c with vc := 1 } else c)

/-- A CPY begins (R256, R257). -/
def cpyBegin (q : QRef) (wg : Nat) (c : Cmd) (s : State) : State :=
  let e := engineOf s q c.id
  match copyDesc e wg c s with
  | .inl (.inl status) => doneHead q status 0 s
  | .inl (.inr x) => stopHead q 5 0 x s
  | .inr (d, s) =>
    let size := ((look wg s.wgs).map (·.spsize)).getD 0
    if !copyOk d then doneHead q 5 0 s
    else if copyTotal d != 0 && copyGone d size then doneHead q 3 0 s
    else
      let wp := c.dst % 8
      let s := s.modWg wg (fun w => { w with
        wptr := setNth 0 wp w.wptr, cp0 := yieldPointer wp w.cp0, cp1 := yieldPointer wp w.cp1 })
      if copyTotal d = 0 then doneHead q 0 0 s
      else
        let (lo, hi) := copySpan d (valAt 0 8 d) 0x38
        let claim := if inAperture (valAt 0 8 d) then
            some (wg, (lo - Config.apertureBase).toNat, (hi - Config.apertureBase).toNat,
              (lo - Config.apertureBase).toNat)
          else none
        unitMoved q (modHead q (fun c => { c with
          begun := true, data := d, progress := 0, vc := 0, claim := claim, why := 0 }) s)

/-- The read pointer of a claim once elements 0 to `n` are read (R198). -/
def copyPointer (d : List Byte) (n : Nat) : Nat → Nat → Nat
  | 0, p => p
  | fuel + 1, p =>
    match (upto (n + 1)).find? (fun i => decide (copySrc d i ≤ Config.apertureBase + p)
        && decide (Config.apertureBase + p < copySrc d i + copySize d)) with
    | some i => copyPointer d n fuel (padOffset (copySrc d i) + copySize d)
    | none => p

/-- A running CPY reads and writes one element (R256) (in part DEDUCED, log 47). -/
def cpyStep (q : QRef) (wg : Nat) (s : State) : State :=
  match queueOf s q with
  | [] => s
  | c :: _ =>
    if c.op != 0x282 || c.data.isEmpty || !goesOn s q c then s
    else
      let d := c.data
      let n := c.progress / copySize d
      let e := engineOf s q c.id
      if copySrc d n % copyAlign d != 0 || copyDst d n % copyAlign d != 0 then doneHead q 2 c.progress s
      else
        match engGet e wg (copySrc d n) (copySize d) s with
        | .inl x => stopHead q 2 c.progress x s
        | .inr (b, s1) =>
          match engPut e wg (copyDst d n) b s1 with
          | .inl (.park stage page va) => parkHead q stage page va 1 s
          | .inl x => stopHead q 2 c.progress x s
          | .inr s2 =>
            let s2 := if c.vc = 0 then
                s2.modWg wg (fun w => { w with
                  wptr := setNth (nth 0 (c.dst % 8) w.wptr + BitVec.ofNat 64 (copySize d)) (c.dst % 8) w.wptr })
              else s2
            if n + 1 = copyTotal d then doneHead q 0 (c.progress + copySize d) s2
            else unitMoved q (modHead q (fun c => { c with
              progress := c.progress + copySize d, why := 0
              claim := c.claim.map (fun x => (x.1, x.2.1, x.2.2.1, copyPointer d n (n + 1) x.2.2.2)) }) s2)

/-- So many elements of a running CPY (in part DESIGN CHOICE, log 12). -/
def cpySteps (q : QRef) (wg : Nat) : Nat → State → State
  | 0, s => s
  | n + 1, s => cpySteps q wg n (cpyStep q wg s)

/-- Part of an element, up to a beat of 128 bytes within it, is read and written (R338). -/
def cpyPart (q : QRef) (wg n : Nat) (c : Cmd) (s : State) : State :=
  let d := c.data
  let i := c.progress / copySize d
  let off := c.progress % copySize d
  let e := engineOf s q c.id
  if copySrc d i % copyAlign d != 0 || copyDst d i % copyAlign d != 0 then s
  else
    match engGet e wg (copySrc d i + off) n s with
    | .inl _ => s
    | .inr (b, s) =>
      match engPut e wg (copyDst d i + off) b s with
      | .inl _ => s
      | .inr s => modHead q (fun c => { c with progress := c.progress + n }) s

/-- A running CPY comes to the next beat of 128 bytes when the halt line has stopped its channel (R338). -/
def stopCopy (q : QRef) (wg : Nat) : Nat → State → State
  | 0, s => s
  | fuel + 1, s =>
    match queueOf s q with
    | [] => s
    | c :: _ =>
      let left := (128 - c.progress % 128) % 128
      if c.op != 0x282 || c.data.isEmpty || left = 0 || !goesOn s q c then s
      else if copySize c.data ≤ left then stopCopy q wg fuel (cpyStep q wg s)
      else cpyPart q wg left c s

/-- CPY_COMMAND (R256): the command begins if it has not, and moves up to `steps` elements. -/
def execCpyCommand (wg ch steps : Nat) (s : State) : Out1 :=
  let q := if ch = 0 then QRef.cp0 wg else QRef.cp1 wg
  .next (cpySteps q wg steps (beginHead q 0x282 (fun c s => if c.data.isEmpty then cpyBegin q wg c s else s) s))

/-! ### WPTR (R257, R307) -/

/-- The value that a WPTR returns, and the state that has noted it (R368, R370: two entries). -/
def wptrValue (k : Nat) (t : Thread) (v : Nat) (s : State) : Nat × State :=
  let lo := (loggedOutcome s k t.fn 2).getD (v % 2 ^ 32)
  let s := noteOutcome k t.fn 2 lo s
  let hi := (loggedOutcome s k t.fn 2).getD (v / 2 ^ 32)
  (lo + 2 ^ 32 * hi, noteOutcome k t.fn 2 hi s)

/-- WPTR (R307). -/
def execWptr (f : Fields) (s : State) : Out1 :=
  answer (formOf f { modOk := bits f.mod.toNat 10 3 = 0, dst := .dst 2 { g := true, s := true }, tdOk := false })
    (fun k t _ s =>
      let v := ((look t.wg s.wgs).map (fun w : Workgroup => (nth 0 (f.mod.toNat % 8) w.wptr).toNat)).getD 0
      let (v, s) := wptrValue k t v s
      .done [v] (l1Acquire (coreOf k) s)) s

/-! ### QFENCE, GUARD, GRES, WAIT -/

/-- The queues that a QFENCE names. -/
def fenceQueues (f : Fields) (g : Nat) (w : Workgroup) : List QRef :=
  (queuesOfWg g w).filter (fun q => f.mod.getLsbD (queueId q))

/-- QFENCE (R253, R316). -/
def execQfence (f : Fields) (s : State) : Out1 :=
  answer (formOf f { modOk := bits f.mod.toNat 10 6 = 0 && f.mod != 0 })
    (fun k t _ s =>
      match look t.wg s.wgs with
      | none => .done [] s
      | some w =>
        let qs := fenceQueues f t.wg w
        if qs.any (queueFull s) then .stall ⟨9, 7, 0⟩ false
        else
          let (n, s) := s.fresh
          .done [] (qs.foldl (fun s q => enqueue q { newCmd f 0x290 k t s with fence := some n } s) s)) s

/-- The slot that GUARD or GRES names, and the cohort's state of it. -/
def slotOfThread (s : State) (t : Thread) (n : Nat) : Nat × Nat :=
  let c := ((look t.wg s.wgs).map (·.cohort)).getD 0
  (c, slotState s c n)

/-- GUARD (R254, R317). -/
def execGuard (f : Fields) (s : State) : Out1 :=
  answer (formOf f { modOk := bits f.mod.toNat 10 4 = 0 })
    (fun _ t _ s =>
      let n := mBAR f
      let (c, v) := slotOfThread s t n
      if 2 ≤ v && (standing (cohortCmds s c)).any (fun x => x.slot = some n) then .stall ⟨15, 20, n⟩ true
      else .done [] (setSlot c n 1 s)) s

/-- GRES (R254, R317). -/
def execGres (f : Fields) (s : State) : Out1 :=
  answer (formOf f { modOk := bits f.mod.toNat 9 4 = 0, sa := (countRoles f).1, sb := (countRoles f).2 })
    (fun _ t l s =>
      let n := mBAR f
      let (c, v) := slotOfThread s t n
      if v != 1 then .trap (trapBefore cIllegalOperand)
      else .done [] (setSlot c n (if countOf f l = 0 then 3 else 2) s)) s

/-- The encoding of WAIT: bits 7:6 of each bound are 0. -/
def waitEnc (f : Fields) : Enc :=
  { modOk := f.mod = 0 && [f.dst, f.sa, f.sb, f.sc].all (fun b => decide (b.toNat < 64))
    dst := .raw, sa := .raw, sb := .raw, sc := .raw, tdOk := false }

/-- WAIT (R250, R318). -/
def execWait (f : Fields) (s : State) : Out1 :=
  answer (formOf f (waitEnc f))
    (fun k t _ s =>
      if f.dst.toNat < t.ld then .stall ⟨4, 8, 0⟩ false
      else if f.sa.toNat < t.st then .stall ⟨5, 8, 0⟩ false
      else if f.sb.toNat < t.cp then .stall ⟨6, 8, 0⟩ false
      else if f.sc.toNat < t.tl then .stall ⟨7, 8, 0⟩ false
      else copiesSeen k t (f.sb = 0) (f.sb = 0 || f.sc = 0) s) s

end Sys2Proof.Machine
end

