-- ==== Sys2Proof/Machine/Matrix.lean ====
section
/-! DEFINITION. The matrix engine (R267-R287): tenure (R270), convergence registers and signing (R182,
R271, R272), the six matrix instructions (R308-R315) and the steps that run their commands, alone or
fused (R283, R284). -/

namespace Sys2Proof.Machine

/-! ### Tenure (R270) -/

/-- The cohort of a thread, and the section of a cohort. -/
def cohortOf (s : State) (t : Thread) : Nat := ((look t.wg s.wgs).map (·.cohort)).getD 0
def cohortSect (s : State) (c : Nat) : Nat := ((look c s.cohorts).map (·.sect)).getD 0

/-- Whether nobody holds a quadrant: no tenure runs, or its last workgroup has exited and its MX and SQ
queues are empty. -/
def tenureOver (s : State) (sect : Nat) : Bool :=
  match (s.sect sect).holder with
  | none => true
  | some c =>
    match look c s.cohorts with
    | none => true
    | some h => !h.members.any (wgLive s) && h.mx.isEmpty && h.sq.isEmpty

/-- The stall of a thread that waits for a quadrant. -/
def tenureStall (sect : Nat) : Stall := ⟨12, 22, sect⟩

/-- The cohorts that wait for a quadrant, in the order of their first requests. -/
def tenureQueue (s : State) (sect : Nat) : List Nat :=
  distinct ((sortBy (fun p => p.2.stallFrom.getD 0)
    (s.threads.filter (fun p => p.2.stall = some (tenureStall sect)))).map (fun p => cohortOf s p.2))

/-- The function of a cohort. -/
def cohortFn (s : State) (c : Nat) : Nat := ((look c s.cohorts).map (·.fn)).getD 0

/-- A tenure starts from the initial values of R269 and R288; what is no state of a tenure stays. -/
def freshSection (s : State) (cohort : Nat) (v : Section) : Section :=
  { restoreSection v .reset with
    holder := some cohort, tenureAt := (s.ctx (cohortFn s cohort)).pcycle, unitFn := some (cohortFn s cohort) }

/-- Whether the undo log has room for the lines of the unit image whose content a new tenure discards, if they can be
read (in part DEDUCED, log 19). -/
def tenureRoom (s : State) (sect cohort : Nat) : Bool :=
  let fn := cohortFn s cohort
  let s := claimUnit fn sect s
  !unitOurs s fn sect || undoHolds s fn (unloggedLines s fn sect (freshSection s cohort (s.sect sect))).length

/-- A cohort's tenure starts, if its context comes to have the unit (R402). -/
def startTenure (sect cohort : Nat) (s : State) : State :=
  let fn := cohortFn s cohort
  let s := claimUnit fn sect s
  if !unitOurs s fn sect then s else
  let new := freshSection s cohort (s.sect sect)
  (logUnit fn sect (unloggedLines s fn sect new) s).setSect sect new

/-- A cohort's thread executes an instruction that needs the quadrant: the state in which the cohort
holds it, or none while it must wait (in part DEDUCED, log 45). -/
def takeTenure (s : State) (c : Nat) : Option State :=
  let sect := cohortSect s c
  if (s.sect sect).holder = some c && (look c s.cohorts).isSome then some s
  else if tenureOver s sect && ((tenureQueue s sect).head?.getD c) = c && tenureRoom s sect c then
    let s := startTenure sect c s
    if (s.sect sect).holder = some c then some s else none
  else none

/-- QUADRANT_TENURE_GRANT (R270). -/
def execQuadrantTenureGrant (sect : Nat) (s : State) : Out1 :=
  if !tenureOver s sect then .next s
  else
    match tenureQueue s sect with
    | [] => .next (s.modSect sect (fun q => { q with holder := none }))
    | c :: _ => .next (if tenureRoom s sect c then startTenure sect c s else s)

/-! ### Convergence registers (R182) -/

def cregOf (s : State) (sect n : Nat) : CReg := nth ⟨none, none⟩ n (s.sect sect).creg
def setCreg (sect n : Nat) (v : CReg) (s : State) : State :=
  s.modSect sect (fun q => { q with creg := setNth v n q.creg })

/-- The workgroups that a range word's WGMASK names (R169). -/
def rangeMask (r wgic : Nat) : Bool := bit r (24 + wgic % 4)

/-- Whether a CDECL's range word is malformed (R169, R182): its threads are threads of every workgroup that
it names. `sizes` holds the sizes of the cohort's workgroups in order. -/
def declBad (r csize : Nat) (sizes : List Nat) : Bool :=
  bits r 31 28 != 0 || bits r 23 21 != 0 || decide (1024 < rangeCount r)
    || (rangeCount r = 0 && rangeFirst r != 0) || bits r 27 24 = 0
    || (upto 4).any (fun i => rangeMask r i && decide (csize ≤ i))
    || (upto 4).any (fun i => rangeMask r i && decide (nth 0 i sizes < rangeFirst r + rangeCount r))

/-- The sizes of a cohort's workgroups; for one that is gone, `own`. -/
def cohortSizes (s : State) (c own : Nat) : List Nat :=
  ((look c s.cohorts).map (fun h => h.members.map (fun g => ((look g s.wgs).map wgSize).getD own))).getD [own]

/-- The living threads of a cohort that a declaration names. -/
def signSet (s : State) (c r : Nat) : List Nat :=
  match look c s.cohorts with
  | none => []
  | some h =>
    h.members.flatMap (fun g =>
      match look g s.wgs with
      | none => []
      | some w => if rangeMask r w.wgic then (namedThreads s g r).map (·.1) else [])

/-- A CDECL of the cohort on the register that began to wait before this thread's, or in the same cycle by a thread of a
lower key (in part DEDUCED, log 87). -/
def earlierDecl (s : State) (k c n : Nat) (t : Thread) : Bool :=
  let rank (p : Thread) : Option Nat := if p.stall = some ⟨12, 19, n⟩ then p.stallFrom else none
  s.threads.any (fun p => p.1 != k && cohortOf s p.2 = c &&
    match rank p.2, rank t with
    | some a, some b => decide (a < b) || (a = b && decide (p.1 < k))
    | some _, none => true
    | none, _ => false)

/-- The encoding of CDECL (R182). -/
def cdeclEnc (f : Fields) : Enc :=
  { modOk := bits f.mod.toNat 10 5 = 0
      && (formExt f.form = 0 || (!f.mod.getLsbD 4 && f.ext1.toNat / 2 ^ 32 = 0))
    sa := if formExt f.form = 0 && !f.mod.getLsbD 4 then .src 1 { g := true, s := true, z := true }
      else .none }

/-- CDECL for one thread. -/
def cdeclBody (f : Fields) : Body := fun k t l s =>
  let n := mBAR f
  let rel := f.mod.getLsbD 4
  let range : Word := BitVec.ofNat 32 (nth 0 0 l)
  let c := cohortOf s t
  let size := ((look t.wg s.wgs).map wgSize).getD 0
  let csize := ((look c s.cohorts).map (·.csize)).getD 0
  if t.apprentice then .trap (trapBefore cIllegalInstruction)
  else if !rel && declBad range.toNat csize (cohortSizes s c size) then .trap (trapBefore cIllegalOperand)
  else
    let sect := cohortSect s c
    match takeTenure s c with
    | none => .stall (tenureStall sect) true
    | some s =>
      let r := cregOf s sect n
      if earlierDecl s k c n t then .stall ⟨12, 19, n⟩ true
      else if !rel && r.decl = some range then .done [] s
      else if r.round.isSome then .stall ⟨12, 19, n⟩ true
      else .done [] (setCreg sect n ⟨if rel then none else some range, none⟩ s)

/-- CDECL (R182). -/
def execCdecl (f : Fields) (s : State) : Out1 := answer (formOf f (cdeclEnc f) (if formExt f.form = 0 then none else some f.ext1.toNat)) (cdeclBody f) s

/-! ### Signing (R271, R272) -/

/-- Whether two signatures fix the same command: opcode, modifiers, FUSE, CQWG and every value. -/
def sameSign (a b : Cmd) : Bool :=
  a.op = b.op && a.mod = b.mod && a.dst % 16 = b.dst % 16 && a.va = b.va && a.vb = b.vb
    && a.vc = b.vc && a.vd = b.vd

/-- A round whose set has signed, except those who exited, enters the MX queue when there is room; after a halt none
does (R286). -/
def settleRound (sect n : Nat) (s : State) : State :=
  match (s.sect sect).holder, (cregOf s sect n).decl, (cregOf s sect n).round with
  | some c, some range, some r =>
    if (s.ctx (queueFn s (.mx c))).halt.isNone && (signSet s c range.toNat).all (fun k => r.cmd.signers.contains k) && !queueFull s (.mx c) then
      enqueue (.mx c) r.cmd (setCreg sect n ⟨some range, none⟩ s)
    else s
  | _, _, _ => s

/-- SIGNING_ROUND_COMPLETE (R271). -/
def execSigningRoundComplete (sect cn : Nat) (s : State) : Out1 := .next (settleRound sect cn s)

/-- A signer's place in a signature mask (R350). -/
def signPlace (s : State) (t : Thread) : Nat := 1024 * ((look t.wg s.wgs).map (·.wgic)).getD 0 + t.tlin

/-- A thread signs cN with a command (R271) (in part DEDUCED, log 45). -/
def signBody (k : Nat) (t : Thread) (n : Nat) (cmd : Cmd) (s : State) : LaneOut :=
  let c := cohortOf s t
  let sect := cohortSect s c
  match takeTenure s c with
  | none => .stall (tenureStall sect) false
  | some s =>
    let bad : LaneOut := .fail (trapBefore cIllegalOperand) s
    match (cregOf s sect n).decl with
    | none => bad
    | some range =>
      if !(signSet s c range.toNat).contains k
          || cmd.slot.any (fun i => slotState s c i = 0) then bad
      else
        let now := (s.ctx t.fn).clock
        let go (r : Round) : LaneOut :=
          if 63 ≤ t.tl then .stall ⟨7, 0, 0⟩ false
          else
            let new : Cmd := { r.cmd with
              signers := r.cmd.signers ++ [k], after := r.cmd.after ++ [(k, s.nextId)] }
            let s := setCreg sect n ⟨some range, some { r with
              cmd := new, origin := now, places := r.places ++ [signPlace s t] }⟩ s
            .done [] (settleRound sect n (s.modThread k (fun t => { t with tl := t.tl + 1 })))
        match (cregOf s sect n).round with
        | none => go ⟨{ cmd with after := [] }, now, coreOf k, []⟩
        | some r =>
          if r.cmd.signers.contains k then .stall ⟨12, 5, n⟩ false
          else if sameSign r.cmd cmd then go r
          else bad

/-- A member of an open round's set exits: the count starts again, and the round may be complete
(in part DEDUCED, log 44). -/
def roundExit (sect wgic tlin clock : Nat) (s : State) : State :=
  (upto 16).foldl (fun s n =>
    match cregOf s sect n with
    | ⟨some range, some r⟩ =>
      if rangeMask range.toNat wgic && inRange range.toNat tlin then
        settleRound sect n (setCreg sect n ⟨some range, some { r with origin := clock }⟩ s)
      else s
    | _ => s) s

/-- The cores of a cohort's workgroups. -/
def coresOfCohort (s : State) (c : Nat) : List Nat :=
  (((look c s.cohorts).map (·.members)).getD []).filterMap (fun g => (look g s.wgs).map (·.core))

/-- SIGNING_ROUND_DISCARD (R272), after the cycle's signatures. Its DISCARDED word is received even by a full completion queue
(in part DEDUCED, log 44). -/
def execSigningRoundDiscard (sect cn : Nat) (s : State) : Out1 :=
  match (s.sect sect).holder, cregOf s sect cn with
  | some c, ⟨some range, some r⟩ =>
    let fn := queueFn s (.mx c)
    if !stallDue s fn r.core r.origin || !(coresOfCohort s c).all (coreQuiet s) then .next s
    else
      let detail := stallDetail (0xC0 + cn) r.cmd.signers.length (signSet s c range.toNat).length
      let stalled := (s.threads.filter (fun p =>
        p.2.stall = some ⟨12, 5, cn⟩ && cohortOf s p.2 = c)).map (·.1)
      let s := setCreg sect cn ⟨some range, none⟩ s
      .next (stallTrap stalled detail (leaveCounters r.cmd (pushWord (.mx c) r.cmd 1 0 s)))
  | _, _ => .next s

/-! ### The six instructions (R308-R315) -/

/-- Parameter word and triangular operand as an instruction carries them. -/
def mxParam (f : Fields) (l : List Nat) : Nat :=
  if formExt f.form = 0 then nth 0 1 l else f.ext1.toNat

/-- T of an MMUL: FILL in bits 31:0, DIAG in 47:32, MORG in 95:64, NORG in 127:96 (R314). -/
def mxTri (f : Fields) (l : List Nat) : Nat :=
  if formExt f.form = 2 then f.ext2.toNat % 2 ^ 48
  else if f.sc = 0xF8#8 then 0
  else
    let v := nth 0 (if formExt f.form = 0 then 2 else 1) l
    bits v 47 0 + bits v 127 64 * 2 ^ 64

/-- The bits of a parameter word that an entry marks reserved (in part DEDUCED, log 37). -/
def mxReserved (op p : Nat) : Bool :=
  if op = 0x288 then p % 2 ^ 12 != 0
  else if op = 0x289 then p % 2 ^ 11 != 0
  else if op = 0x28C then p % 2 ^ 10 != 0
  else false

/-- The encoding of a matrix instruction with an address and a parameter word
(in part DEDUCED, log 37, DEDUCED, log 74). -/
def mxEnc (f : Fields) (op : Nat) : Enc :=
  { modOk := tailOk f && (f.mod.getLsbD 5 || f.dst.toNat % 4 = 0)
      && (formExt f.form = 0 || !mxReserved op f.ext1.toNat)
      && (formExt f.form != 2 || f.ext2.toNat / 2 ^ 48 = 0)
    dst := .raw, sa := .src 2 addr5
    sb := if formExt f.form = 0 then .src 2 { g := true, s := true } else .none
    sc := if op != 0x28B || f.sc = 0xF8#8 || formExt f.form = 2 then .none else .srcAt 4 4 { g := true }
    tdOk := false }

/-- The encoding of MSWP and MZERO (R312) (in part DEDUCED, log 38). -/
def mxEnc0 (f : Fields) (low : Nat) : Enc :=
  { modOk := tailOk f && (f.mod.getLsbD 5 || f.dst.toNat % 4 = 0) && decide (bits f.mod.toNat 1 0 ≤ low)
    dst := .raw, tdOk := false }

/-- A signature of a matrix instruction. -/
def mxSign (f : Fields) (op : Nat) : Body := fun k t l s =>
  let tri := if op = 0x28B then mxTri f l else 0
  signBody k t (f.dst.toNat / 16)
    { newCmd f op k t s with
      va := BitVec.ofNat 64 (nth 0 0 l), vb := BitVec.ofNat 64 (mxParam f l)
      vc := BitVec.ofNat 64 tri, vd := BitVec.ofNat 64 (tri / 2 ^ 64) } s

/-- A signature of MSWP or MZERO, which carry no values. -/
def mxSign0 (f : Fields) (op : Nat) : Body := fun k t _ s =>
  signBody k t (f.dst.toNat / 16) (newCmd f op k t s) s

/-- SCPY (R310). -/
def execScpy (f : Fields) (s : State) : Out1 := answer (formOf f (mxEnc f 0x288)) (mxSign f 0x288) s
/-- MLDW (R311). -/
def execMldw (f : Fields) (s : State) : Out1 := answer (formOf f (mxEnc f 0x289)) (mxSign f 0x289) s
/-- MSWP (R312). -/
def execMswp (f : Fields) (s : State) : Out1 := answer (formOf f (mxEnc0 f 0)) (mxSign0 f 0x28A) s
/-- MMUL (R313). -/
def execMmul (f : Fields) (s : State) : Out1 := answer (formOf f (mxEnc f 0x28B)) (mxSign f 0x28B) s
/-- MOUT (R315). -/
def execMout (f : Fields) (s : State) : Out1 := answer (formOf f (mxEnc f 0x28C)) (mxSign f 0x28C) s
/-- MZERO (R312). -/
def execMzero (f : Fields) (s : State) : Out1 := answer (formOf f (mxEnc0 f 1)) (mxSign0 f 0x28D) s

/-! ### Parts of a matrix command -/

/-- FUSE of a command, its OWG and CQWG. -/
def Cmd.fuse (c : Cmd) : Nat := c.dst / 4 % 4
def Cmd.owg (c : Cmd) : Nat := c.mod.toNat % 4

/-- Whether a command is one that joins partner quadrants. -/
def Cmd.fused (c : Cmd) : Bool := c.fuse != 0 && (c.op = 0x289 || c.op = 0x28A || c.op = 0x28B)

/-- A quadrant's place in a fused command: south and east (R284). -/
structure Place where
  ns : Nat
  ew : Nat
  deriving DecidableEq, Repr

/-- (in part DEDUCED, log 46). -/
def placeOf (sect fuse : Nat) : Place :=
  ⟨if 2 ≤ fuse then sect % 4 / 2 else 0, if fuse % 2 = 1 then sect % 2 else 0⟩

/-- Who supplies a command's source: a cohort and its command (R284). -/
structure Supply where
  cohort : Nat
  cmd : Cmd
  deriving DecidableEq, Repr

/-- The workgroup of a cohort with a WGIC. -/
def memberOf (s : State) (cohort wgic : Nat) : Option Nat :=
  (look cohort s.cohorts).bind (fun h => h.members.find? (fun g =>
    ((look g s.wgs).map (·.wgic)) = some wgic))

/-- Its key; that of a workgroup that has ceased names none, and so no scratchpad (R248). -/
def memberKey (s : State) (cohort wgic : Nat) : Nat := (memberOf s cohort wgic).getD (deadName 0 0)

/-- The Matrix Engine of a queue, translating as the supplier does. -/
def supplyEng (s : State) (q : QRef) (u : Supply) : Eng :=
  { engineOf s q u.cmd.id with core := queueCore s (.mx u.cohort) }

/-- Scratchpad bytes of the supplier's workgroup. -/
def supplySize (s : State) (g : Nat) : Nat := ((look g s.wgs).map (·.spsize)).getD 0

/-- Whether a range of bytes leaves the scratchpad it starts in (R273: GONE). -/
def rangeGone (s : State) (g va n : Nat) : Bool :=
  inAperture va && decide (supplySize s g < padOffset va + n)

/-- Read pieces of `n` bytes in order until one fails: what was read, and what stopped it. -/
def engCollect (e : Eng) (g n : Nat) : List Nat → State → List (List Byte) × State × Option EngStop
  | [], s => ([], s, none)
  | a :: l, s =>
    match engGet e g a n s with
    | .inl x => ([], s, some x)
    | .inr (b, s) =>
      let r := engCollect e g n l s
      (b :: r.1, r.2)

/-- Bytes of an element by its format code (R273, R309). -/
def elemSize (code : Nat) : Nat := if code = 3 then 2 else 1

/-- Whether OWG and CQWG of a command lie below CSIZE. -/
def groupsOk (s : State) (c : Cmd) (cohort : Nat) (owg : Bool) : Bool :=
  let n := ((look cohort s.cohorts).map (·.csize)).getD 0
  decide (c.dst % 4 < n) && (!owg || decide (c.owg < n))

/-- Cut bytes into pieces of `n`. -/
def piecesOf (n : Nat) (b : List Byte) : List (List Byte) :=
  (upto (b.length / n)).map (fun i => bytesAt (n * i) n b)

/-- Read pieces for a command that may have read some of them before it had to wait (R273): all that it has now,
what stopped it, and how the command keeps them, with its claim of bytes `lo` to `hi − 1` (R198). -/
def collectOn (e : Eng) (g n : Nat) (c : Cmd) (lo hi : Nat) (l : List Nat) (s : State) :
    List (List Byte) × State × Option EngStop × (Cmd → Cmd) :=
  let (new, s, stop) := engCollect e g n (l.drop (c.data.length / n)) s
  let all := piecesOf n c.data ++ new
  (all, s, stop, fun c => { c with
    data := all.flatten
    claim := if inAperture lo then some (g, padOffset lo, padOffset hi, padOffset (nth hi all.length l)) else none })

/-- How a matrix command that reads goes on in its quadrant: the engine and the workgroup whose scratchpad it reads,
the addresses of its pieces of `size` bytes from `lo` to `hi − 1`, how many K blocks a piece gives (1 but for an MMUL),
what the pieces that it has read make of the section, with the blocks done piece by piece, and its VALUE. -/
structure MxPlan where
  eng : Eng
  wg : Nat
  size : Nat
  lo : Nat
  hi : Nat
  addrs : List Nat
  blocks : Nat
  effect : List (List Byte) → List Nat → Section → Section
  value : Nat

/-- How far a command is taken: to its end; until it has read what it reads, holding then for a cause of R366; or, at
a halt, to so many blocks of each piece (R286). -/
inductive Reach where
  | whole
  | reading (cause : Nat)
  | upTo (l : List Nat)
  deriving DecidableEq, Repr

/-- Take the head command on by its plan, or end it with the status that it has instead. It keeps what it has read,
and its claim, while it waits (R198, R273, R274). -/
def runPlan (q : QRef) (sect : Nat) (x : Reach) (p : Sum Nat MxPlan) (c : Cmd) (s : State) : State :=
  match p, x with
  | .inl status, .whole => doneHead q status 0 s
  | .inl _, _ => s
  | .inr p, x =>
    let addrs := match x with
      | .upTo l => p.addrs.take (l.filter (· != 0)).length
      | _ => p.addrs
    let (l, s1, stop, keep) := collectOn p.eng p.wg p.size c p.lo p.hi addrs s
    let s1 := if c.data.length < l.length * p.size then unitMoved q s1 else s1
    match x with
    | .whole =>
      let done := List.replicate l.length p.blocks
      finishUnit q sect (p.effect l done) ⟨s1, l.length, stop⟩ keep p.value (fun n => p.size * n) done
    | .reading cause =>
      modHead q keep (match stop with
        | some (.park stage page va) => parkHead q stage page va 0 s1
        | _ => stopHead q 2 0 (.hold cause) s1)
    | .upTo r =>
      if l.isEmpty then s
      else
        match changeBulk (queueFn s q) sect (p.effect l r) s1 with
        | none => s
        | some s2 => modHead q (fun c => { keep c with begun := true, reach := r.take l.length }) s2

/-- The list of addresses `base + i × stride + j × step`, row by row. -/
def gridOf (base stride step rows cols : Nat) : List Nat :=
  (upto rows).flatMap (fun i => (upto cols).map (fun j => base + i * stride + j * step))

/-- List values into a table, a zero being unlisted. -/
def putAll (l : List (Nat × Word)) (t : Tbl Word) : Tbl Word :=
  l.foldl (fun t p => if p.2 = 0 then drop p.1 t else put p.1 p.2 t) t

/-! ### SCPY (R275, R310) -/

/-- (in part DESIGN CHOICE, log 12). -/
def scpyPlan (cohort : Nat) (c : Cmd) (s : State) : Sum Nat MxPlan :=
  let p := c.vb.toNat
  let stride := 4 * bits p 63 40
  let col := bits p 39 30
  let ncol := bits p 29 20 + 1
  let blk := bits p 19 16
  let nblk := bits p 15 12 + 1
  let a := c.va.toNat
  let g := memberKey s cohort c.owg
  if c.fuse != 0 || !groupsOk s c cohort true || mxReserved 0x288 p || 1024 < col + ncol || 16 < blk + nblk
      || stride < 4 * ncol || a % 4 != 0 then .inl 5
  else if rangeGone s g a ((nblk - 1) * stride + 4 * ncol) then .inl 3
  else
    let keys := (upto nblk).flatMap (fun i => (upto ncol).map (fun j => 1024 * (blk + i) + col + j))
    .inr { eng := engineOf s (.mx cohort) c.id, wg := g, size := 4, lo := a, hi := a + (nblk - 1) * stride + 4 * ncol
           addrs := gridOf a stride 4 nblk ncol, blocks := 1, value := 0
           effect := fun l _ v => { v with
             scales := putAll (keys.zip (l.map (fun b => BitVec.ofNat 32 (ofBytes b)))) v.scales } }

def runScpy (cohort : Nat) (c : Cmd) (s : State) : State :=
  runPlan (.mx cohort) (cohortSect s cohort) .whole (scpyPlan cohort c s) c s

/-- SCPY_COMMAND (R275). -/
def execScpyCommand (cohort : Nat) (s : State) : Out1 := .next (beginHead (.mx cohort) 0x288 (runScpy cohort) s)

/-! ### MLDW (R276, R311) -/

/-- The parameters of an MLDW. -/
structure LoadArgs where
  stride : Nat
  code : Nat
  planes : Nat
  rmode : Nat
  klen : Nat
  nlen : Nat
  deriving DecidableEq, Repr

def loadArgs (p : Nat) : LoadArgs :=
  ⟨16 * bits p 63 32, bits p 31 29, bits p 28 25, bits p 24 24, 32 * (bits p 23 20 + 1), bits p 19 11 + 1⟩

/-- Whether they lie within the limits of R273. -/
def loadArgsOk (p fuse : Nat) : Bool :=
  let a := loadArgs p
  !mxReserved 0x289 p && decide (a.code ≤ 4) && decide (a.nlen ≤ (if fuse % 2 = 1 then 384 else 192))
    && (if a.code = 4 then
        decide (2 ≤ a.planes) && decide (a.planes ≤ 8) && (a.klen = 256 || a.klen = 512)
          && a.stride % 256 = 0 && decide (a.klen ≤ a.stride)
      else a.planes = 0 && a.rmode = 0 && decide (a.klen * elemSize a.code ≤ a.stride))

/-- The weights that a piece of a column holds, as R346 lays them out: 256 BPI elements (R81, R82), or
the elements of 16 bytes (in part DEDUCED, log 46). -/
def pieceWeights (a : LoadArgs) (b : List Byte) : List (BitVec 16) :=
  if a.code = 4 then
    (upto 256).map (fun e =>
      let v := (upto a.planes).foldl (fun v i =>
        v + one (bit (nth 0 (32 * i + e / 8) b).toNat (e % 8)) * 2 ^ (7 - i)) 0
      BitVec.ofInt 16 (planeValue a.planes (a.rmode = 1) v))
  else if a.code = 3 then (upto 8).map (fun i => BitVec.ofNat 16 (valAt (2 * i) 2 b))
  else if a.code = 0 then b.map (fun x => x.signExtend 16)
  else b.map (fun x => x.setWidth 16)

/-- Bytes of a piece, its distance to the next in a column, and how many a column has. -/
def pieceSize (a : LoadArgs) : Nat := if a.code = 4 then 32 * a.planes else 16
def pieceStep (a : LoadArgs) : Nat := if a.code = 4 then 256 else 16
def pieceCount (a : LoadArgs) : Nat := if a.code = 4 then a.klen / 256 else a.klen * elemSize a.code / 16

/-- The columns of weights, each the list of its elements from k = 0, as table entries. -/
def weightTable (cols : List (List (BitVec 16))) : Tbl (BitVec 16) :=
  let cells := (upto 512).flatMap (fun k => (upto cols.length).filterMap (fun n =>
    let v := nth 0 k (nth [] n cols)
    if v = 0 then none else some (192 * k + n, v)))
  cells

/-- The plane H that the pieces of some columns make; what a command has not read reads 0 (R276). -/
def loadPlane (a : LoadArgs) (cols : Nat) (l : List (List Byte)) : Plane :=
  ⟨a.code, a.planes, a.rmode, weightTable ((upto cols).map (fun n =>
    ((l.drop (n * pieceCount a)).take (pieceCount a)).flatMap (pieceWeights a)))⟩

def mldwPlan (cohort : Nat) (c : Cmd) (u : Supply) (s : State) : Sum Nat MxPlan :=
  let p := c.vb.toNat
  let a := loadArgs p
  let no := 192 * (placeOf (cohortSect s cohort) c.fuse).ew
  let nq := min (a.nlen - no) 192
  let base := u.cmd.va.toNat + no * a.stride
  let g := memberKey s u.cohort u.cmd.owg
  let span := (pieceCount a - 1) * pieceStep a + pieceSize a
  if !groupsOk s c cohort true || !loadArgsOk p c.fuse
      || u.cmd.va.toNat % (if a.code = 4 then 256 else 16) != 0 then .inl 5
  else if nq != 0 && rangeGone s g u.cmd.va.toNat (no * a.stride + (nq - 1) * a.stride + span) then .inl 3
  else
    .inr { eng := supplyEng s (.mx cohort) u, wg := g, size := pieceSize a, lo := base
           hi := base + (nq - 1) * a.stride + span
           addrs := gridOf base a.stride (pieceStep a) nq (pieceCount a), blocks := 1, value := 0
           effect := fun l _ v => { v with planeH := loadPlane a nq l } }

def runMldw (cohort : Nat) (c : Cmd) (u : Supply) (s : State) : State :=
  runPlan (.mx cohort) (cohortSect s cohort) .whole (mldwPlan cohort c u s) c s

/-- MLDW_COMMAND (R276): a fused command waits for its partners. -/
def execMldwCommand (cohort : Nat) (s : State) : Out1 :=
  .next (beginHead (.mx cohort) 0x289 (fun c s => if c.fused then s else runMldw cohort c ⟨cohort, c⟩ s) s)

/-! ### MSWP and MZERO (R277, R282) -/

def runMswp (cohort : Nat) (c : Cmd) (s : State) : State :=
  let q := QRef.mx cohort
  if !groupsOk s c cohort false then doneHead q 5 0 s
  else changeUnit q (cohortSect s cohort) (fun v => { v with planeS := v.planeH, planeH := v.planeS }) id
    (doneHead q 0 0) s

/-- MSWP_COMMAND (R277). -/
def execMswpCommand (cohort : Nat) (s : State) : Out1 :=
  .next (beginHead (.mx cohort) 0x28A (fun c s => if c.fused then s else runMswp cohort c s) s)

/-- The bank of a section, and the section with another. -/
def bankOf (v : Section) (b : Nat) : Tbl Word := if b = 0 then v.acc0 else v.acc1
def setBank (b : Nat) (t : Tbl Word) (v : Section) : Section :=
  if b = 0 then { v with acc0 := t } else { v with acc1 := t }

def runMzero (cohort : Nat) (c : Cmd) (s : State) : State :=
  let q := QRef.mx cohort
  if c.fuse != 0 || !groupsOk s c cohort false then doneHead q 5 0 s
  else changeUnit q (cohortSect s cohort) (setBank (c.mod.toNat % 2) []) id (doneHead q 0 0) s

/-- MZERO_COMMAND (R282). -/
def execMzeroCommand (cohort : Nat) (s : State) : Out1 := .next (beginHead (.mx cohort) 0x28D (runMzero cohort) s)

/-! ### MMUL (R278-R280, R85, R86) -/

/-- The parameters of an MMUL. -/
structure MulArgs where
  stride : Nat
  code : Nat
  m : Nat
  k : Nat
  n : Nat
  bank : Nat
  wsc : Nat
  asc : Nat
  ns : Bool
  zero : Bool
  tri : Bool
  fill : Word
  diag : Int
  morg : Nat
  norg : Nat
  deriving DecidableEq, Repr

/-- (in part DEDUCED, log 46). -/
def mulArgs (c : Cmd) : MulArgs :=
  let p := c.vb.toNat
  { stride := 16 * bits p 63 49, code := bits p 48 46, m := bits p 45 37 + 1, k := 32 * (bits p 36 33 + 1)
    n := bits p 32 24 + 1, bank := bits p 23 23, wsc := bits p 22 13, asc := bits p 12 3
    ns := bit p 2, zero := bit p 1, tri := bit p 0
    fill := c.vc.setWidth 32, diag := sextInt 16 (bits c.vc.toNat 47 32)
    morg := bits c.vd.toNat 31 0, norg := bits c.vd.toNat 63 32 }

/-- Whether S's tag and AFMT are a pair of R278. -/
def pairOk (tag act : Nat) : Bool :=
  (act = 0 && (tag = 0 || tag = 4)) || ((act = 1 || act = 2) && (tag = 1 || tag = 2))
    || (act = 3 && tag = 3)

/-- Whether the parameters lie within the limits of R273 for a quadrant with this share. -/
def mulArgsOk (a : MulArgs) (fuse mq nq : Nat) : Bool :=
  decide (a.code ≤ 3) && decide (a.m ≤ (if 2 ≤ fuse then 256 else 128))
    && decide (a.n ≤ (if fuse % 2 = 1 then 384 else 192)) && decide (a.k * elemSize a.code ≤ a.stride)
    && decide (a.wsc + nq ≤ 1024) && decide (a.asc + mq ≤ 1024)
    && a.morg % 32 = 0 && a.norg % 32 = 0 && decide (a.morg ≤ 2 ^ 31 - 32) && decide (a.norg ≤ 2 ^ 31 - 32)

/-- An exact product term on the grid of 2^−32, with what is special about it (R86): NaN, +∞, −∞. -/
structure Term where
  nan : Bool
  pos : Bool
  neg : Bool
  sum : Int

def Term.add (t : Term) : FVal → Term
  | .nan _ => { t with nan := true }
  | .inf false => { t with pos := true }
  | .inf true => { t with neg := true }
  | .zero _ => t
  | .fin neg man exp => { t with sum := t.sum + signedMan neg man * (2 ^ (exp + 32).toNat : Nat) }

/-- The exact product of two values, NaN for a NaN operand or 0 × ∞. -/
def productOf (x y : FVal) : FVal := if x.isNan || y.isNan then .nan false else (mulExact x y).1

/-- The block sum of FP8 operands, rounded to FP32: exact, then once (R85, R86). -/
def fixedSum (F G : Fmt) (a w : List Nat) : Nat :=
  let t := (a.zip w).foldl (fun (t : Term) p => t.add (productOf (unpack F p.1) (unpack G p.2)))
    ⟨false, false, false, 0⟩
  if t.nan || (t.pos && t.neg) then fmtF32.nanBits
  else if t.pos || t.neg then fmtF32.signed t.neg fmtF32.infBits
  else (fres fmtF32 0 false false
    (if t.sum = 0 then .zero false else .val (t.sum < 0) t.sum.natAbs (-32) false)).1

/-- The block sum of integer operands (R85). -/
def integerSum (a w : List Nat) : Nat :=
  (intToFp fmtF32 0 false ((a.zip w).foldl (fun v p => v + sextInt 16 p.1 * sextInt 16 p.2) 0)).1

/-- The block sum of `.bf16` operands: FP32 products, then the pairwise tree (R85). -/
def bfloatSum (a w : List Nat) : Nat :=
  treeOf (fun x y => (fpAdd fmtF32 0 false x y).1) 5
    ((a.zip w).map (fun p => (fpMul fmtF32 0 false (p.1 * 2 ^ 16) (p.2 * 2 ^ 16)).1))

/-- The format of an FP8 code (R309). -/
def fp8Of (code : Nat) : Fmt := if code = 1 then fmtE4m3 else fmtE5m2

/-- c of R85: the block sum as an FP32 value. -/
def blockSum (act tag : Nat) (a w : List Nat) : Nat :=
  if act = 0 then integerSum a w
  else if act = 3 then bfloatSum a w
  else fixedSum (fp8Of act) (fp8Of tag) a w

/-- One step of R85: scales as FP32 encodings. -/
def accStep (acc c sw sa : Nat) : Nat :=
  let sc := (fpMul fmtF32 0 false sw sa).1
  (fpAdd fmtF32 0 false acc (fpMul fmtF32 0 false c sc).1).1

/-- The elements of a row or a column, from its bytes: integers sign-extended to 16 bits, else codes. -/
def actElems (code : Nat) (b : List Byte) : List Nat :=
  if code = 3 then (upto (b.length / 2)).map (fun i => valAt (2 * i) 2 b)
  else if code = 0 then b.map (fun x => (x.signExtend 16).toNat)
  else b.map (·.toNat)

/-- Column `n` of a plane, its first `k` weights. -/
def planeColumn (p : Plane) (k n : Nat) : List Nat :=
  let here := p.w.filter (fun e => e.1 % 192 = n)
  (upto k).map (fun i => ((look (192 * i + n) here).getD 0).toNat)

/-- 1.0 as FP32. -/
def oneF32 : Nat := 0x3F800000

/-- A computed element of the bank after so many K blocks (R279). -/
def mulElem (a : MulArgs) (tag : Nat) (scales : Tbl Word) (row col : List Nat) (blocks m n acc : Nat) : Nat :=
  (upto blocks).foldl (fun acc b =>
    let c := blockSum a.code tag ((row.drop (32 * b)).take 32) ((col.drop (32 * b)).take 32)
    let sw := if a.ns then oneF32 else ((look (1024 * b + a.wsc + n) scales).getD 0).toNat
    let sa := if a.ns then oneF32 else ((look (1024 * b + a.asc + m) scales).getD 0).toNat
    accStep acc c sw sa) acc

/-- Whether an in-bound element is masked (R280); `mo` and `no` are the quadrant's offsets. -/
def masked (a : MulArgs) (mo no m n : Nat) : Bool :=
  a.tri && decide (a.diag < ((a.norg + no + n : Nat) : Int) - (a.morg + mo + m : Nat))

/-- The sub-tiles that are skipped (R280). -/
def skippedTiles (a : MulArgs) (mo no mq nq : Nat) : Nat :=
  ((upto 4).flatMap (fun i => (upto 6).filter (fun j =>
    decide (32 * i < mq) && decide (32 * j < nq)
      && masked a mo no (min (32 * i + 31) (mq - 1)) (32 * j)))).length

/-- The bank after an MMUL whose rows of activations are `rows`, and which has done so many K blocks of each row (R279,
R286); a row with none is as it was. The elements out of bounds change once every row of the quadrant's `mq` is done. -/
def mulBank (a : MulArgs) (v : Section) (mo no mq nq : Nat) (rows : List (List Nat)) (blocks : List Nat) : Tbl Word :=
  let old := bankOf v a.bank
  let cols := (upto nq).map (planeColumn v.planeS a.k)
  let begun (m : Nat) : Bool := decide (m < rows.length) && nth 0 m blocks != 0
  let new := ((upto rows.length).filter begun).flatMap (fun m => (upto nq).filterMap (fun n =>
    let e : Word := if masked a mo no m n then a.fill
      else BitVec.ofNat 32 (mulElem a v.planeS.code v.scales (nth [] m rows) (nth [] n cols) (nth 0 m blocks) m n
        ((look (192 * m + n) old).getD 0).toNat)
    if e = 0 then none else some (192 * m + n, e)))
  let out := old.filter (fun e => !(begun (e.1 / 192) && decide (e.1 % 192 < nq)))
  if a.zero && (upto mq).all (fun m => nth 0 m blocks = a.k / 32) then new else out.foldl (fun t e => put e.1 e.2 t) new

/-- (in part DESIGN CHOICE, log 12). -/
def mmulPlan (cohort : Nat) (c : Cmd) (u : Supply) (s : State) : Sum Nat MxPlan :=
  let sect := cohortSect s cohort
  let place := placeOf sect c.fuse
  let a := mulArgs c
  let mo := 128 * place.ns
  let no := 192 * place.ew
  let mq := min (a.m - mo) 128
  let nq := min (a.n - no) 192
  let base := u.cmd.va.toNat + (if c.fuse % 2 = 1 then mo * a.stride else 0)
  let g := memberKey s u.cohort u.cmd.owg
  let len := a.k * elemSize a.code
  let hi := base + (mq - 1) * a.stride + len
  if !groupsOk s c cohort true || !mulArgsOk a c.fuse mq nq || !pairOk (s.sect sect).planeS.code a.code
      || !inAperture u.cmd.va.toNat || u.cmd.va.toNat % 16 != 0 then .inl 5
  else if mq != 0 && supplySize s g < padOffset base + (mq - 1) * a.stride + len then .inl 3
  else
    .inr { eng := supplyEng s (.mx cohort) u, wg := g, size := len, lo := base, hi := hi
           addrs := gridOf base a.stride 0 mq 1, blocks := a.k / 32, value := skippedTiles a mo no mq nq
           effect := fun l blocks v =>
             setBank a.bank (mulBank a v mo no mq nq (l.map (actElems a.code)) blocks) v }

def runMmul (cohort : Nat) (c : Cmd) (u : Supply) (s : State) : State :=
  runPlan (.mx cohort) (cohortSect s cohort) .whole (mmulPlan cohort c u s) c s

/-- MMUL_COMMAND (R279). -/
def execMmulCommand (cohort : Nat) (s : State) : Out1 :=
  .next (beginHead (.mx cohort) 0x28B (fun c s => if c.fused then s else runMmul cohort c ⟨cohort, c⟩ s) s)

/-! ### MOUT (R281, R315) -/

/-- The format of a DFMT code, and its element size (R309). -/
def drainFmt (code : Nat) : Fmt :=
  if code = 0 then fmtF32 else if code = 1 then fmtBf16 else if code = 2 then fmtF16
  else if code = 3 then fmtE4m3 else fmtE5m2

/-- The cells that an MOUT writes, with their addresses, and its engine and workgroup; or the status that it ends with
(R281). -/
def moutPlan (cohort : Nat) (c : Cmd) (s : State) : Sum Nat (Nat × Nat × List (Nat × List Byte)) :=
  let p := c.vb.toNat
  let stride := 16 * bits p 63 48
  let m0 := bits p 47 41
  let mc := bits p 40 34 + 1
  let n0 := bits p 33 26
  let nc := bits p 25 18 + 1
  let code := bits p 17 15
  let rnd := bits p 14 12
  let size := drainSize code
  let a := c.va.toNat
  let g := memberKey s cohort c.owg
  if c.fuse != 0 || !groupsOk s c cohort true || mxReserved 0x28C p || 4 < code || 4 < rnd || 128 < m0 + mc
      || 192 < n0 + nc || stride < nc * size || !inAperture a || a % 16 != 0 then .inl 5
  else if rangeGone s g a ((mc - 1) * stride + nc * size) then .inl 3
  else
    let bank := bankOf (s.sect (cohortSect s cohort)) (bits p 10 10)
    let cell (i j : Nat) : List Byte :=
      toBytes size (fpNarrow fmtF32 (drainFmt code) rnd (bit p 11) false
        ((look (192 * (m0 + i) + n0 + j) bank).getD 0).toNat).1
    .inr (g, size, (upto mc).flatMap (fun i => (upto nc).map (fun j => (a + i * stride + j * size, cell i j))))

/-- Write so many of an MOUT's cells. -/
def moutCells (e : Eng) (g : Nat) (l : List (Nat × List Byte)) (s : State) : EngRun :=
  engFold (fun x s => engPut e g x.1 x.2 s) l ⟨s, 0, none⟩

def runMout (cohort : Nat) (c : Cmd) (s : State) : State :=
  let q := QRef.mx cohort
  match moutPlan cohort c s with
  | .inl status => doneHead q status 0 s
  | .inr (g, size, cells) =>
    finishRun q s (moutCells (engineOf s q c.id) g cells s) id 0 (fun n => size * n) [cells.length]

/-- MOUT_COMMAND (R281). -/
def execMoutCommand (cohort : Nat) (s : State) : Out1 := .next (beginHead (.mx cohort) 0x28C (runMout cohort) s)

/-! ### Fused commands (R283, R284) -/

/-- The quadrants that join in a command of a quadrant, itself among them, by position (R3, R283). -/
def partners (sect fuse : Nat) : List Nat :=
  (upto 4).filterMap (fun p =>
    let o := sect % 4
    let sameRow := p / 2 = o / 2
    let sameCol := p % 2 = o % 2
    if fuse = 3 || (fuse = 1 && sameRow) || (fuse = 2 && sameCol) then some (sect / 4 * 4 + p) else none)

/-- The quadrant that supplies another with an MLDW's weights (the northern of its pair where FUSE
shares north-south) or an MMUL's rows (the western of its pair where it shares east-west). -/
def supplierOf (sect fuse op : Nat) : Nat :=
  if op = 0x289 then (if 2 ≤ fuse then sect / 4 * 4 + sect % 2 else sect)
  else if fuse % 2 = 1 then sect / 2 * 2 else sect

/-- Whether two heads are equal apart from cN, guard, completion queue, CQWG, SRC and OWG. -/
def sameFused (a b : Cmd) : Bool :=
  a.op = b.op && a.fuse = b.fuse && a.vb = b.vb && a.vc = b.vc && a.vd = b.vd

/-- The head of a cohort's MX queue, if it is a command of a fusion that may begin. -/
def readyFused (s : State) (cohort fuse : Nat) : Option Cmd :=
  match queueOf s (.mx cohort) with
  | [] => none
  | c :: _ =>
    if c.fused && c.fuse = fuse && (goesOn s (.mx cohort) c
        || (mayBegin s (.mx cohort) c && !guardHeld s (.mx cohort) c && !discarded s (.mx cohort) c)) then some c
    else none

/-- Run one quadrant's part of a joined command so far. -/
def runJoined (l : List (Nat × Supply)) (far : Reach) (x : Nat × Supply) (s : State) : State :=
  let c := x.2.cmd
  let q := QRef.mx x.2.cohort
  if c.op = 0x28A then
    match far with
    | .whole => runMswp x.2.cohort c s
    | .reading cause => stopHead q 2 0 (.hold cause) s
    | .upTo _ => s
  else
    match look (supplierOf x.1 c.fuse c.op) l with
    | none => s
    | some u =>
      runPlan q x.1 far (if c.op = 0x289 then mldwPlan x.2.cohort c u s else mmulPlan x.2.cohort c u s) c s

/-- Whether the head of a cohort's MX queue has done its work. -/
def headDone (s : State) (cohort : Nat) : Bool :=
  ((queueOf s (.mx cohort)).head?.map (fun c => c.done.isSome)).getD false

/-- The cause for which the head of a cohort's MX queue holds. -/
def headWhy (s : State) (cohort : Nat) : Nat := ((queueOf s (.mx cohort)).head?.map (·.why)).getD 0

/-- Run every part to its end; what stops one part holds all, each with its claim and with what it has read
(in part DEDUCED, log 46). -/
def runAllJoined (l : List (Nat × Supply)) (s : State) : State :=
  let s1 := l.foldl (fun s x => runJoined l .whole x s) s
  match l.find? (fun x => !headDone s1 x.2.cohort) with
  | none => s1
  | some x =>
    let cause := if headWhy s1 x.2.cohort = 1 then 1 else 6
    l.foldl (fun s x => runJoined l (.reading cause) x s) s

/-- The partner quadrants of a command at the head of a cohort's MX queue that cohorts of its launch hold, with
these. -/
def partnersHeld (s : State) (cohort fuse : Nat) : List (Nat × Nat) :=
  (partners (cohortSect s cohort) fuse).filterMap (fun i => ((s.sect i).holder.bind (fun h =>
    if !tenureOver s i && (look h s.cohorts).map (·.launch) = (look cohort s.cohorts).map (·.launch) then some (i, h)
    else none)))

/-- Whether the head of a cohort's MX queue is a command of a fusion that nothing has ended and no slot holds. -/
def involved (s : State) (fuse : Nat) (x : Nat × Nat) : Bool :=
  match (queueOf s (.mx x.2)).head? with
  | some d => d.fused && d.fuse = fuse && !d.begun && !guardHeld s (.mx x.2) d && !discarded s (.mx x.2) d
  | none => false

/-- The parts of a fused command at the head of a cohort's MX queue, with who is its supplier, whose heads stand
ready. -/
def readyParts (s : State) (cohort fuse : Nat) : List (Nat × Supply) :=
  (partnersHeld s cohort fuse).filterMap (fun x =>
    (readyFused s x.2 fuse).map (fun d => (x.1, (⟨x.2, d⟩ : Supply))))

/-- FUSED_COMMAND_JOIN (R283). A command that reaches its MX head finds whether its partner quadrants are held;
`progress` says that they were. -/
def execFusedCommandJoin (cohort : Nat) (s : State) : Out1 :=
  match (queueOf s (.mx cohort)).head? with
  | none => .next s
  | some c =>
    let fuse := c.fuse
    let n := (partners (cohortSect s cohort) fuse).length
    let held := partnersHeld s cohort fuse
    if !c.fused || !engineOn s (queueFn s (.mx cohort)) || guardHeld s (.mx cohort) c || discarded s (.mx cohort) c
        || !(c.begun || ckptLets s (.mx cohort) c) then
      .next s
    else if c.progress = 0 && !c.begun && held.length < n then
      .next ((held.filter (involved s fuse)).foldl (fun s x => doneHead (.mx x.2) 5 0 s) (doneHead (.mx cohort) 5 0 s))
    else
      let s := modHead (.mx cohort) (fun c => { c with progress := 1 }) s
      let l := readyParts s cohort fuse
      if l.length < n then .next s
      else if !l.all (fun x => unitReady s (.mx x.2.cohort)) then
        .next (l.foldl (fun s x => claimHead (.mx x.2.cohort) s) s)
      else if l.all (fun x => sameFused x.2.cmd c) then .next (runAllJoined l s)
      else .next (l.foldl (fun s x => doneHead (.mx x.2.cohort) 5 0 s) s)

/-! ### Where a halt finds a command (R286, R338) -/

/-- How far a halt finds each of `n` pieces of a command, no piece further than the one before it: free values. -/
def haltReach (from0 blocks n : Nat) : List Nat :=
  (upto n).map (fun i => (upto (i + 1)).foldl (fun m j => min m (Config.stopReach (from0 + j))) blocks)

/-- Pieces of `size` bytes of a command that a halt stops at its next beat of 128 bytes: a free value. -/
def haltPieces (from0 size n : Nat) : Nat := min n (Config.stopReach from0 * 128 / size)

/-- Take a command that reads on to where a halt finds it: an MMUL after a whole number of K blocks of each row, the
others at a beat of 128 bytes. -/
def haltPlan (op : Nat) (p : Sum Nat MxPlan) (from0 : Nat) : Reach :=
  match p with
  | .inl _ => .upTo []
  | .inr p =>
    if op = 0x28B then .upTo (haltReach from0 p.blocks p.addrs.length)
    else .upTo (List.replicate (haltPieces from0 p.size p.addrs.length) 1)

/-- The command at the head of a cohort's MX queue has come as far as its quadrant has when the halt line finds it
(in part DESIGN CHOICE, log 12). -/
def stopMatrix (cohort : Nat) (s : State) : State :=
  let q := QRef.mx cohort
  let n := s.freeCtr
  let s := { s with freeCtr := n + 128 }
  match (queueOf s q).head? with
  | none => s
  | some c =>
    if !(goesOn s q c || (mayBegin s q c && !guardHeld s q c && !discarded s q c)) || !unitReady s q then s
    else if c.fused then
      let l := readyParts s cohort c.fuse
      let p := match look (supplierOf (cohortSect s cohort) c.fuse c.op) l with
        | none => .inl 0
        | some u => if c.op = 0x289 then mldwPlan cohort c u s else mmulPlan cohort c u s
      if l.length < (partners (cohortSect s cohort) c.fuse).length || !l.all (fun x => sameFused x.2.cmd c)
          || c.op = 0x28A then s
      else runPlan q (cohortSect s cohort) (haltPlan c.op p n) p c s
    else if c.op = 0x28C then
      match moutPlan cohort c s with
      | .inl _ => s
      | .inr (g, size, cells) =>
        let r := moutCells (engineOf s q c.id) g (cells.take (haltPieces n size cells.length)) s
        if r.done = 0 then s else modHead q (fun c => { c with begun := true, reach := [r.done] }) r.s
    else
      let p := if c.op = 0x288 then scpyPlan cohort c s else if c.op = 0x289 then mldwPlan cohort c ⟨cohort, c⟩ s
        else if c.op = 0x28B then mmulPlan cohort c ⟨cohort, c⟩ s else .inl 0
      runPlan q (cohortSect s cohort) (haltPlan c.op p n) p c s

end Sys2Proof.Machine
end

