-- ==== Sys2Proof/Machine/Tasks.lean ====
section
/-! DEFINITION. Task queues and the Task Queue Controller: records and rings (R259-R261), TKPUSH, TKPOP,
TKDONE (R319-R322) and the steps that run their commands (R262-R264). -/

namespace Sys2Proof.Machine

/-! ### Records and rings (R259-R261) -/

/-- The control word of a task record, its priority level, and whether a reserved bit is set. -/
def recordCtl (r : List Byte) : Nat := valAt 0x1C 4 r
def recordPrio (r : List Byte) : Nat := bits (recordCtl r) 13 8
def recordBad (r : List Byte) : Bool :=
  bits (recordCtl r) 31 17 != 0 || bits (recordCtl r) 15 14 != 0 || bits (recordCtl r) 3 2 != 0

/-- Whether a key names an existing task queue (in part DEDUCED, log 50). -/
def isTaskQueue (s : State) (q : Nat) : Bool := ((look q s.queues).map (fun v => decide (v.kind = 2))).getD false

/-! #### Ring memory (R266, R396)

The Task Queue Controller holds the records of the tenant that runs; at a world switch they stand in their rings, the
oldest first from the ring's base on (DESIGN CHOICE, log 18). -/

/-- Write bytes of a queue's ring, each line with its sequence tag and its undo entry (R203, R252, R345); what does not
translate stays in the controller, and so does what the undo log has no room for (in part DESIGN CHOICE, log 18). -/
def ringPut (q fn : Nat) (s : State) (p : Nat × List Byte) : State :=
  match engineXlat s fn (firstCore s fn) .write p.1 p.2.length with
  | .ok pa cid => (linePieces (p.2.length + 1) pa p.2).foldl (fun s x =>
      if undoHolds s fn (one (needsUndo s fn x.1)) then lineWrite fn cid s x
      else s.modQueue q (fun v => { v with held := true })) s
  | _ => s

/-- The records of a ring with their addresses. -/
def ringCells (base : DWord) (l : List (List Byte)) : List (Nat × List Byte) :=
  ((upto l.length).zip l).map (fun p => (wrapNat 64 (base.toNat + 64 * p.1), p.2))

/-- The controller writes a queue's records back to its rings. -/
def writeRing (s : State) (p : Nat × Queue) : State :=
  if p.2.kind != 2 then s
  else (ringCells p.2.ringPrim p.2.prim ++ ringCells p.2.ringOver p.2.overflow).foldl (ringPut p.1 p.2.fn)
    (s.modQueue p.1 (fun v => { v with held := false }))

/-- The same for every queue of a function (R266). -/
def writeRings (fn : Nat) (s : State) : State := (s.queues.filter (fun p => p.2.fn = fn)).foldl writeRing s

/-- The writes of rings that wait for the undo log are tried again (R345). -/
def retryRings (s : State) : State := (s.queues.filter (·.2.held)).foldl writeRing s

/-- A record as it is read from its ring, and the line that fails its integrity check, if one does; one that does not
translate is as the controller has it. -/
def ringGet (s : State) (fn : Nat) (p : Nat × List Byte) : List Byte × Option (Nat × Nat) :=
  match engineXlat s fn (firstCore s fn) .read p.1 64 with
  | .ok pa cid => (memRead s.mem pa 64, firstForeign s cid pa 64)
  | x => (p.2, x.failed)

/-- The controller reads a queue's records from its rings: through decryption and integrity check (R266); records whose
write waits are still in the controller. -/
def readRing (s : State) (key : Nat) : State :=
  match look key s.queues with
  | none => s
  | some v =>
    if v.held then s.modQueue key (fun v => { v with held := false }) else
    let cells := ringCells v.ringPrim v.prim ++ ringCells v.ringOver v.overflow
    let got := cells.map (ringGet s v.fn)
    let s := readsNote v.fn (firstCore s v.fn) (cells.map (fun p => (p.1, 64))) s
    match got.findSome? (·.2) with
    | some x => integrityHalt v.fn (896 + dieOf (firstCore s v.fn)) x s
    | none => s.modQueue key (fun v => { v with
        prim := (got.take v.prim.length).map (·.1), overflow := (got.drop v.prim.length).map (·.1) })

/-- The same for every queue of a function, when it is switched in. -/
def readRings (fn : Nat) (s : State) : State :=
  (s.queues.filter (fun p => p.2.fn = fn && p.2.kind = 2)).foldl (fun s p => readRing s p.1) s

/-- A record pushed for a context that does not run goes to its ring at once: the controller holds records of the
tenant that runs only. -/
def spillRing (key : Nat) (s : State) : State :=
  match look key s.queues with
  | some v => if (s.ctx v.fn).running then s else writeRing s (key, v)
  | none => s

/-! #### Pushes and pops -/

/-- A push (R261): whether the record was stored (in part DESIGN CHOICE, log 18). -/
def pushRecord (q : Nat) (r : List Byte) (s : State) : Bool × State :=
  match look q s.queues with
  | none => (false, s)
  | some v =>
    if v.kind != 2 then (false, s)
    else if v.overflow.isEmpty && decide (v.prim.length < v.capPrim) then
      (true, taskDone q (spillRing q (wakeQueue q (s.modQueue q (fun v => { v with
        prim := v.prim ++ [r], events := v.events + 1 })))))
    else if v.overflow.length < v.capOver then
      (true, taskDone q (spillRing q (s.modQueue q (fun v => { v with overflow := v.overflow ++ [r] }))))
    else (false, s)

/-- Move overflow records into the primary ring while it has room (R261). -/
def refillPrim (q : Nat) : Nat → State → State
  | 0, s => s
  | fuel + 1, s =>
    match look q s.queues with
    | none => s
    | some v =>
      match v.overflow with
      | [] => s
      | r :: rest =>
        if v.prim.length < v.capPrim then
          refillPrim q fuel (wakeQueue q (s.modQueue q (fun v => { v with
            prim := v.prim ++ [r], overflow := rest, events := v.events + 1 })))
        else s

/-- The record that a pop takes: the oldest of the highest level (R260). -/
def topRecord : List (List Byte) → Option (List Byte)
  | [] => none
  | r :: l =>
    match topRecord l with
    | none => some r
    | some m => if recordPrio r < recordPrio m then some m else some r

/-- A pop (R260): the record, if the primary ring holds one (in part DESIGN CHOICE, log 18). -/
def popRecord (q : Nat) (s : State) : Option (List Byte) × State :=
  match (look q s.queues).bind (fun v => topRecord v.prim) with
  | none => (none, s)
  | some r => (some r, taskDone q (refillPrim q 1 (s.modQueue q (fun v => { v with prim := v.prim.erase r }))))

/-- The object of a queue at the Task Queue Controller, whose sequence number is the count of pops (R368). A pop that
finds nothing is logged as a load. -/
def queueReady (s : State) (fn q agent event : Nat) : Bool := orderReady s fn 5 0 (BitVec.ofNat 64 (q % 256)) agent event
def queueDone (fn q agent event : Nat) (s : State) : State :=
  let pops := ((s.ctx fn).orderLog.filter (fun e =>
    ofObject 5 0 (BitVec.ofNat 64 (q % 256)) e && bits e.entry.toNat 47 46 = 3)).length
  orderPoint fn 5 0 (BitVec.ofNat 64 (q % 256)) agent event (some (if event = 3 then pops + 1 else pops)) s

/-! ### TKPUSH (R319, R320) -/

/-- The encoding of TKPUSH. -/
def tkpushEnc (f : Fields) : Enc :=
  { modOk := bits f.mod.toNat 10 4 = 0 && decide (f.dst.toNat < 8)
    dst := .raw, sa := .src 2 addr5, sc := .raw, tdOk := false }

/-- A status predicate becomes pending (R320); p7 never does. -/
def setPending (k d : Nat) (s : State) : State :=
  if d = 7 then s else s.modThread k (fun t => { t with pendP := t.pendP ||| (1#8 <<< d) })

/-- The queue of a binding of a workgroup. -/
def bindingOf (s : State) (wg n : Nat) : Option Nat := (look wg s.wgs).bind (fun w => boundQueue w n)

/-- What the push of a TKPUSH or TKDONE leaves: its status predicate is pending, and its outcome has its place in the order
log (R320, R368). -/
def statusDue (k fn d : Nat) (s : State) : State := setPending k d (noteDue k fn s)

/-- The record is read: its push, or the trap of a reserved control bit. -/
def pushTask (f : Fields) (k : Nat) (t : Thread) (q : Nat) (r : List Byte) (s : State) : LaneOut :=
  if recordBad r then .trap (trapBefore cIllegalOperand)
  else
    pushOr (.tk t.wg) { newCmd f 0x298 k t s with data := r, vb := BitVec.ofNat 64 q, fate := fateOf s k t.fn } none
      (statusDue k t.fn (f.dst.toNat % 8)) s

/-- TKPUSH for one thread. -/
def tkpushBody (f : Fields) : Body := fun k t l s =>
  let a := wrapNat 64 ((nth 0 0 l : Nat) + sextInt 8 f.sc.toNat)
  match bindingOf s t.wg (mBAR f) with
  | none => .trap (trapBefore cIllegalOperand)
  | some q =>
    if a % 64 != 0 then .trap (trapBefore cMisaligned 0 (BitVec.ofNat 64 a))
    else
    match accessHold t 0 with
    | some st => .stall st false
    | none =>
      match checkAccess s t.fn (coreOf k) t.wg .read a 64 with
      | .trap r => .trap r
      | .park stage page va => .park stage page va 0
      | .pad off =>
        match look t.wg s.wgs with
        | none => .trap (trapBefore cIllegalOperand)
        | some w =>
          if !padReady s k t off 0 then .stall ⟨15, 0, 0⟩ false
          else pushTask f k t q (padLoad s k w t.wg off 64) (loadDone k t (.pad off) s)
      | .dev pa cid =>
        if lineBusy s k pa 64 then .stall ⟨4, 0, 0⟩ false
        else if foreign s cid pa then .gone (coreIntegrity k (pa, cid) s)
        else if !loadReady s k t (.dev pa cid) then .stall ⟨15, 0, 0⟩ false
        else pushTask f k t q (coreRead s t.fn (coreOf k) cid pa 64) (loadDone k t (.dev pa cid) (tlbTake t.fn (coreOf k) a s))

/-- TKPUSH (R319). -/
def execTkpush (f : Fields) (s : State) : Out1 :=
  answer (formOf f (tkpushEnc f) none [] [f.dst.toNat % 8]) (tkpushBody f) s

/-- The Task Queue Controller writes the status predicate of the thread that pushed (R320). -/
def writeStatus (c : Cmd) (v : Bool) (s : State) : State :=
  let d := c.dst % 8
  if d = 7 then s
  else s.modThread c.pusher (fun t => { setPred d v t with pendP := t.pendP &&& ~~~(1#8 <<< d) })

/-- The status predicate is written, and its entry in the log of the epoch that issued the command has it (R368). A thread
that has exited keeps its place in the low part of its name. -/
def giveStatus (fn : Nat) (c : Cmd) (v : Bool) (s : State) : State :=
  let settle := settleDue (threadObject s fn (c.pusher % 2 ^ 40)) (one v)
  writeStatus c v (if recMode s fn != 1 then s else s.modCtx fn (fun x => { x with
    orderLog := settle x.orderLog, images := x.images.map (fun i => { i with log := settle i.log }) }))

/-- The agent at the Task Queue Controller that a workgroup's command is: its core. -/
def wgAgent (s : State) (wg : Nat) : Nat := ((look wg s.wgs).map (fun w => s.coreNo w.fn w.core)).getD 0

/-- A TKPUSH command: in a replay it has its logged outcome (R370). -/
def runTkpush (wg : Nat) (c : Cmd) (s : State) : State :=
  let q := QRef.tk wg
  let fn := queueFn s q
  let key := c.vb.toNat
  if c.fate = some false then doneHead q 0 0 (giveStatus fn c false s)
  else if !queueReady s fn key (wgAgent s wg) 1 then stopHead q 0 0 (.hold 5) s
  else
    let (ok, s1) := pushRecord key c.data s
    if !ok && c.fate = some true then stopHead q 0 0 (.hold 5) s
    else
      let s1 := if ok then queueDone fn key (wgAgent s wg) 1 s1 else s1
      doneHead q 0 0 (giveStatus fn c ok s1)

/-- TKPUSH_COMMAND (R261). -/
def execTkpushCommand (wg : Nat) (s : State) : Out1 := .next (beginHead (.tk wg) 0x298 (runTkpush wg) s)

/-! ### TKPOP (R262, R321) -/

/-- TKPOP (R321). -/
def execTkpop (f : Fields) (s : State) : Out1 :=
  answer (formOf f { modOk := bits f.mod.toNat 10 7 = 0, sa := .src 1 { g := true, s := true, z := true } })
    (fun k t l s =>
      match bindingOf s t.wg (mBAR f) with
      | none => .trap (trapBefore cIllegalOperand)
      | some q =>
        pushOr (.tk t.wg)
          { newCmd f 0x299 k t s with va := BitVec.ofNat 64 (nth 0 0 l), vb := BitVec.ofNat 64 q } none id s) s

/-- What a pop of a queue would be at its ordering point: a pop, or a load where it finds nothing. -/
def popEvent (s : State) (key : Nat) : Nat :=
  if ((look key s.queues).bind (fun v => topRecord v.prim)).isSome then 3 else 0

/-- A TKPOP command: the record goes to scratchpad, or the event counter does (in part DEDUCED, log 50). -/
def runTkpop (wg : Nat) (c : Cmd) (s : State) : State :=
  let q := QRef.tk wg
  let fn := queueFn s q
  let key := c.vb.toNat
  let off := c.va.toNat
  match look wg s.wgs with
  | none => doneHead q 5 0 s
  | some w =>
    if off % 64 != 0 || w.record.isSome then doneHead q 5 0 s
    else if w.spsize < off + 64 then doneHead q 3 0 s
    else if claimedByOther s c.id wg off 64 || !queueReady s fn key (wgAgent s wg) (popEvent s key) then stopHead q 5 0 (.hold 5) s
    else if !padsHold s fn wg off 64 then stopHead q 5 0 (.hold 1) s
    else
      match popRecord key s with
      | (none, s) =>
        let n := ((look key s.queues).map (·.events)).getD 0
        doneHead q 4 0 ((logPad fn wg off (queueDone fn key (wgAgent s wg) 0 s)).modWg wg (padWrite off (toBytes 4 n.toNat)))
      | (some r, s) =>
        let left := ((look key s.queues).map (·.prim.length)).getD 0
        modHead q (fun c => { c with data := r }) (doneHead q 0 (min left 0xFFFFFF)
          ((logPad fn wg off (queueDone fn key (wgAgent s wg) 3 s)).modWg wg (fun w =>
            { padWrite off r w with record := some r })))

/-- TKPOP_COMMAND (R262). -/
def execTkpopCommand (wg : Nat) (s : State) : Out1 := .next (beginHead (.tk wg) 0x299 (runTkpop wg) s)

/-! ### Successor joins (R263, R264) -/

/-- What a successor join comes to: unusable, stopped, or done, saying whether a successor was released
and whether it was stored. -/
inductive JoinEnd where
  | bad
  | stop (x : EngStop)
  | done (released : Option Bool) (s : State)

/-- Whether a join address can be used: a multiple of 16 that translates with R and W; one that does not translate is
unusable in every context (R264, R294) (in part DEDUCED, log 42). -/
def joinAt (e : Eng) (j : Nat) (s : State) : Option JoinEnd :=
  if j % 16 != 0 || inAperture j then some .bad
  else
    match engineXlat s e.fn e.core .both j 16 with
    | .ok _ _ => none
    | .park _ _ _ | .violation _ => some .bad
    | .integrity pa cid => some (.stop (.integrity pa cid))

/-- A successor's record is pushed into a queue of the function; nothing is stored where there is no such
task queue (R264) (in part DEDUCED, log 49). In a replay `fate` is the logged status (R370). -/
def releaseRecord (e : Eng) (num addr : Nat) (fate : Option Bool) (s : State) : JoinEnd :=
  let key := queueKey e.fn num
  if (s.vf e.fn).qmax.toNat ≤ num || !isTaskQueue s key || inAperture addr || fate = some false then
    .done (some false) s
  else
    match engReadDev e 2 addr 64 s with
    | .inl .fault => .done (some false) s
    | .inl x => .stop x
    | .inr (r, s) =>
      if !queueReady s e.fn key e.agent 1 then .stop (.hold 5)
      else
        let (ok, s) := pushRecord key r s
        if !ok && fate = some true then .stop (.hold 5)
        else .done (some ok) (if ok then queueDone e.fn key e.agent 1 s else s)

/-- The successor part of TKDONE (R264): decrement the join and release the successor at 0. -/
def useJoin (e : Eng) (j : Nat) (fate : Option Bool) (s : State) : JoinEnd :=
  if j = 0 then .done none s
  else
    match joinAt e j s with
    | some r => r
    | none =>
      match engReadDev e 2 j 16 s with
      | .inl .fault => .bad
      | .inl x => .stop x
      | .inr (b, s) =>
        let c := (valAt 0 4 b + 2 ^ 32 - 1) % 2 ^ 32
        match engWriteDev e 2 j (toBytes 4 c) s with
        | .inl .fault => .bad
        | .inl x => .stop x
        | .inr s => if c = 0 then releaseRecord e (valAt 4 2 b) (valAt 8 8 b) fate s else .done none s

/-! ### TKDONE (R264, R322) -/

/-- TKDONE (R322). -/
def execTkdone (f : Fields) (s : State) : Out1 :=
  answer
    (formOf f { modOk := bits f.mod.toNat 10 6 = 0 && bits f.mod.toNat 1 0 = 0 && tailOk f
                  && decide (f.dst.toNat < 8), dst := .raw, tdOk := false } none [] [f.dst.toNat % 8])
    (fun k t _ s => pushOr (.tk t.wg) { newCmd f 0x29A k t s with fate := fateOf s k t.fn } none
      (statusDue k t.fn (f.dst.toNat % 8)) s) s

/-- The region list of a record as the TQC reads it (R263): its bytes, none if it cannot be used, which in every
context is so where it does not translate (R322), or what stops the read (in part DEDUCED, log 42). -/
def readRegions (e : Eng) (a : Nat) (s : State) : Sum EngStop (Option (List Byte) × State) :=
  if a = 0 then .inr (some [], s)
  else if a % 128 != 0 || inAperture a then .inr (none, s)
  else
    match engReadDev e 2 a 128 s with
    | .inl .fault | .inl (.park _ _ _) => .inr (none, s)
    | .inl x => .inl x
    | .inr (b, s) => .inr (some b, s)

/-- The regions of a list (R263): up to the first whose length is 0. -/
def regionsIn (b : List Byte) : List (Nat × Nat) :=
  ((upto 8).map (fun i => (valAt (16 * i) 8 b, valAt (16 * i + 8) 8 b))).takeWhile (fun r => r.2 != 0)

/-- The workgroup of a signer: the one of the cohort on its core. A thread that has exited keeps its
place in the low part of its name. -/
def signerWg (s : State) (cohort k : Nat) : Option Nat :=
  (look cohort s.cohorts).bind (fun h => h.members.find? (fun g =>
    ((look g s.wgs).map (·.core)) = some (k % 2 ^ 40 / 1536)))

/-- Whether a command that the workgroup pushed before one has not completed, TK apart (R264). -/
def earlierCmds (s : State) (wg id : Nat) : Bool :=
  match look wg s.wgs with
  | none => false
  | some w =>
    (w.cp0 ++ w.cp1 ++ w.ne).any (fun c => decide (c.id < id))
      || ((look w.cohort s.cohorts).map (fun h => (h.mx ++ h.sq).any (fun c =>
        decide (c.id < id) && (c.wg = wg || c.signers.any (fun k => signerWg s w.cohort k = some wg))))).getD false

/-- Whether a store of the core to the regions, in flight before a bound, is not acknowledged (R241). -/
def unclean (s : State) (fn core bound : Nat) (l : List (Nat × Nat)) : Bool :=
  s.ops.any (fun o => o.core = core && !o.aperture && o.kind.writes && decide (o.id < bound)
    && l.any (fun r => !inAperture r.1 && regionTouches s fn core o.addr o.size (r.2 / 4096 + 2) r.1 r.2))

/-- TKDONE ends: the predicate, in a replay as it was logged (R370), the status, and no current record. -/
def endTkdone (wg : Nat) (c : Cmd) (v : Bool) (status value : Nat) (s : State) : State :=
  doneHead (.tk wg) status value
    ((giveStatus (queueFn s (.tk wg)) c (c.fate.getD v) s).modWg wg (fun w => { w with record := none }))

/-- TKDONE begins (R322): what cannot be used ends it; `vc` says that all can, then the command keeps the region list
and waits. -/
def beginTkdone (wg : Nat) (c : Cmd) (s : State) : State :=
  let q := QRef.tk wg
  let e := engineOf s q c.id
  match (look wg s.wgs).bind (·.record) with
  | none => endTkdone wg c false 5 0 s
  | some r =>
    let j := valAt 0x20 8 r
    match readRegions e (valAt 0x28 8 r) s, (if j = 0 then none else joinAt e j s) with
    | .inl x, _ => stopHead q 5 0 x s
    | .inr (none, _), _ => endTkdone wg c false 5 0 s
    | .inr (some _, _), some (.stop x) => stopHead q 5 0 x s
    | .inr (some _, s), some _ => endTkdone wg c false 5 0 s
    | .inr (some b, s), none =>
      unitMoved q (modHead q (fun c => { c with begun := true, progress := 0, data := b, vc := 1, why := 5 }) s)

/-- A begun TKDONE goes on once its waits are over (R264): for the workgroup's earlier commands, then for the core's
stores to the regions that were in flight at that time, of which `progress` keeps the bound (in part DESIGN CHOICE, log 12). -/
def finishTkdone (wg : Nat) (s : State) : State :=
  let q := QRef.tk wg
  match queueOf s q with
  | [] => s
  | c :: _ =>
    if c.op != 0x29A || c.vc = 0 || !goesOn s q c then s
    else
      let e := engineOf s q c.id
      match (look wg s.wgs).bind (·.record) with
      | none => endTkdone wg c false 5 0 s
      | some r =>
        let bound := if c.progress = 0 then s.nextId else c.progress - 1
        if earlierCmds s wg c.id then s
        else if unclean s e.fn e.core bound (regionsIn c.data) then modHead q (fun c => { c with progress := bound + 1 }) s
        else
          match useJoin e (valAt 0x20 8 r) c.fate s with
          | .bad => endTkdone wg c false 5 0 s
          | .stop x => stopHead q 5 0 x s
          | .done released s1 => endTkdone wg c (released != some false) 0 (one (released = some true)) s1

/-- TKDONE_COMMAND (R264). -/
def execTkdoneCommand (wg : Nat) (s : State) : Out1 :=
  .next (finishTkdone wg (beginHead (.tk wg) 0x29A (fun c s => if c.vc = 0 then beginTkdone wg c s else s) s))

end Sys2Proof.Machine
end

