-- ==== Sys2Proof/Machine/Sequencer.lean ====
section
/-! DEFINITION. The step sequencer (R288-R295): the five instructions (R323) and the steps that run their
commands. -/

namespace Sys2Proof.Machine

/-! ### The five instructions (R323) -/

/-- The encoding of a sequencer instruction; `addr`: it names an address. -/
def sqEnc (f : Fields) (addr : Bool) : Enc :=
  { modOk := tailOk f, sa := if addr then .src 2 addr5 else .none }

/-- A push to SQ: it needs the section's quadrant and step sequencer (R270, R288). -/
def sqPush (f : Fields) (op : Nat) : Body := fun k t l s =>
  let c := cohortOf s t
  match takeTenure s c with
  | none => .stall (tenureStall (cohortSect s c)) false
  | some s =>
    match pushOr (.sq c) { newCmd f op k t s with va := BitVec.ofNat 64 (nth 0 0 l) } (some (t.tl, 7))
        (fun s => s.modThread k (fun t => { t with tl := t.tl + 1 })) s with
    | .trap r => .fail r s
    | o => o

/-- SQCFG. -/
def execSqcfg (f : Fields) (s : State) : Out1 := answer (formOf f (sqEnc f true)) (sqPush f 0x2A0) s
/-- SQSIG. -/
def execSqsig (f : Fields) (s : State) : Out1 := answer (formOf f (sqEnc f false)) (sqPush f 0x2A1) s
/-- SQCMP. -/
def execSqcmp (f : Fields) (s : State) : Out1 := answer (formOf f (sqEnc f false)) (sqPush f 0x2A2) s
/-- SQMAP. -/
def execSqmap (f : Fields) (s : State) : Out1 := answer (formOf f (sqEnc f true)) (sqPush f 0x2A3) s
/-- SQSTEP. -/
def execSqstep (f : Fields) (s : State) : Out1 := answer (formOf f (sqEnc f false)) (sqPush f 0x2A4) s

/-! ### Region descriptors (R289) -/

/-- Fields of a region descriptor. -/
def regBase (d : List Byte) : Nat := valAt 0 8 d
def regStride (d : List Byte) : Nat := valAt 8 8 d
def regNty (d : List Byte) : Nat := valAt 0x10 4 d
def regNtx (d : List Byte) : Nat := valAt 0x14 4 d
def regTheta (d : List Byte) : Nat := valAt 0x18 4 d
def regCtl (d : List Byte) : Nat := valAt 0x1C 4 d
def regSig (d : List Byte) : Nat := valAt 0x20 8 d
def regTable (d : List Byte) : Nat := valAt 0x28 8 d
def regTiles (d : List Byte) : Nat := regNty d * regNtx d
def regFirst (d : List Byte) : Nat := bits (regCtl d) 27 16
def regFmt (d : List Byte) : Nat := bits (regCtl d) 1 0
def regElem (d : List Byte) : Nat := if regFmt d = 0 then 4 else 2

/-- Whether every field lies within its limits and every reserved one is 0. -/
def regionOk (d : List Byte) : Bool :=
  let theta := unpack fmtF32 (regTheta d)
  decide (regFmt d ≤ 2) && bits (regCtl d) 31 28 = 0 && bits (regCtl d) 15 2 = 0
    && valAt 0x30 4 d / 16 = 0 && (bytesAt 0x34 12 d).all (· = 0)
    && decide (1 ≤ regNty d) && decide (regNty d ≤ 64) && decide (1 ≤ regNtx d) && decide (regNtx d ≤ 64)
    && regBase d % 16 = 0 && regStride d % 16 = 0 && decide (64 * regNtx d * regElem d ≤ regStride d)
    && regSig d % 64 = 0 && regTable d % 64 = 0 && decide (regFirst d + regTiles d ≤ 4096)
    && (match theta with
      | .zero _ => true
      | .fin neg _ _ => !neg
      | _ => false)

/-- Whether two regions' ranges of the skip map overlap. -/
def mapsOverlap (d e : List Byte) : Bool :=
  decide (regFirst d < regFirst e + regTiles e) && decide (regFirst e < regFirst d + regTiles d)

/-- The slot that a command names, in its section. -/
def Cmd.region (c : Cmd) : Nat := c.mod.toNat % 4
def slotOfCmd (s : State) (cohort : Nat) (c : Cmd) : Option RegionSlot :=
  nth none c.region (s.sect (cohortSect s cohort)).slots

/-- Take a range of numbers out of a list. -/
def without (lo n : Nat) (l : List Nat) : List Nat := l.filter (fun i => !(decide (lo ≤ i) && decide (i < lo + n)))

/-! ### SQCFG (R291) -/

/-- The name of a queue's creation. -/
def bornOf (s : State) (key : Nat) : Nat := ((look key s.queues).map (·.born)).getD 0

/-- The queue of a binding of the workgroups of a cohort: their launch bound it for each of them alike, so that any that
is resident tells it when the one that pushed an SQCFG is gone (R291, R400). -/
def cohortBinding (s : State) (cohort n : Nat) : Option Nat :=
  (look cohort s.cohorts).bind (fun h => h.members.findSome? (fun g => bindingOf s g n))

/-- (in part DEDUCED, log 48). -/
def runSqcfg (cohort : Nat) (c : Cmd) (s : State) : State :=
  let q := QRef.sq cohort
  let sect := cohortSect s cohort
  let a := c.va.toNat
  if a % 64 != 0 then doneHead q 5 0 s
  else if rangeGone s c.wg a 64 then doneHead q 3 0 s
  else
    match engGet (engineOf s q c.id) c.wg a 64 s with
    | .inl x => stopHead q 2 0 x s
    | .inr (d, s) =>
      let others := ((upto 4).filter (· != c.region)).filterMap (fun i => nth none i (s.sect sect).slots)
      match cohortBinding s cohort (valAt 0x30 4 d % 16) with
      | none => doneHead q 5 0 s
      | some key =>
        if !regionOk d || others.any (fun o => mapsOverlap d o.desc) then doneHead q 5 0 s
        else
          changeUnit q sect (fun v => { v with
            slots := setNth (some ⟨d, key, bornOf s key, 0⟩) c.region v.slots
            skip := without (regFirst d) (regTiles d) v.skip
            valid := without (regFirst d) (regTiles d) v.valid }) id (doneHead q 0 (regTiles d)) s

/-- SQCFG_COMMAND (R291). -/
def execSqcfgCommand (cohort : Nat) (s : State) : Out1 := .next (beginHead (.sq cohort) 0x2A0 (runSqcfg cohort) s)

/-! ### SQSIG (R88, R292) -/

/-- An element converted exactly to FP32. -/
def exactF32 (fmt v : Nat) : Nat :=
  if fmt = 0 then v else if fmt = 1 then v * 2 ^ 16 else (fpToFp fmtF16 fmtF32 0 false false v).1

/-- One component of a tile's signature over its 4,096 elements, row by row. -/
def sigComponent (pat : DWord) (j : Nat) (elems : List Nat) : Nat :=
  (((upto elems.length).zip elems).foldl (fun acc p =>
    let row := p.1 / 64
    let col := p.1 % 64
    let x := if pat.getLsbD ((row + col + 8 * j) % 64) then p.2 ^^^ 2 ^ 31 else p.2
    (fpAdd fmtF32 0 false acc x).1) 0)

/-- The eight components as the 32 bytes of a signature. -/
def signature (pat : DWord) (elems : List Nat) : List Byte :=
  (upto 8).flatMap (fun j => toBytes 4 (sigComponent pat j elems))

/-- The sequencer's read and write of device memory: it reaches no scratchpad. -/
def sqRead (e : Eng) (va n : Nat) (s : State) : Sum EngStop (List Byte × State) :=
  if inAperture va then .inl .fault else engReadDev e 2 va n s
def sqWrite (e : Eng) (va : Nat) (l : List Byte) (s : State) : Sum EngStop State :=
  if inAperture va then .inl .fault else engWriteDev e 2 va l s

/-- Read pieces of 16 bytes in order until one fails. -/
def sqCollect (e : Eng) : List Nat → State → List (List Byte) × State × Option EngStop
  | [], s => ([], s, none)
  | a :: l, s =>
    match sqRead e a 16 s with
    | .inl x => ([], s, some x)
    | .inr (b, s) =>
      let r := sqCollect e l s
      (b :: r.1, r.2)

/-- The addresses of a tile's 16-byte pieces, row by row. -/
def tilePieces (d : List Byte) (t : Nat) : List Nat :=
  let ty := t / regNtx d
  let tx := t % regNtx d
  gridOf (regBase d + 64 * ty * regStride d + 64 * tx * regElem d) (regStride d) 16 64 (4 * regElem d)

/-- One tile of SQSIG: the state, or what stopped it and the byte offset reached. -/
def sigTile (e : Eng) (d : List Byte) (pat : DWord) (t : Nat) (s : State) : Sum (EngStop × Nat) State :=
  let start := 4096 * regElem d * t
  match sqCollect e (tilePieces d t) s with
  | (l, _, some x) => .inl (x, start + 16 * l.length)
  | (l, s, none) =>
    let bytes := l.flatten
    let elems := (upto 4096).map (fun i => exactF32 (regFmt d) (valAt (regElem d * i) (regElem d) bytes))
    match sqWrite e (regSig d + 64 * t + 32) (signature pat elems) s with
    | .inl x => .inl (x, start)
    | .inr s => .inr s

/-- A command's tiles in turn, from the one that it has come to: what ends or stops it. A halt or a wait finds it
between two tiles (R273, R295). -/
def tileRun (q : QRef) (f : Nat → State → Sum (EngStop × Nat) State) (finish : State → State) : List Nat → State → State
  | [], s => finish s
  | t :: l, s =>
    match f t s with
    | .inr s => tileRun q f finish l (unitMoved q (modHead q (fun c => { c with begun := true, progress := t + 1 }) s))
    | .inl (.fault, n) => doneHead q 2 n s
    | .inl (x, _) => stopHead q 2 0 x s

/-- The tiles of a region that a command has not come to yet. -/
def tilesLeft (c : Cmd) (d : List Byte) : List Nat := (upto (regTiles d)).drop c.progress

/-- Whether a region lies wholly in the pool aperture. -/
def regionPad (d : List Byte) : Bool :=
  inAperture (regBase d)
    && inAperture (regBase d + (64 * regNty d - 1) * regStride d + 64 * regNtx d * regElem d - 1)

/-- The sign pattern is the one that was read when the command began (R290): `vd` keeps it. -/
def runSqsig (cohort : Nat) (c : Cmd) (s : State) : State :=
  let q := QRef.sq cohort
  match slotOfCmd s cohort c with
  | none => doneHead q 5 0 s
  | some r =>
    if regionPad r.desc then doneHead q 5 0 s
    else
      let e := engineOf s q c.id
      let pat := if c.begun then c.vd else (s.sect (cohortSect s cohort)).sqpat
      let s := modHead q (fun c => { c with vd := pat }) s
      tileRun q (sigTile e r.desc pat) (doneHead q 0 (regTiles r.desc)) (tilesLeft c r.desc) s

/-- SQSIG_COMMAND (R292). -/
def execSqsigCommand (cohort : Nat) (s : State) : Out1 := .next (beginHead (.sq cohort) 0x2A1 (runSqsig cohort) s)

/-! ### SQCMP (R293) -/

/-- The magnitude of an FP32 encoding. -/
def absF32 (v : Nat) : Nat := v % 2 ^ 31

/-- Whether a tile whose signature entry is given is close enough to be skipped. -/
def closeEnough (theta : Nat) (entry : List Byte) : Bool :=
  let stored (j : Nat) : Nat := valAt (4 * j) 4 entry
  let pending (j : Nat) : Nat := valAt (32 + 4 * j) 4 entry
  let d := (upto 8).foldl (fun d j =>
    (fpAdd fmtF32 0 false d (absF32 (fpSub fmtF32 0 false (pending j) (stored j)).1)).1) 0
  let o := (upto 8).foldl (fun o j => (fpAdd fmtF32 0 false o (absF32 (stored j))).1) 0
  (fpCompare fmtF32 3 false d (fpMul fmtF32 0 false theta o).1).1

/-- One tile of SQCMP. -/
def cmpTile (e : Eng) (sect : Nat) (d : List Byte) (t : Nat) (s : State) : Sum (EngStop × Nat) State :=
  let i := regFirst d + t
  match sqRead e (regTable d + 64 * t) 64 s with
  | .inl x => .inl (x, 64 * t)
  | .inr (rec, s) =>
    match sqRead e (regSig d + 64 * t) 64 s with
    | .inl x => .inl (x, 64 * t)
    | .inr (entry, s) =>
      if (s.sect sect).valid.contains i && bit (recordCtl rec) 16 && closeEnough (regTheta d) entry then
        match changeBulk e.fn sect (fun v => { v with skip := without i 1 v.skip ++ [i] }) s with
        | none => .inl (.hold 1, 64 * t)
        | some s => .inr s
      else
        match changeBulk e.fn sect (fun v => { v with
          skip := without i 1 v.skip, valid := without i 1 v.valid ++ [i] }) s with
        | none => .inl (.hold 1, 64 * t)
        | some s =>
          match sqWrite e (regSig d + 64 * t) (bytesAt 32 32 entry) s with
          | .inl x => .inl (x, 64 * t)
          | .inr s => .inr s

/-- The tiles of a region that its skip map marks (in part DEDUCED, log 49). -/
def skippedOf (v : Section) (d : List Byte) : List Nat :=
  (upto (regTiles d)).filter (fun t => v.skip.contains (regFirst d + t))

/-- (in part DEDUCED, log 49). -/
def runSqcmp (cohort : Nat) (c : Cmd) (s : State) : State :=
  let q := QRef.sq cohort
  let sect := cohortSect s cohort
  match slotOfCmd s cohort c with
  | none => doneHead q 5 0 s
  | some r =>
    tileRun q (cmpTile (engineOf s q c.id) sect r.desc)
      (fun s => doneHead q 0 (skippedOf (s.sect sect) r.desc).length s) (tilesLeft c r.desc) s

/-- SQCMP_COMMAND (R293). -/
def execSqcmpCommand (cohort : Nat) (s : State) : Out1 := .next (beginHead (.sq cohort) 0x2A2 (runSqcmp cohort) s)

/-! ### SQMAP (R295) -/

/-- The skip map of a region as bytes. -/
def mapBytes (v : Section) (d : List Byte) : List Byte :=
  toBytes ((regTiles d + 7) / 8) (maskOf (skippedOf v d))

def runSqmap (cohort : Nat) (c : Cmd) (s : State) : State :=
  let q := QRef.sq cohort
  let v := s.sect (cohortSect s cohort)
  match slotOfCmd s cohort c with
  | none => doneHead q 5 0 s
  | some r =>
    let bytes := mapBytes v r.desc
    if rangeGone s c.wg c.va.toNat bytes.length then doneHead q 3 0 s
    else
      let e := engineOf s q c.id
      let cells := (upto bytes.length).zip bytes
      finishRun q s (engFold (fun x s => engPut e c.wg (c.va.toNat + x.1) [x.2] s) cells ⟨s, 0, none⟩)
        id (skippedOf v r.desc).length id []

/-- SQMAP_COMMAND (R295). -/
def execSqmapCommand (cohort : Nat) (s : State) : Out1 := .next (beginHead (.sq cohort) 0x2A3 (runSqmap cohort) s)

/-! ### SQSTEP (R294) -/

/-- How one tile of SQSTEP goes: taken (and whether its record was pushed), stopped, or in error. -/
inductive StepTile where
  | taken (pushed : Bool) (s : State)
  | stop (x : EngStop)
  | error

/-- One tile of SQSTEP: its record is pushed, or completed without running. -/
def stepTile (e : Eng) (sect : Nat) (r : RegionSlot) (t : Nat) (s : State) : StepTile :=
  match sqRead e (regTable r.desc + 64 * t) 64 s with
  | .inl .fault => .error
  | .inl x => .stop x
  | .inr (rec, s) =>
    if (s.sect sect).skip.contains (regFirst r.desc + t) then
      match useJoin e (valAt 0x20 8 rec) none s with
      | .bad => .error
      | .stop x => .stop x
      | .done _ s => .taken false s
    else if !queueReady s e.fn r.queue e.agent 1 then .stop (.hold 5)
    else
      let (ok, s) := pushRecord r.queue rec s
      if ok then .taken true (queueDone e.fn r.queue e.agent 1 s) else .stop (.hold 4)

/-- SQSTEP ends with every tile taken: the slot's step count rises. -/
def endSqstep (cohort : Nat) (c : Cmd) (r : RegionSlot) (s : State) : State :=
  changeUnit (.sq cohort) (cohortSect s cohort) (fun v => { v with
    slots := setNth (some { r with steps := r.steps + 1 }) c.region v.slots }) id (doneHead (.sq cohort) 0 c.vd.toNat) s

/-- A begun SQSTEP takes tiles until one stops it: `progress` is the next tile, `vd` counts the records
pushed (in part DESIGN CHOICE, log 12). -/
def sqSteps (cohort : Nat) : Nat → State → State
  | 0, s => s
  | fuel + 1, s =>
    let q := QRef.sq cohort
    match queueOf s q with
    | [] => s
    | c :: _ =>
      if c.op != 0x2A4 || c.va = 0 || !goesOn s q c then s
      else
        match slotOfCmd s cohort c with
        | none => doneHead q 5 0 s
        | some r =>
          if regTiles r.desc ≤ c.progress then endSqstep cohort c r s
          else
            match stepTile (engineOf s q c.id) (cohortSect s cohort) r c.progress s with
            | .error => doneHead q 2 c.progress s
            | .stop x => stopHead q 2 c.progress x s
            | .taken pushed s => sqSteps cohort fuel (unitMoved q (modHead q (fun c => { c with
                progress := c.progress + 1, why := 0, vd := c.vd + BitVec.ofNat 64 (one pushed) }) s))

/-- SQSTEP begins: `va`, which carries no address in it, says so. -/
def beginSqstep (cohort : Nat) (c : Cmd) (s : State) : State :=
  let q := QRef.sq cohort
  match slotOfCmd s cohort c with
  | none => doneHead q 5 0 s
  | some r =>
    if !isTaskQueue s r.queue || bornOf s r.queue != r.born then doneHead q 5 0 s
    else unitMoved q (modHead q (fun c => { c with begun := true, progress := 0, va := 1, vd := 0 }) s)

/-- SQSTEP_COMMAND (R294). -/
def execSqstepCommand (cohort : Nat) (s : State) : Out1 :=
  .next (sqSteps cohort 4097 (beginHead (.sq cohort) 0x2A4
    (fun c s => if c.va = 0 then beginSqstep cohort c s else s) s))

/-! ### Where a halt finds a command (R295, R338) -/

/-- The SQSIG or SQCMP at the head of a cohort's SQ queue has done as many tiles as a halt finds done: a free value
(in part DESIGN CHOICE, log 12). -/
def stopSequencer (cohort : Nat) (s : State) : State :=
  let q := QRef.sq cohort
  let n := Config.stopReach s.freeCtr
  let s := { s with freeCtr := s.freeCtr + 1 }
  match (queueOf s q).head? with
  | none => s
  | some c =>
    if !(goesOn s q c || (mayBegin s q c && !guardHeld s q c && !discarded s q c)) || !unitReady s q then s
    else
      match slotOfCmd s cohort c with
      | none => s
      | some r =>
        let l := (tilesLeft c r.desc).take n
        let e := engineOf s q c.id
        if c.op = 0x2A1 && !regionPad r.desc && !l.isEmpty then
          let pat := if c.begun then c.vd else (s.sect (cohortSect s cohort)).sqpat
          tileRun q (sigTile e r.desc pat) id l (modHead q (fun c => { c with vd := pat }) s)
        else if c.op = 0x2A2 then tileRun q (cmpTile e (cohortSect s cohort) r.desc) id l s
        else s

end Sys2Proof.Machine
end

