-- ==== Sys2Proof/Machine/Place.lean ====
section
/-! DEFINITION. The dispatcher and the life of threads and workgroups: kernel descriptors (R63, R64), EXIT
(R117), launch admission and placement (R165-R167, R297), the variant switch (R298, R299, R324). -/

namespace Sys2Proof.Machine

/-! ### Kernel descriptors (R63) -/

/-- A variant of a kernel: entry, `.frame`, `.pool` and `.wg`. -/
structure Variant where
  entry : DWord
  frame : Nat
  pool : Nat
  x : Nat
  y : Nat
  z : Nat
  deriving DecidableEq, Repr

/-- A kernel. `apprentice` is the entry of its address slice, if it has one. -/
structure Kernel where
  flim : Nat
  cohort : Nat
  apprentice : Option DWord
  switchMap : Nat
  variants : List Variant
  deriving DecidableEq, Repr

/-- The variant entry `v` of a descriptor. -/
def variantOf (d : List Byte) (v : Nat) : Variant :=
  let a := 0x40 + 32 * v
  ⟨BitVec.ofNat 64 (valAt a 8 d), valAt (a + 8) 2 d, valAt (a + 0xC) 4 d,
    valAt (a + 0x10) 2 d, valAt (a + 0x12) 2 d, valAt (a + 0x14) 2 d⟩

/-- Threads and warps of a workgroup that runs a variant. -/
def Variant.threads (v : Variant) : Nat := v.x * v.y * v.z
def Variant.warps (v : Variant) : Nat := (v.threads + 31) / 32

/-- Whether a variant keeps the limits of R57. -/
def Variant.ok (v : Variant) : Bool :=
  v.frame % 8 = 0 && decide (8 ≤ v.frame) && decide (v.frame ≤ 192) && v.pool % Config.granuleBytes = 0
    && v.threads != 0 && decide (v.threads ≤ 1024)

/-- The kernel that a descriptor describes; none if it is malformed. An apprentice address without flag bit 2 and a
switch-map address beside one variant are no fault (in part DEDUCED, log 53). -/
def kernelOf (d : List Byte) : Option Kernel :=
  let flags := valAt 4 4 d
  let n := flags % 4 + 1
  let vs := (upto n).map (variantOf d)
  let app := bit flags 2
  let k : Kernel :=
    ⟨valAt 8 4 d, valAt 0xC 4 d, if app then some (BitVec.ofNat 64 (valAt 0x10 8 d)) else none,
      valAt 0x20 8 d, vs⟩
  if valAt 0 4 d = 1 && flags / 8 = 0 && (bytesAt 0x28 24 d).all (· = 0) && (bytesAt 0xC0 64 d).all (· = 0)
      && (upto n).all (fun v => valAt (0x4A + 32 * v) 2 d = 0 && (bytesAt (0x56 + 32 * v) 10 d).all (· = 0))
      && (bytesAt (0x40 + 32 * n) (32 * (4 - n)) d).all (· = 0)
      && !(app && n != 1) && vs.all Variant.ok && decide (1 ≤ k.cohort) && decide (k.cohort ≤ 4)
      && k.flim = vs.foldl (fun m v => max m v.frame) 0 then some k
  else none

/-- The kernel whose descriptor lies at an address of a function; none if it is malformed (R63)
(in part DESIGN CHOICE, log 79). -/
def kernelAt (s : State) (fn : Nat) (a : DWord) : Option Kernel :=
  if a.toNat % 256 != 0 then none
  else
    match engineRead s fn (firstCore s fn) 2 a.toNat 256 with
    | .inl _ => none
    | .inr d => kernelOf d

/-- The line of its descriptor that fails its integrity check, if one does (R402). -/
def kernelForeign (s : State) (fn : Nat) (a : DWord) : Option (Nat × Nat) :=
  if a.toNat % 256 = 0 then readsForeign s fn (firstCore s fn) a.toNat 256 else none

/-- What reading a kernel's descriptor leaves (R208). -/
def kernelNote (fn : Nat) (a : DWord) (s : State) : State :=
  if a.toNat % 256 = 0 then readNote fn (firstCore s fn) 2 a.toNat 256 s else s

/-- The variant of a kernel. -/
def Kernel.variant (k : Kernel) (v : Nat) : Variant := nth ⟨0, 0, 0, 0, 0, 0⟩ v k.variants

/-- FSIZE at thread start (R6). -/
def Kernel.start (k : Kernel) : Nat := if k.flim = 8 then 8 else 16

/-! ### What a placement takes (R165, R296) -/

/-- Frame units of a workgroup at its start, apprentices included. -/
def Kernel.units (k : Kernel) (v : Nat) : Nat :=
  (k.variant v).threads * unitsOf k.start * (if k.apprentice.isSome then 2 else 1)

/-- The need of a variant on a core (R296), and the granules of its queue windows (R158). -/
def needOn (s : State) (core : Nat) (k : Kernel) (v : Nat) : Nat :=
  unitsNeed s core (k.units v) + (k.variant v).pool / Config.granuleBytes
def Kernel.windowG (k : Kernel) (v : Nat) : Nat :=
  if k.apprentice.isSome then Config.windowGranules * (k.variant v).warps else 0

/-- The free warp positions of a core: no thread has them, nor a variant switch for which the condition has held. -/
def freePositions (s : State) (core : Nat) : List Nat :=
  (upto Config.warpPositions).filter (fun p =>
    !s.threads.any (fun t => coreOf t.1 = core && wposOf t.1 = p)
      && !s.wgs.any (fun w => w.2.core = core && w.2.vsw.any (fun q => q.spots.any (fun x => x.2 = p))))

/-- Positions for warps with the given home slots: the lowest free one each, in order. -/
def takePositions : List Nat → List Nat → Option (List Nat)
  | [], _ => some []
  | slot :: l, free =>
    match free.find? (fun p => p % 4 = slot) with
    | none => none
    | some p => (takePositions l (free.filter (· != p))).map (p :: ·)

/-- Home slots of a workgroup's warps from a base slot: the compute warps, then the apprentice warps. -/
def homeSlots (k : Kernel) (v b : Nat) : List Nat :=
  let l := (upto (k.variant v).warps).map (fun w => (b + w) % 4)
  if k.apprentice.isSome then l ++ l else l

/-- Where a workgroup would stand on a core: variant, base slot, positions. -/
structure Spot where
  variant : Nat
  base : Nat
  positions : List Nat
  deriving DecidableEq, Repr

/-- Resident workgroups of a core. -/
def residents (s : State) (core : Nat) : Nat := (s.wgs.filter (fun p => p.2.core = core)).length

/-- The spot that R165 gives a variant on a core, among base slots `bs`. -/
def spotFor (s : State) (core : Nat) (k : Kernel) (bs : List Nat) (v : Nat) : Option Spot :=
  if Config.maxResident ≤ residents s core || !(s.core core).waitList.isEmpty
      || decide (grantable s core < needOn s core k v + k.windowG v) then none
  else bs.findSome? (fun b => (takePositions (homeSlots k v b) (freePositions s core)).map (⟨v, b, ·⟩))

/-- Variants of a kernel by falling need, then number; the variant of least need. -/
def byNeed (s : State) (core : Nat) (k : Kernel) : List Nat :=
  sortBy (fun v => 2 ^ 32 - needOn s core k v) (upto k.variants.length)
def leastNeed (s : State) (core : Nat) (k : Kernel) : List Nat :=
  (sortBy (needOn s core k) (upto k.variants.length)).take 1

/-! ### A workgroup and its threads at placement (R6, R113, R147, R157) -/

/-- A thread at its start. A program counter has 57 bits, the lowest three 0 (R6): other bits of an entry address are
dropped (in part DESIGN CHOICE, log 78). -/
def newThread (fn wg tlin : Nat) (app : Bool) (slot flim fsize : Nat) (pc : DWord) (now : Nat) : Thread :=
  { fn := fn, wg := wg, tlin := tlin, apprentice := app, slot := slot, flim := flim, pc := wrapPc pc
    frame := List.replicate flim 0, oc := [], fills := [], fsize := fsize, dead := 0, trans := [], preds := 0
    fstat := 0, lnk := 0, loops := [], tdepth := 0, frame1 := .zero, frame2 := .zero, following := 0, spord := 0
    ld := 0, st := 0, cp := 0, tl := 0, tags := List.replicate 8 0, latch := none, arrived := 0
    withdrawn := 0, pendP := 0, pendG := [], acquiring := 0, wait := none, stall := none, polled := false
    held := none, trapping := none, pending := none, stallFrom := none, pauseTill := none, readySince := now
    lines := (linesOf 0 (4 * fsize) ++ trapLines flim).foldl (fun b n => put n true b) [], wrote := [] }

/-- A warp's threads with TLIN from `lo` to below `hi`, at a warp position of a core. The slot in the
context image is the thread's place in the partition (DEDUCED, log 21). -/
def warpThreads (s : State) (fn wg core pos warp lo hi : Nat) (app : Bool) (flim fsize : Nat)
    (pc : DWord) : List (Nat × Thread) :=
  ((upto 32).filter (fun l => decide (lo ≤ 32 * warp + l) && decide (32 * warp + l < hi))).map (fun l =>
    (threadKey core pos l,
      newThread fn wg (32 * warp + l) app (threadKey (s.coreNo fn core) pos l) flim fsize pc
        (s.ctx fn).pcycle))

/-- Add threads to the table. -/
def addThreads (l : List (Nat × Thread)) (s : State) : State :=
  { s with threads := l.foldl (fun (t : Tbl Thread) p => put p.1 p.2 t) s.threads }

/-- FRAMESTRIDE once a kernel is placed (R7): for the largest frame among the kernels resident
(in part DEDUCED, log 52). -/
def strideFor (s : State) (fn flim : Nat) : Word :=
  let one := (4 * flim + 128 + 127) / 128 * 128
  let old := (s.ctx fn).frameStride.toNat
  BitVec.ofNat 32 (if s.threads.any (fun p => p.2.fn = fn) then max one old else one)

/-- The place of a workgroup in its launch. -/
structure Seat where
  launch : Nat
  kernel : DWord
  stage : Nat
  chx : Nat
  chy : Nat
  chz : Nat
  lcx : Nat
  lcy : Nat
  lcz : Nat
  deriving DecidableEq, Repr

/-- A workgroup at placement (R147, R154, R247, R257). -/
def newWg (l : Launch) (e : Seat) (k : Kernel) (sp : Spot) (core cohort wgic now : Nat) : Workgroup :=
  let v := k.variant sp.variant
  { fn := l.fn, core := core, launch := e.launch, cohort := cohort, kernel := e.kernel, args := l.args
    wgx := v.x, wgy := v.y, wgz := v.z, base := sp.base, level := l.level, stage := e.stage
    variant := sp.variant, wgic := wgic, chx := e.chx, chy := e.chy, chz := e.chz, lcx := e.lcx
    lcy := e.lcy, lcz := e.lcz, hasApprentice := k.apprentice.isSome
    windows := if k.apprentice.isSome then upto v.warps else [], sreg := List.replicate 32 0, pendS := []
    hval := List.replicate 8 0, hseq := List.replicate 8 0, hlast := List.replicate 8 0
    ev := List.replicate 16 0, bars := List.replicate 16 ⟨0, 0, 0, 0, []⟩
    harvest := List.replicate 8 none, colls := [], vsw := [], vreq := none, pad := [], spsize := v.pool
    padGrans := [], winGrans := [], cold := [], apq := [], cq := List.replicate 8 [], popped := [], cp0 := [], cp1 := [], tk := [], ne := []
    wptr := List.replicate 8 0, bind := l.bind, record := none, stalls := List.replicate 16 0
    placedAt := now, issued := 0, issuedNow := false, csum := 0 }

/-- Place a workgroup on a core (R165). Its threads join bundles at the next regroup boundary
(in part DEDUCED, log 52). -/
def placeWg (l : Launch) (e : Seat) (k : Kernel) (cohort wgic core : Nat) (sp : Spot) (s : State) : State :=
  let key := freeKey s.wgs Config.maxResident (32 * core)
  let v := k.variant sp.variant
  let threads (app : Bool) (pc : DWord) (from1 : Nat) : List (Nat × Thread) :=
    (upto v.warps).flatMap (fun w =>
      warpThreads s l.fn key core (nth 0 (from1 + w) sp.positions) w 0 v.threads app k.flim k.start pc)
  let all := threads false v.entry 0 ++
    (match k.apprentice with
      | some pc => threads true pc v.warps
      | none => [])
  let s := orderPoint l.fn 6 0 (BitVec.ofNat 64 e.launch) (s.coreNo l.fn core) 3 none s
  let s := s.modCtx l.fn (fun c => { c with frameStride := strideFor s l.fn k.flim
                                            orderLog := tagBase sp.base (recMode s l.fn) c.orderLog })
  let s := { s with wgs := put key (newWg l e k sp core cohort wgic (s.ctx l.fn).pcycle) s.wgs }
  let s := s.modCohort cohort (fun h => { h with members := h.members ++ [key] })
  settlePool core ((addThreads all s).modCore core (fun c => { c with exitRec := [] }))
where
  /-- A placement's entry carries the base slot in bits 33:32 (R368). -/
  tagBase (b mode : Nat) (log : List OrderEntry) : List OrderEntry :=
    if mode != 1 then log
    else
      match log.getLast? with
      | some x => log.dropLast ++ [{ x with entry := x.entry + BitVec.ofNat 64 (b * 2 ^ 32) }]
      | none => log

/-! ### Cohorts (R148, R149, R165, R297) -/

/-- The seat of a cohort of a launch that stands at `stage` and `index` of its list, with its kernel. -/
def seatOf (key : Nat) (l : Launch) (c : Nat × Nat) : Seat :=
  if c.1 = 0 then
    ⟨key, l.kernel, 0, c.2 % l.lcx, c.2 / l.lcx % l.lcy, c.2 / l.lcx / l.lcy, l.lcx, l.lcy, l.lcz⟩
  else
    match l.stages.find? (fun x => x.1 = c.1) with
    | some x => ⟨key, x.2.1, c.1, c.2, 0, 0, x.2.2, 1, 1⟩
    | none => ⟨key, 0, c.1, c.2, 0, 0, 1, 1, 1⟩

/-- The cores of a section on which one of the variants given for it finds a spot, the lowest of them. -/
def coresOf (s : State) (k : Kernel) (vs : Nat → List Nat) (sect : Nat) : Option (List Nat) :=
  let l := ((upto 4).map (4 * sect + ·)).filter (fun c => (vs c).any (fun v => (spotFor s c k (upto 4) v).isSome))
  if k.cohort ≤ l.length then some (l.take k.cohort) else none

/-- The sections that a function's placements may use: its partition's, those retired left out. -/
def openSections (s : State) (fn : Nat) : List Nat :=
  (sectionsOf (s.vf fn).sect).filter (fun i => !(s.sect i).retired)

/-- The cores and base slots that a replay gives the next cohort of a launch (R370): those of its next
entries, if it was logged. -/
def loggedCores (s : State) (fn launch n : Nat) : Option (List (Nat × Nat)) :=
  match (s.ctx fn).replay with
  | none => none
  | some (log, _) =>
    let l := (log.filter (ofObject 6 0 (BitVec.ofNat 64 launch))).take n
    if recMode s fn = 2 && !l.isEmpty then
      some (l.map (fun e =>
        let c := bits e.entry.toNat 63 48
        (4 * nth 0 (c / 4) (sectionsOf (s.vf fn).sect) + c % 4, bits e.entry.toNat 33 32)))
    else none

/-- The cores, each with the base slots to try, that the next cohort of a kernel takes for some variants. -/
def cohortCores (s : State) (fn launch : Nat) (k : Kernel) (vs : Nat → List Nat) : Option (List (Nat × List Nat)) :=
  match loggedCores s fn launch k.cohort with
  | some l => some (l.map (fun p => (p.1, [p.2])))
  | none =>
    ((openSections s fn).findSome? (coresOf s k vs)).map (fun l => l.map (fun c => (c, upto 4)))

/-- Place workgroups on the cores of a cohort in order; `pick` gives the variants to try on a core, and
`good` says whether what would come of one will do. -/
def placeMembers (l : Launch) (e : Seat) (k : Kernel) (cohort : Nat)
    (pick : State → Nat → List Nat) (good : List (Nat × List Nat) → Nat → State → Bool) :
    List (Nat × List Nat) → Nat → State → Option State
  | [], _, s => some s
  | (core, bs) :: rest, i, s =>
    match (pick s core).findSome? (fun v =>
      match spotFor s core k bs v with
      | none => none
      | some sp =>
        let s1 := placeWg l e k cohort i core sp s
        if good rest (i + 1) s1 then some s1 else none) with
    | none => none
    | some s1 => placeMembers l e k cohort pick good rest (i + 1) s1

/-- A cohort without workgroups yet, on the section of its cores. -/
def openCohort (l : Launch) (e : Seat) (k : Kernel) (index sect : Nat) (s : State) : Nat × State :=
  let (c, s) := s.fresh
  (c, { s with cohorts := put c ⟨l.fn, e.launch, sect, k.cohort, e.stage, index, [],
    List.replicate 16 0, [], []⟩ s.cohorts })

/-- The variants by falling need, and the one of least need, on a core. -/
def allVariants (k : Kernel) (s : State) (core : Nat) : List Nat := byNeed s core k
def leastVariant (k : Kernel) (s : State) (core : Nat) : List Nat := leastNeed s core k

/-- Place a cohort at the variants that `pick` prefers, if it fits; `core` gives those by which its cores are chosen.
The descriptor is read again for each placement (DESIGN CHOICE, log 79). -/
def placeCohort (key : Nat) (l : Launch) (core pick : Kernel → State → Nat → List Nat)
    (good : Seat → Kernel → Nat → List (Nat × List Nat) → Nat → State → Bool) (c : Nat × Nat)
    (s : State) : Option State :=
  let e := seatOf key l c
  match kernelAt s l.fn e.kernel with
  | none => none
  | some k =>
    match cohortCores s l.fn key k (core k s) with
    | none => none
    | some cores =>
      let (id, s) := openCohort l e k c.2 (sectOf ((cores.map (·.1)).headD 0)) s
      placeMembers l e k id (pick k) (good e k id) cores 0 s

/-- Place a cohort with each workgroup at its variant of least need, and a list of cohorts so. -/
def placeLeast (key : Nat) (l : Launch) (c : Nat × Nat) (s : State) : Option State :=
  placeCohort key l leastVariant leastVariant (fun _ _ _ _ _ _ => true) c s
def placeAllLeast (key : Nat) (l : Launch) : List (Nat × Nat) → State → Option State
  | [], s => some s
  | c :: rest, s =>
    match placeLeast key l c s with
    | none => none
    | some s => placeAllLeast key l rest s

/-- Place a cohort of a launch that is not co-operative: each workgroup at the variant of greatest need
that fits (R297). -/
def placeGreedy (key : Nat) (l : Launch) (c : Nat × Nat) (s : State) : Option State :=
  placeCohort key l allVariants allVariants (fun _ _ _ _ _ _ => true) c s

/-- Place all cohorts of a co-operative launch: each workgroup at the variant of greatest need that leaves
room for every workgroup not yet placed at its variant of least need, on the cores that the admission test takes (R297)
(in part DEDUCED, log 52). -/
def placeCoop (key : Nat) (l : Launch) : List (Nat × Nat) → State → Option State
  | [], s => some s
  | c :: rest, s =>
    let good (e : Seat) (k : Kernel) (id : Nat) (cores : List (Nat × List Nat)) (i : Nat) (s : State) : Bool :=
      match placeMembers l e k id (leastVariant k) (fun _ _ _ => true) cores i s with
      | none => false
      | some s => (placeAllLeast key l rest s).isSome
    match placeCohort key l leastVariant allVariants good c s with
    | none => none
    | some s => placeCoop key l rest s

/-! ### Admission and the order of placement (R166, R167) -/

/-- The kernels of a launch's stages. -/
def launchKernels (l : Launch) : List DWord := l.kernel :: l.stages.map (·.2.1)

/-- The first line of a launch's descriptors that fails its integrity check, if one does (R402), and what reading them
leaves. -/
def launchIntegrity (l : Launch) (s : State) : Option (Nat × Nat) × State :=
  ((launchKernels l).findSome? (kernelForeign s l.fn), (launchKernels l).foldl (fun s a => kernelNote l.fn a s) s)

/-- A partition with nothing in it, for the admission test. -/
def emptyPartition (s : State) : State := { s with threads := [], wgs := [], cohorts := [], cores := [] }

/-- Whether a launch could run in its empty partition: whole when it is co-operative, else each cohort
alone. -/
def couldFit (key : Nat) (l : Launch) (s : State) : Bool :=
  let s := (emptyPartition s).modCtx l.fn (fun c => { c with replay := none })
  if l.coop then (placeAllLeast key l l.left s).isSome
  else l.left.all (fun c => (placeGreedy key l c s).isSome)

/-- LAUNCH_ADMISSION (R166, R167): the launch is admitted, or ends with status 1. -/
def execLaunchAdmission (launch : Nat) (s : State) : Out1 :=
  match look launch s.launches with
  | none => .next s
  | some l =>
    if l.admitted then .next s
    else
    match launchIntegrity l s with
    | (some x, s) => .next (integrityHalt l.fn 0xFFFF x s)
    | (none, s) =>
    if couldFit launch l s then
      .next (endLaunches l.fn (s.modLaunch launch (fun l => { l with admitted := true })))
    else .next (completeLaunch l 1 { s with launches := drop launch s.launches })

/-- The launch of a function that is placed next: of those not wholly placed, the one of the highest
level, then the first submitted. -/
def nextLaunch (s : State) (fn : Nat) : Option Nat :=
  ((sortBy (fun p => 64 - p.2.level) (s.launches.filter (fun p =>
    p.2.fn = fn && (!p.2.admitted || !p.2.left.isEmpty)))).map (·.1)).head?

/-- Whether the dispatcher places for a function now: its context runs, is not halted, and no checkpoint
request is in force. -/
def dispatching (s : State) (fn : Nat) : Bool := engineOn s fn && (s.ctx fn).ckpt.isNone

/-- WORKGROUP_PLACEMENT (R165-R167): the next cohort of the launch is placed, or all of a co-operative
one, if it fits. -/
def execWorkgroupPlacement (launch : Nat) (s : State) : Out1 :=
  match look launch s.launches with
  | none => .next s
  | some l =>
    if !l.admitted || !dispatching s l.fn || nextLaunch s l.fn != some launch then .next s
    else
    match launchIntegrity l s with
    | (some x, s) => .next (integrityHalt l.fn 0xFFFF x s)
    | (none, s) =>
    if l.coop then
      match placeCoop launch l l.left s with
      | none => .next s
      | some s =>
        let n := (s.wgs.filter (fun p => p.2.launch = launch)).length
        .next (s.modLaunch launch (fun l => { l with left := [], running := n }))
    else
      match l.left with
      | [] => .next s
      | c :: rest =>
        match placeGreedy launch l c s with
        | none => .next s
        | some s1 =>
          .next (s1.modLaunch launch (fun l => { l with
            left := rest, running := l.running + (s1.wgs.length - s.wgs.length) }))

/-! ### EXIT (R117) -/

/-- A thread's name in a command becomes the one it keeps after its exit. -/
def renameIn (k d : Nat) (c : Cmd) : Cmd :=
  let f (n : Nat) : Nat := if n = k then d else n
  { c with pusher := f c.pusher, signers := c.signers.map f, after := c.after.map (fun a => (f a.1, a.2)) }

/-- An operation after a thread's exit: a scalar load goes on for the others that issued it (R117, R151). -/
def leftOp (k d : Nat) (o : MemOp) : MemOp :=
  if o.thread = k then
    match if o.kind = .load then o.others else [] with
    | [] => { o with thread := d }
    | x :: l => { o with thread := x, others := l }
  else { o with others := o.others.filter (· != k) }

/-- What an exited thread has left in flight bears the name it keeps. -/
def renameThread (k d : Nat) (s : State) : State :=
  let g : List Cmd → List Cmd := List.map (renameIn k d)
  { s with
    ops := s.ops.map (leftOp k d)
    wgs := s.wgs.map (fun p => (p.1, { p.2 with
      cp0 := g p.2.cp0, cp1 := g p.2.cp1, tk := g p.2.tk, ne := g p.2.ne }))
    cohorts := s.cohorts.map (fun p => (p.1, { p.2 with mx := g p.2.mx, sq := g p.2.sq }))
    sections := s.sections.map (fun p => (p.1, { p.2 with
      creg := p.2.creg.map (fun r => { r with
        round := r.round.map (fun x => { x with cmd := renameIn k d x.cmd }) }) }))
    net := s.net.map (fun p => (p.1, if p.2.thread = k then { p.2 with thread := d } else p.2)) }

/-- Barriers go on without the thread: the exit of a participant moves the count's origin (R155). -/
def leaveBars (t : Thread) (clock : Nat) (s : State) : State :=
  (upto 16).foldl (fun s n =>
    let b := s.bar t.wg n
    if b.arrivals = 0 || !inRange b.range.toNat t.tlin then s
    else settleBar t.wg n (s.modBar t.wg n (fun b => { b with origin := clock }))) s

/-- A thread out of a switch point executes its VSWPT again. -/
def wakeSwitch (k : Nat) (s : State) : State :=
  s.modThread k (fun t => { t with wait := none, pending := none, readySince := (s.ctx t.fn).pcycle })

/-- Switch points go on without the thread: where everybody left has arrived, the last to arrive executes
its VSWPT again and finds so. -/
def leaveSwitch (wg clock : Nat) (s : State) : State :=
  match look wg s.wgs with
  | none => s
  | some w =>
    w.vsw.foldl (fun s p =>
      let s := s.modWg wg (fun w => { w with vsw := w.vsw.map (fun q =>
        if q.id = p.id then { q with origin := clock } else q) })
      if (s.computeOf wg).all (fun x => p.here.contains x.1) then
        match p.here.getLast? with
        | none => s
        | some k => wakeSwitch k (s.modWg wg (fun w => { w with vsw := w.vsw.map (fun q =>
            if q.id = p.id then { q with here := q.here.dropLast } else q) }))
      else s) s

/-- The queue window of a pair of warps returns to the pool when both have exited (R159). -/
def leaveWindow (wg warp : Nat) (s : State) : State :=
  if (s.threadsOf wg).any (fun p => p.2.tlin / 32 = warp) then s
  else s.modWg wg (fun w => { w with
    windows := w.windows.filter (· != warp)
    apq := w.apq.filter (fun p => p.1 / 256 != warp) })

/-- The exit record of a workgroup (R365); the bundle that issues now is counted
(in part DEDUCED, log 54). -/
def exitRecord (s : State) (w : Workgroup) : List Byte :=
  traceHeader s w.fn w.core 4 4 ++ toBytes 4 w.chx ++ toBytes 4 w.chy ++ toBytes 4 w.chz
    ++ toBytes 4 (w.wgic + w.stage * 4 + w.variant * 16) ++ toBytes 8 ((s.ctx w.fn).pcycle - w.placedAt)
    ++ toBytes 8 (w.issued + 1) ++ List.replicate 24 0 ++ w.stalls.flatMap (fun x => toBytes 4 x.toNat)

/-- The last thread of a workgroup that counts for its exit record has exited: apprentices do not (R160, R365)
(in part DEDUCED, log 54). -/
def recordExit (g : Nat) (s : State) : State :=
  match look g s.wgs with
  | none => s
  | some w =>
    let rec1 := exitRecord s w
    let s := s.modCore w.core (fun c => { c with exitRec := put g rec1 c.exitRec })
    if (s.ctx w.fn).tracectl.getLsbD 3 then traceRecord w.fn w.core rec1 s else s

/-- The last thread of a workgroup has exited (R147). -/
def endWg (g : Nat) (s : State) : State :=
  match look g s.wgs with
  | none => s
  | some w => endLaunches w.fn (reapWg g (s.modLaunch w.launch (fun l => { l with running := l.running - 1 })))

/-- A thread ends. Its stores are still performed; its loads in flight will be discarded; its frame returns to the
pool (R117, R188). -/
def exitThread (k : Nat) (s : State) : State :=
  match look k s.threads with
  | none => s
  | some t =>
    let clock := (s.ctx t.fn).clock
    let n := s.nextId
    let s := renameThread k (deadName k n) { s with threads := drop k s.threads, nextId := n + 1 }
    let s := if t.apprentice then s else leaveBars t clock s
    let s := collDrop t.wg (warpOf k) (laneOf k) clock s
    let s := if t.apprentice then s else (upto 8).foldl (fun s i => settleHarvest t.wg i s) s
    let cohort := cohortOf s t
    let sect := cohortSect s cohort
    let s := if !t.apprentice && (s.sect sect).holder = some cohort then
        roundExit sect (((look t.wg s.wgs).map (·.wgic)).getD 0) t.tlin clock s
      else s
    let s := leaveWindow t.wg (t.tlin / 32) (leaveSwitch t.wg clock s)
    let s := if t.apprentice || !(s.computeOf t.wg).isEmpty then s else recordExit t.wg s
    settlePool (coreOf k) (if wgLive s t.wg then s else endWg t.wg s)

/-- EXIT (R117). -/
def execExit (f : Fields) (s : State) : Out1 :=
  answer (formOf f { modOk := f.mod = 0 }) (fun k _ _ s => .gone (exitThread k s)) s

/-! ### Variant switches (R298, R299, R324) -/

/-- A record of a switch map (R64): continuation addresses and register lists by variant. -/
structure SwitchRec where
  next : List Nat
  regs : List (List Nat)
  deriving DecidableEq, Repr

/-- Search a switch map for an id. `V` is the variant count. In a map that cannot be read no id is found, a record is
taken as it is, whatever its bytes 3 to 7, its n and the registers of its list, and the map wherever it lies; the first
record of an id counts, and the search ends with the fuel (in part DESIGN CHOICE, log 79). -/
def switchRec (s : State) (fn core vcount id : Nat) : Nat → Nat → Option SwitchRec
  | 0, _ => none
  | fuel + 1, a =>
    match engineRead s fn core 2 a 8 with
    | .inl _ => none
    | .inr h =>
      let n := valAt 2 1 h
      let size := (8 + 8 * vcount + n * vcount + 7) / 8 * 8
      if valAt 0 2 h = 0xFFFF then none
      else if valAt 0 2 h = id then
        match engineRead s fn core 4 a size with
        | .inl _ => none
        | .inr b =>
          some ⟨(upto vcount).map (fun v => valAt (8 + 8 * v) 8 b),
            (upto vcount).map (fun v => (upto n).map (fun i => valAt (8 + 8 * vcount + v * n + i) 1 b))⟩
      else switchRec s fn core vcount id fuel (a + size)

/-- The addresses and lengths that the search reads, first to last. -/
def switchReads (s : State) (fn core vcount id : Nat) : Nat → Nat → List (Nat × Nat)
  | 0, _ => []
  | fuel + 1, a =>
    (a, 8) :: (match engineRead s fn core 2 a 8 with
    | .inl _ => []
    | .inr h =>
      let size := (8 + 8 * vcount + valAt 2 1 h * vcount + 7) / 8 * 8
      if valAt 0 2 h = 0xFFFF then []
      else if valAt 0 2 h = id then [(a, size)]
      else switchReads s fn core vcount id fuel (a + size))

/-- Warp positions that a workgroup holds, and the position of one of its warps. -/
def warpsHeld (s : State) (wg : Nat) : Nat := (distinct ((s.threadsOf wg).map (fun p => warpOf p.1))).length
def posOfWarp (s : State) (wg warp : Nat) : Option Nat :=
  ((s.threadsOf wg).find? (fun p => p.2.tlin / 32 = warp)).map (fun p => wposOf p.1)

/-- Frame units that a workgroup's core would have charged if the workgroup ran a variant: of its threads, those that
go on and those that start are charged. -/
def switchUnits (s : State) (g : Nat) (w : Workgroup) (v : Variant) : Nat :=
  let units := (s.threadsOf g).foldl (fun n p => n + unitsOf p.2.fsize) 0
  let threads := ((s.threadsOf g).filter (fun p => decide (p.2.tlin < v.threads))).length + (v.threads - wgSize w)
  ownUnits s w.core - units + threads * unitsOf v.frame

/-- Granules that the workgroup's frames and scratchpad would take more then. -/
def switchGrowth (s : State) (g : Nat) (w : Workgroup) (v : Variant) : Int :=
  (frameNeed s w.core (switchUnits s g w v) : Int) - frameG s w.core
    + (v.pool / Config.granuleBytes : Nat) - (w.spsize / Config.granuleBytes : Nat)

/-- Granules that a request would need then: the frame class is rounded as a whole (R185). -/
def needAfter (s : State) (g : Nat) (w : Workgroup) (v : Variant) (r : PoolReq) : Nat :=
  if r.scratch then r.asked
  else frameNeed s w.core (switchUnits s g w v + r.asked) - frameNeed s w.core (switchUnits s g w v)

/-- Warps of a target variant that have no position yet and start threads, with the positions they get
(in part DEDUCED, log 55). -/
def newWarps (s : State) (g : Nat) (w : Workgroup) (v : Variant) : Option (List (Nat × Nat)) :=
  let l := (upto v.warps).filter (fun i =>
    (posOfWarp s g i).isNone && decide (wgSize w < 32 * i + 32) && decide (wgSize w < v.threads))
  (takePositions (l.map (fun i => (w.base + i) % 4)) (freePositions s w.core)).map (l.zip ·)

/-- The switch condition of R299 for a target variant (in part DEDUCED, log 55). -/
def switchHolds (s : State) (g : Nat) (w : Workgroup) (k : Kernel) (b : Nat) : Bool :=
  let v := k.variant b
  decide (b < k.variants.length) && (newWarps s g w v).isSome
    && ((decide (needOn s w.core k b < needOn s w.core k w.variant) && decide (v.warps ≤ warpsHeld s g))
      || ((s.core w.core).waitList.isEmpty && decide (switchGrowth s g w v ≤ (grantable s w.core : Int))))

/-- What a complete switch point moves to, if the posted request and the condition give a target: the positions and
granules that it takes are its own from now on. -/
def switchTarget (s : State) (g : Nat) (w : Workgroup) (id : Nat) : Option SwitchPoint :=
  match w.vreq, kernelAt s w.fn w.kernel with
  | some b, some k =>
    if switchHolds s g w k b
        && (switchRec s w.fn w.core k.variants.length id 257 k.switchMap).isSome then
      (newWarps s g w (k.variant b)).map (fun l =>
        ⟨id, [], (s.ctx w.fn).clock, some b, l, (switchGrowth s g w (k.variant b)).toNat⟩)
    else none
  | _, _ => none

/-- Whether a complete switch point reads its kernel's descriptor and then the switch map: only where there is a target, or
a posted request for one, which a kernel of one variant never has (in part DESIGN CHOICE, log 79). -/
def switchLooks (w : Workgroup) (id : Nat) : Bool :=
  w.vreq.isSome || w.vsw.any (fun p => p.id = id && p.target.isSome)

/-- The reads of the switch map that looking for the target takes (R64): none where the switch condition has failed. -/
def switchMapReads (s : State) (g : Nat) (w : Workgroup) (id : Nat) : List (Nat × Nat) :=
  match kernelAt s w.fn w.kernel with
  | some k =>
    if w.vsw.any (fun p => p.id = id && p.target.isSome) || w.vreq.any (switchHolds s g w k) then
      switchReads s w.fn w.core k.variants.length id 257 k.switchMap
    else []
  | none => []

/-- The first line of them that fails its integrity check, if one does (R402), and what reading them leaves (R208). -/
def switchIntegrity (g : Nat) (w : Workgroup) (id : Nat) (s : State) : Option (Nat × Nat) × State :=
  if !switchLooks w id then (none, s)
  else
    let l := switchMapReads s g w id
    ((kernelForeign s w.fn w.kernel).or (l.findSome? (fun p => readsForeign s w.fn w.core p.1 p.2)),
      readsNote w.fn w.core l (kernelNote w.fn w.kernel s))

/-- Registers of a continuing thread after the switch: those that are carried, in order (R299). -/
def carryRegs (src dst : List Nat) (t : Thread) : Thread :=
  let live := (src.zip dst).filter (fun p => !isDead t p.1)
  { t with
    frame := live.foldl (fun fr p => setNth (readG t p.1) p.2 fr) (List.replicate t.flim 0)
    dead := (src.zip dst).foldl (fun (d : BitVec 192) p => if isDead t p.1 then d ||| (1#192 <<< p.2) else d) 0
    oc := [], fills := [], trans := [] }

/-- A thread that goes on in the target variant: every line of its new frame is written (R345). -/
def switchThread (v : Variant) (src dst : List Nat) (next : DWord) (t : Thread) : Thread :=
  keepLines (wroteLines (linesOf 0 (4 * v.frame)) { carryRegs src dst t with fsize := v.frame, lnk := 0, pc := next })

/-- The threads of a workgroup that go on in a target variant, and whether the undo log has room for the first writes of
the epoch to the lines of their frames. -/
def switchStay (s : State) (g : Nat) (v : Variant) : Tbl Thread :=
  (s.threadsOf g).filter (fun p => decide (p.2.tlin < v.threads))
def switchHasRoom (s : State) (g fn : Nat) (v : Variant) : Bool :=
  framesRoom s fn ((switchStay s g v).map (fun p => (p.1, p.2, linesOf 0 (4 * v.frame))))

/-- The workgroup moves to variant `b` (R299, steps 2 to 6). `k` is the thread that executes the VSWPT,
`stop` its stop bit, `fresh` gives the positions of new warps; bits of a continuation address beyond those of a program
counter are dropped (in part DEDUCED, log 55, DESIGN CHOICE, log 78). -/
def doSwitch (g : Nat) (w : Workgroup) (kn : Kernel) (r : SwitchRec) (b k : Nat) (stop : Bool) (fresh : Tbl Nat)
    (s : State) : State :=
  let v := kn.variant b
  let now := (s.ctx w.fn).pcycle
  let next := wrapPc (BitVec.ofNat 64 (nth 0 b r.next + 8))
  let old := wgSize w
  let gone := ((s.threadsOf g).filter (fun p => decide (v.threads ≤ p.2.tlin))).map (·.1)
  let stay := switchStay s g v
  let s := accountAll stay { s with threads := s.threads.map (fun p =>
    if p.2.wg = g then (p.1, switchThread v (nth [] w.variant r.regs) (nth [] b r.regs) next
      (if p.1 = k then advance now next stop p.2 else goOn now p.2)) else p) }
  let new := (upto v.warps).flatMap (fun i =>
    match posOfWarp s g i, look i fresh with
    | some p, _ => warpThreads s w.fn g w.core p i old v.threads false kn.flim v.frame next
    | none, some p => warpThreads s w.fn g w.core p i old v.threads false kn.flim v.frame next
    | none, none => [])
  let s := (addThreads new s).modWg g (fun w => { padResize v.pool w with
    variant := b, wgx := v.x, wgy := v.y, wgz := v.z, vsw := [], vreq := none })
  settlePool w.core (gone.foldl (fun s k => exitThread k s) s)

/-- The switch point with an id, changed. -/
def putSwitch (p : SwitchPoint) (w : Workgroup) : Workgroup :=
  { w with vsw := w.vsw.filter (fun q => q.id != p.id) ++ [p] }

/-- The condition fails: the request is consumed and everybody goes on. -/
def closeSwitch (g id : Nat) (here : List Nat) (s : State) : State :=
  let s := s.modWg g (fun w => { w with vsw := w.vsw.filter (fun q => q.id != id), vreq := none })
  here.foldl (fun s k => s.modThread k (fun t => goOn (s.ctx t.fn).pcycle t)) s

/-- VSWPT for one thread (in part DEDUCED, log 55). -/
def vswptBody (f : Fields) : Body := fun k t _ s =>
  let id := f.mod.toNat
  if t.apprentice || !t.loops.isEmpty then .trap (trapBefore cIllegalInstruction)
  else
    match look t.wg s.wgs with
    | none => .done [] s
    | some w =>
      let old := w.vsw.find? (fun p => p.id = id)
      let here := (old.map (·.here)).getD []
      if !(s.computeOf t.wg).all (fun p => p.1 = k || here.contains p.1) then
        .wait (.vswpt id) (s.modWg t.wg (putSwitch ⟨id, here ++ [k], (s.ctx t.fn).clock, none, [], 0⟩))
      else
        match switchIntegrity t.wg w id s with
        | (some x, s) => .gone (coreIntegrity k x s)
        | (none, s) =>
        let point := match old.filter (·.target.isSome) with
          | some p => some p
          | none => switchTarget s t.wg w id
        match point, kernelAt s t.fn w.kernel with
        | some p, some kn =>
          let b := p.target.getD 0
          let noted := s.modWg t.wg (putSwitch { p with here := here, origin := (s.ctx t.fn).clock })
          let pool := (kn.variant b).pool
          if (s.threadsOf t.wg).any (fun p => p.2.ld != 0) then .keep ⟨4, 4, id⟩ noted
          else if pool < w.spsize && padBusy s t.wg pool w.spsize then .keep ⟨15, 4, id⟩ noted
          else if !switchHasRoom s t.wg t.fn (kn.variant b) then .keep ⟨15, 4, id⟩ noted
          else
            match switchRec s t.fn w.core kn.variants.length id 257 kn.switchMap with
            | some r => .gone (doSwitch t.wg w kn r b k f.stop p.spots s)
            | none => .done [] (closeSwitch t.wg id here s)
        | _, _ => .done [] (closeSwitch t.wg id here s)

/-- VSWPT (R299, R324). -/
def execVswpt (f : Fields) (s : State) : Out1 :=
  answer (formOf f { modOk := bits f.mod.toNat 10 8 = 0 }) (vswptBody f) s

/-- VSWPT_STALL (R324): a switch point whose count is out, whose threads trap. -/
def execVswptStall (wg : Nat) (s : State) : Out1 :=
  match look wg s.wgs with
  | none => .next s
  | some w =>
    match w.vsw.find? (fun p => p.target.isNone && !p.here.isEmpty && stallDue s w.fn w.core p.origin) with
    | none => .next s
    | some p =>
      let s := s.modWg wg (fun w => { w with vsw := w.vsw.filter (fun q => q.id != p.id) })
      .next (stallTrap p.here (stallDetail 0x41 p.here.length (s.computeOf wg).length) s)

/-- The resident workgroups of multi-variant kernels on a core, in order of placement, with their kernels. -/
def multiVariant (s : State) (core : Nat) : List (Nat × Workgroup × Kernel) :=
  (sortBy (fun p => p.2.placedAt) (s.wgs.filter (fun p => p.2.core = core && wgLive s p.1))).filterMap
    (fun p => match kernelAt s p.2.fn p.2.kernel with
      | some k => if 1 < k.variants.length then some (p.1, p.2, k) else none
      | none => none)

/-- The variants of a workgroup's kernel whose need differs from the current one's, by falling need. -/
def otherNeeds (s : State) (w : Workgroup) (k : Kernel) (smaller : Bool) : List Nat :=
  (byNeed s w.core k).filter (fun v =>
    if smaller then decide (needOn s w.core k v < needOn s w.core k w.variant)
    else decide (needOn s w.core k w.variant < needOn s w.core k v))

/-- Post a request on a workgroup. -/
def postRequest (g v : Nat) (s : State) : State := s.modWg g (fun w => { w with vreq := some v })

/-- DOWN_REQUEST (R298). -/
def execDownRequest (core : Nat) (s : State) : Out1 :=
  match (s.core core).waitList with
  | [] => .next s
  | r :: _ =>
    match look r.thread s.threads with
    | none => .next s
    | some t =>
      if (s.ctx t.fn).clock < r.since + Config.downAge then .next s
      else
        match ((multiVariant s core).filter (fun x => !(otherNeeds s x.2.1 x.2.2 true).isEmpty)).getLast? with
        | none => .next s
        | some (g, w, k) =>
          let l := otherNeeds s w k true
          let helps (v : Nat) : Bool :=
            decide ((needAfter s g w (k.variant v) r : Int) ≤ grantable s core - switchGrowth s g w (k.variant v))
          let v := (l.find? helps).getD ((leastNeed s core k).headD 0)
          .next (postRequest g v s)

/-- UP_REQUEST (R298). -/
def execUpRequest (core : Nat) (s : State) : Out1 :=
  if !(s.core core).waitList.isEmpty then .next s
  else
    let fits (x : Nat × Workgroup × Kernel) : Option Nat :=
      (otherNeeds s x.2.1 x.2.2 false).find? (fun v =>
        decide (switchGrowth s x.1 x.2.1 (x.2.2.variant v) ≤ (grantable s core : Int)))
    match (multiVariant s core).find? (fun x => (fits x).isSome) with
    | none => .next s
    | some x => .next (postRequest x.1 ((fits x).getD 0) s)

end Sys2Proof.Machine
end

