-- ==== Sys2Proof/Machine/Network.lean ====
section
/-! DEFINITION. The Network Engine (R413-R419): NPUT, NGET, NSIG, NWAIT, the steps that run their commands,
what peers answer, and inbound operations (R412). -/

namespace Sys2Proof.Machine

/-! ### The three commands (R414) -/

/-- A register pair of a network instruction. -/
def pair6 : Acc := { g := true, s := true }

/-- The encoding of NPUT, NGET and NSIG (in part DEDUCED, log 57). -/
def netEnc (f : Fields) (signal : Bool) : Enc :=
  { modOk := tailOk f && !f.mod.getLsbD 1
    sa := .src 2 pair6, sb := .src 2 (if signal then { pair6 with z := true } else pair6), tdOk := false }

/-- A push into the NE queue. -/
def netBody (f : Fields) (op : Nat) : Body := fun k t l s =>
  pushOr (.ne t.wg) { newCmd f op k t s with
    va := BitVec.ofNat 64 (nth 0 0 l), vb := BitVec.ofNat 64 (nth 0 1 l) } none id s

/-- NPUT (R414). -/
def execNput (f : Fields) (s : State) : Out1 := answer (formOf f (netEnc f false)) (netBody f 0x310) s
/-- NGET (R414). -/
def execNget (f : Fields) (s : State) : Out1 := answer (formOf f (netEnc f false)) (netBody f 0x311) s
/-- NSIG (R414). -/
def execNsig (f : Fields) (s : State) : Out1 := answer (formOf f (netEnc f true)) (netBody f 0x312) s

/-! ### Network descriptors (R413) -/

/-- Whether a descriptor is well formed; NSIG ignores its length (in part DEDUCED, log 58). -/
def netOk (d : List Byte) (signal : Bool) : Bool :=
  valAt 0x14 4 d / 2 ^ 12 = 0 && valAt 0x2C 4 d / 16 = 0 && (bytesAt 0x30 16 d).all (· = 0)
    && (signal || decide (valAt 0x28 4 d ≤ 2 ^ 30))

/-- The descriptor of a command, or how the command ends without one. -/
def netDesc (e : Eng) (wg : Nat) (c : Cmd) (s : State) : Sum (Sum Nat EngStop) (List Byte × State) :=
  if c.va.toNat % 64 != 0 then .inl (.inl 5)
  else
    match engGet e wg c.va.toNat 64 s with
    | .inl .fault | .inl (.park _ _ _) => .inl (.inl 5)
    | .inl x => .inl (.inr x)
    | .inr (d, s) => if netOk d (c.op = 0x312) then .inr (d, s) else .inl (.inl 5)

/-- The remote and the local address of a command. -/
def netRemote (d : List Byte) (c : Cmd) : Nat := wrapNat 64 ((valAt 0x18 8 d : Nat) + sextInt 64 c.ext1.toNat)
def netLocal (c : Cmd) : Nat := wrapNat 64 ((c.vb.toNat : Int) + sextInt 64 c.ext2.toNat)

/-- The operation that a command of a workgroup on a die sends. An ordered one has one port of its die for each peer and
queue (R2, R411); an unordered one may use any, and uses the first (in part DESIGN CHOICE, log 80). -/
def netOp (die id : Nat) (d : List Byte) (c : Cmd) (len : Nat) (short : Bool) : NetOp :=
  { id := id, wg := c.wg, thread := c.pusher, op := c.op, peer := BitVec.ofNat 128 (valAt 0 16 d)
    job := BitVec.ofNat 32 (valAt 0x10 4 d), endpoint := valAt 0x14 4 d
    remote := BitVec.ofNat 64 (netRemote d c), key := BitVec.ofNat 64 (valAt 0x20 8 d)
    traffic := valAt 0x2C 4 d, len := len, ordered := c.op = 0x312 || c.mod.getLsbD 0
    port := 4 * die + (if c.op = 0x312 || c.mod.getLsbD 0 then
        Config.rodPort (BitVec.ofNat 128 (valAt 0 16 d)) % 4 else 0)
    value := c.vb, add := c.op = 0x312 && c.mod.getLsbD 0, short := short }

/-- A range in pieces that do not cross a multiple of 32. -/
def pieces : Nat → Nat → Nat → List (Nat × Nat)
  | 0, _, _ => []
  | fuel + 1, a, n =>
    if n = 0 then []
    else
      let m := min n (32 - a % 32)
      (a, m) :: pieces fuel (a + m) (n - m)

/-- Read a range in ascending address until something stops it. -/
def netCollect (e : Eng) (wg : Nat) : List (Nat × Nat) → State → List Byte × State × Option EngStop
  | [], s => ([], s, none)
  | (a, n) :: l, s =>
    match engGet e wg a n s with
    | .inl x => ([], s, some x)
    | .inr (b, s) =>
      let r := netCollect e wg l s
      (b ++ r.1, r.2)

/-- The descriptor of a command that begins, or that has read it (R413: once). -/
def netDescOnce (e : Eng) (wg : Nat) (c : Cmd) (s : State) : Sum (Sum Nat EngStop) (List Byte × State) :=
  if !c.desc.isEmpty then .inr (c.desc, s)
  else
    match netDesc e wg c s with
    | .inl x => .inl x
    | .inr (d, s) => .inr (d, modHead (.ne wg) (fun c => { c with desc := d }) s)

/-- Bytes that have come back for an NGET, and the whole number from the first one on of those that some ranges hold. -/
def answered (c : Cmd) : Nat := (c.answers.map (·.2.length)).sum
def firstMissing (l : List (Nat × Nat)) : Nat → Nat → Nat
  | 0, p => p
  | fuel + 1, p =>
    match l.find? (fun x => decide (x.1 ≤ p) && decide (p < x.1 + x.2)) with
    | some x => firstMissing l fuel (x.1 + x.2)
    | none => p

/-- Whether the head command has been sent, so that it waits for its peer or for what its answer needs. -/
def netSent (s : State) (wg : Nat) (c : Cmd) : Bool :=
  c.begun && ((look c.vd.toNat s.net).map (·.wg) = some wg
    || (c.op = 0x311 && !c.answers.isEmpty && answered c = c.vc.toNat))

/-- The packets of an operation: at most 4,096 bytes of payload each (R411). -/
def packetBytes : Nat := 4096
def packet (o : NetOp) (bytes : List Byte) (i : Nat) : Out :=
  let b := (bytes.drop (packetBytes * i)).take packetBytes
  if bytes.isEmpty then .request o []
  else .request { o with remote := o.remote + BitVec.ofNat 64 (packetBytes * i), len := b.length } b
def packets (o : NetOp) (bytes : List Byte) : List Out :=
  (upto (max 1 ((bytes.length + packetBytes - 1) / packetBytes))).map (packet o bytes)

/-- Send an operation for the head command, which has begun and waits for its peer; `bytes` are kept for a
packet that must be sent again. -/
def netSend (q : QRef) (d : List Byte) (c : Cmd) (len : Nat) (short : Bool) (bytes : List Byte) (s : State) :
    State :=
  let (id, s) := s.fresh
  let o := netOp (dieOf (queueCore s q)) id d c len short
  unitMoved q <| modHead q (fun c => { c with begun := true, data := bytes, vc := BitVec.ofNat 64 len, vd := BitVec.ofNat 64 id, progress := 0 })
    { s with net := put id o s.net, out := s.out ++ packets o bytes }

/-- An NPUT claims its range of scratchpad until it completes (R198, R415): its read pointer is at the first byte until
the range is read, then at its end. -/
def netClaim (wg a n p : Nat) (s : State) : State :=
  let claim := if inAperture a then some (wg, padOffset a, padOffset a + n, padOffset a + p) else none
  modHead (.ne wg) (fun c => { c with claim := claim }) s

/-- NPUT begins (R415) and sends up to `most` bytes: a local fault ends what is sent at the first byte that cannot be read
(in part DEDUCED, log 58). -/
def runNput (wg most : Nat) (c : Cmd) (s : State) : State :=
  let q := QRef.ne wg
  let e := engineOf s q c.id
  if netSent s wg c then s
  else
  match netDescOnce e wg c s with
  | .inl (.inl status) => doneHead q status 0 s
  | .inl (.inr x) => stopHead q 5 0 x s
  | .inr (d, s0) =>
    let n := valAt 0x28 4 d
    let a := netLocal c
    if n = 0 then doneHead q 0 0 s0
    else if rangeGone s wg a n then doneHead q 3 0 s
    else
      let m := min n most
      match netCollect e wg (pieces (m / 32 + 2) a m) s0 with
      | (bytes, s1, none) => netClaim wg a n m (netSend q d c n false bytes s1)
      | (bytes, s1, some .fault) =>
        if bytes.isEmpty then doneHead q 2 0 s1
        else netClaim wg a n bytes.length (netSend q d c bytes.length true bytes s1)
      | (_, _, some x) => stopHead q 2 0 x (netClaim wg a n 0 s0)

/-- NPUT_COMMAND (R415). -/
def execNputCommand (wg : Nat) (s : State) : Out1 := .next (beginHead (.ne wg) 0x310 (runNput wg (2 ^ 30)) s)

/-- NGET begins (R415). -/
def runNget (wg : Nat) (c : Cmd) (s : State) : State :=
  let q := QRef.ne wg
  if netSent s wg c then s
  else
  match netDescOnce (engineOf s q c.id) wg c s with
  | .inl (.inl status) => doneHead q status 0 s
  | .inl (.inr x) => stopHead q 5 0 x s
  | .inr (d, s0) =>
    let n := valAt 0x28 4 d
    if n = 0 then doneHead q 0 0 s0
    else if rangeGone s wg (netLocal c) n then doneHead q 3 0 s
    else netSend q d c n false [] s0

/-- Write the pieces of an NGET's answer that are left; what stops it. -/
def ngetWrite (e : Eng) (wg a : Nat) (bytes : List Byte) (r : EngRun) : EngRun :=
  (pieces (bytes.length / 32 + 2) a bytes.length).foldl (fun r p =>
    match r.stop with
    | some _ => r
    | none =>
      match engPut e wg p.1 (bytesAt (p.1 - a) p.2 bytes) r.s with
      | .inr s => { r with s := s, done := r.done + p.2 }
      | .inl x => { r with stop := some x }) r

/-- The answers' bytes from the `skip`-th to come on, no more than `most` of them, each part with its offset. -/
def answerParts : Nat → Nat → List (Nat × List Byte) → List (Nat × List Byte)
  | _, _, [] => []
  | skip, most, (off, b) :: l =>
    if b.length ≤ skip then answerParts (skip - b.length) most l
    else
      let b' := (b.drop skip).take most
      if b'.isEmpty then [] else (off + skip, b') :: answerParts 0 (most - b'.length) l

/-- The first byte, in iteration order, that an NGET has not delivered once `n` bytes are written (R248). -/
def ngetValue (c : Cmd) (n : Nat) : Nat :=
  let l := (answerParts 0 n c.answers).map (fun x => (x.1, x.2.length))
  firstMissing l (l.length + 1) 0

/-- What the answers of an NGET have brought reaches local memory in the order of their arrival, up to `most` bytes of it;
the command is done once all of it has. -/
def ngetFinish (wg most : Nat) (s : State) : State :=
  let q := QRef.ne wg
  match queueOf s q with
  | [] => s
  | c :: _ =>
    if c.op != 0x311 || !c.begun || c.done.isSome || c.parked.isSome || decide (answered c ≤ c.progress)
        || !engineOn s (queueFn s q) then s
    else
      let r := (answerParts c.progress most c.answers).foldl (fun r x => match r.stop with
        | some _ => r
        | none => ngetWrite (engineOf s q c.id) wg (netLocal c + x.1) x.2 r) (⟨s, 0, none⟩ : EngRun)
      let n := c.progress + r.done
      let s1 := modHead q (fun c => { c with progress := n }) (if r.done = 0 then r.s else unitMoved q r.s)
      match r.stop with
      | none => if n < c.vc.toNat then s1 else doneHead q 0 n s1
      | some .fault => doneHead q 2 (ngetValue c n) s1
      | some (.park stage page va) => parkHead q stage page va 1 s1
      | some x => stopHead q 2 n x s1

/-- NGET_COMMAND (R415): it begins, or goes on writing what has come back. -/
def execNgetCommand (wg : Nat) (s : State) : Out1 :=
  .next (ngetFinish wg (2 ^ 30) (beginHead (.ne wg) 0x311 (runNget wg) s))

/-- NSIG begins (R415): the commands before it have completed, for it is the head
(in part DEDUCED, log 58). -/
def runNsig (wg : Nat) (c : Cmd) (s : State) : State :=
  let q := QRef.ne wg
  if netSent s wg c then s
  else
  match netDescOnce (engineOf s q c.id) wg c s with
  | .inl (.inl status) => doneHead q status 0 s
  | .inl (.inr x) => stopHead q 5 0 x s
  | .inr (d, s) =>
    if netRemote d c % 8 != 0 then doneHead q 2 0 s else netSend q d c 0 false [] s

/-- NSIG_COMMAND (R415). -/
def execNsigCommand (wg : Nat) (s : State) : Out1 := .next (beginHead (.ne wg) 0x312 (runNsig wg) s)

/-! ### What peers answer (R415, R419) -/

/-- Whether an operation's command still waits for its answer: it heads its queue, and its context is not
halted. -/
def netAwaited (s : State) (o : NetOp) : Bool :=
  match queueOf s (.ne o.wg) with
  | c :: _ => c.begun && c.done.isNone && c.vd = BitVec.ofNat 64 o.id && (s.ctx (queueFn s (.ne o.wg))).halt.isNone
  | [] => false

/-- Let go of an operation. -/
def netDrop (id : Nat) (s : State) : State := { s with net := drop id s.net }

/-- UET gives a transfer up, or its peer refuses it, with `n` bytes delivered: an NGET has written what its answers
brought (R248, R415). -/
def netFail (o : NetOp) (n : Nat) (s : State) : State :=
  let q := QRef.ne o.wg
  if o.op != 0x311 then doneHead q 2 n s
  else
    let s := ngetFinish o.wg (2 ^ 30) s
    match queueOf s q with
    | c :: _ => if c.done.isSome then s else doneHead q 2 (ngetValue c c.progress) s
    | [] => s

/-- Whether an answer brings bytes that were asked for and have not come yet: of an ordered operation the next ones, of an
unordered one any (R411). -/
def answerFits (o : NetOp) (c : Cmd) (off : Nat) (b : List Byte) : Bool :=
  o.op = 0x311 && !b.isEmpty && decide (b.length ≤ packetBytes) && decide (off + b.length ≤ o.len)
    && (if o.ordered then off = answered c
      else c.answers.all (fun x => decide (off + b.length ≤ x.1) || decide (x.1 + x.2.length ≤ off)))

/-- PEER_RESPONSE (R415): an answer ends the operation, or brings bytes of it; a trimmed packet is sent again. -/
def execPeerResponse (id : Nat) (r : PeerAnswer) (s : State) : Out1 :=
  match look id s.net with
  | none => .next s
  | some o =>
    let q := QRef.ne o.wg
    if !netAwaited s o then .next (netDrop id s)
    else
      match r with
      | .trimmed i =>
        let sent := if o.op = 0x310 then ((queueOf s q).head?.map (·.data)).getD [] else []
        .next { s with out := s.out ++ ((packets o sent)[i]?).toList }
      | .error n => .next (netFail o n (netDrop id s))
      | .ack =>
        if o.op = 0x311 then .next s
        else .next (doneHead q (if o.short then 2 else 0) o.len (netDrop id s))
      | .data off bytes =>
        match (queueOf s q).head?.filter (fun c => answerFits o c off bytes) with
        | none => .next s
        | some c =>
          let s := if answered c + bytes.length = o.len then netDrop id s else s
          .next (ngetFinish o.wg (2 ^ 30) (modHead q (fun c => { c with answers := c.answers ++ [(off, bytes)] }) s))

/-! ### Where a halt finds a network command (R338, R419) -/

/-- Bytes to the next beat of 128 of a transfer that has come so far. -/
def toBeat (n : Nat) : Nat := (128 - n % 128) % 128

/-- The head of a network queue has come to the next beat of 128 bytes when the halt line has stopped its engine: an NPUT
that could begin has sent so much, a free value (DESIGN CHOICE, log 12), and an NGET has written so much of what has come back. -/
def stopNet (wg : Nat) (s : State) : State :=
  let q := QRef.ne wg
  let n := 128 * Config.stopReach s.freeCtr
  let s := { s with freeCtr := s.freeCtr + 1 }
  match (queueOf s q).head? with
  | none => s
  | some c =>
    if !(goesOn s q c || (mayBegin s q c && !guardHeld s q c && !discarded s q c)) then s
    else if c.op = 0x310 && n != 0 then runNput wg n c s
    else if c.op = 0x311 then ngetFinish wg (toBeat c.progress) s
    else s

/-- TRANSFER_ABANDONED (R415): `n` bytes had been delivered. -/
def execTransferAbandoned (id n : Nat) (s : State) : Out1 :=
  match look id s.net with
  | none => .next s
  | some o =>
    if netAwaited s o then .next (netFail o n (netDrop id s)) else .next (netDrop id s)

/-! ### NWAIT (R416) -/

/-- The encoding of NWAIT. -/
def nwaitEnc (f : Fields) : Enc :=
  { modOk := f.mod = 0, dst := .dst 2 { g := true, z := true }, sa := .src 2 pair6
    sb := .src 2 { pair6 with z := true } }

/-- The stall of a waiting NWAIT, with the device address that its word has; and of one whose read its core's accesses
before it hold back, with the first name of those that follow it. -/
def nwaitStall (pa : Nat) : Stall := ⟨15, 16, pa⟩
def nwaitBehind (bound : Nat) : Stall := ⟨15, 16, 8 * bound + 1⟩

/-- Whether the home slice serves the read of an NWAIT: it comes there after what its core has sent there before it, as its
line and its die have it (R212, R409). -/
def nwaitServed (s : State) (t : Thread) (core pa : Nat) : Bool :=
  match t.stall with
  | some st => if st.state = 16 then st.arg % 8 = 0 || inTurn s core pa (st.arg / 8) else inTurn s core pa s.nextId
  | none => inTurn s core pa s.nextId

/-- A thread's NWAIT has its word: an acquire at `.sys`. -/
def nwaitDone (k v : Nat) (s : State) : LaneOut :=
  .done [v] (l1Acquire (coreOf k) (forgetNotice k s))

/-- NWAIT for one thread: the word as its home slice holds it, or as it was when a write brought it to the target. -/
def nwaitBody : Body := fun k t l s =>
  let va := nth 0 0 l
  let core := coreOf k
  match accessHold t 0 with
  | some st => .stall st true
  | none =>
    if va < 2 ^ 57 && va % 8 = 0 && inAperture va then .trap (violation 7 va)
    else
      match checkAccess s t.fn core t.wg .read va 8 with
      | .trap r => .trap r
      | .park stage page va => .park stage page va 0
      | .pad _ => .trap (violation 7 va)
      | .dev pa cid =>
        let object := BitVec.ofNat 64 (lineOf pa)
        let v := ofBytes (memRead s.mem pa 8)
        if !nwaitServed s t core pa then
          .stall (nwaitBehind (match t.stall with
            | some st => if st.state = 16 then st.arg / 8 else s.nextId
            | none => s.nextId)) true
        else if foreign s cid pa then .gone (coreIntegrity k (pa, cid) s)
        else
          match look k s.noticed with
          | some v => nwaitDone k v (tlbTake t.fn core va s)
          | none =>
            if !reaches v (nth 0 1 l) || !orderReady s t.fn 1 (sliceOf pa) object (s.coreNo t.fn core) 0 then
              .stall (nwaitStall pa) true
            else nwaitDone k v
              (orderPoint t.fn 1 (sliceOf pa) object (s.coreNo t.fn core) 0 none (tlbTake t.fn core va s))

/-- NWAIT (R416). -/
def execNwait (f : Fields) (s : State) : Out1 := answer (formOf f (nwaitEnc f)) nwaitBody s

/-! ### Inbound operations (R412) -/

/-- Whether the endpoint of a fabric address and an endpoint index, which is the function's number, accepts packets
that carry a job identifier (R392, R412). -/
def accepts412 (s : State) (dest : BitVec 128) (fn : Nat) (job : Word) : Bool :=
  (s.vf fn).ctl.getLsbD 0 && dest != 0 && (s.vf fn).addr = dest && (s.vf fn).job = job

/-- What an inbound access to a range meets: whether every byte of it translates with the permission
(in part DEDUCED, log 58). -/
def inboundOk (s : State) (fn : Nat) (need : Need) (a n : Nat) : Bool :=
  (pieces (n / 32 + 2) a n).all (fun p =>
    match engineXlat s fn (firstCore s fn) need p.1 p.2 with
    | .ok _ _ => true
    | _ => false)

/-- Lines of a range that need an undo entry first (R345). -/
def inboundLines (s : State) (fn a n : Nat) : List Nat :=
  distinct ((pieces (n / 32 + 2) a n).filterMap (fun p =>
    match engineXlat s fn (firstCore s fn) .write p.1 p.2 with
    | .ok pa _ => if needsUndo s fn pa then some (lineOf pa) else none
    | _ => none))

/-- Whether the undo log takes their entries now (R347). -/
def inboundRoom (s : State) (fn a n : Nat) : Bool := undoHolds s fn (inboundLines s fn a n).length

/-- The stop-area index that a function's inbound accesses go by: that of its die's Network Engine
(in part DEDUCED, log 58). -/
def inboundUnit (s : State) (fn : Nat) : Nat := 898 + dieOf (firstCore s fn)

/-- An inbound operation is refused with a UET error. -/
def refuseInbound (fn : Nat) (s : State) : State := { s with out := s.out ++ [.inboundError fn] }

/-- It fails at a line or table that fails its integrity check: a fault of the context (R402). -/
def inboundFailed (fn : Nat) (integrity : Option (Nat × Nat)) (s : State) : State :=
  orIntegrity fn (inboundUnit s fn) integrity (refuseInbound fn s)

/-- The answer of an inbound read: at most 4,096 bytes to a packet (R411). -/
def readAnswer (fn : Nat) (b : List Byte) : List Out :=
  (upto (max 1 ((b.length + packetBytes - 1) / packetBytes))).map (fun i =>
    .inboundAck fn ((b.drop (packetBytes * i)).take packetBytes))

/-- Change the Foreman thread mapped to a queue. -/
def modForeman (v : Queue) (f : ForemanThread → ForemanThread) (s : State) : State :=
  match v.mapped with
  | some hw => { s with foreman := change hw f s.foreman }
  | none => s

/-- A notify register was written: the queue's thread is ready if its wait packet names that (R389). -/
def wakeForeman (v : Queue) (s : State) : State :=
  modForeman v (fun t => { t with running := t.running || t.onNotify }) s

/-- A notify register of a function is written: the queue with that slot has a new producer index (R397). -/
def notifyAct (fn slot : Nat) (value : DWord) (s : State) : State :=
  let s := s.modVf fn (fun v => { v with notify := setNth (loWord value) slot v.notify })
  match s.queues.find? (fun p => p.2.fn = fn && p.2.notify = slot) with
  | none => s
  | some p => wakeForeman p.2 (s.modQueue p.1 (fun v => { v with producer := loWord value, notified := true }))

/-- An inbound atomic: unsigned maximum, or fetch-and-add, of a 64-bit word (R412). -/
def atomicValue (max1 : Bool) (old : Nat) (value : DWord) : Nat :=
  if max1 then max old value.toNat else wrapNat 64 ((old : Int) + value.toNat)

/-- The home slices perform an inbound operation; it is acknowledged, or refused (R412). -/
def performInbound (i : Inbound) (s : State) : State :=
  let fn := i.dest.fn
  let core := firstCore s fn
  match i.kind with
  | .write bytes =>
    if !inboundOk s fn .write i.addr bytes.length then refuseInbound fn s
    else
      match engineWrite fn core (bytes.length / 4096 + 2) i.addr bytes s with
      | .inl x => inboundFailed fn x.failed s
      | .inr s => { s with out := s.out ++ [.inboundAck fn []] }
  | .read len =>
    if !inboundOk s fn .read i.addr len then refuseInbound fn s
    else
      match engineRead s fn core (len / 4096 + 2) i.addr len with
      | .inl x => inboundFailed fn x.failed s
      | .inr b =>
        let s := readNote fn core (len / 4096 + 2) i.addr len s
        { s with out := s.out ++ readAnswer fn b }
  | .atomic max1 value =>
    if i.addr % 8 != 0 || !inboundOk s fn .write i.addr 8 then refuseInbound fn s
    else
      match engineXlat s fn core .write i.addr 8 with
      | .ok pa cid =>
        let old := ofBytes (memRead s.mem pa 8)
        if foreign s cid pa then inboundFailed fn (some (pa, cid)) s
        else
          let s := loggedWrite fn cid pa (toBytes 8 (atomicValue max1 old value)) (readNote fn core 2 i.addr 8 s)
          { s with out := s.out ++ [.inboundAck fn (toBytes 8 old)] }
      | _ => refuseInbound fn s
  | .notify slot value =>
    let s := notifyAct fn slot value s
    { s with out := s.out ++ [.inboundAck fn []] }

/-- Bytes that an inbound operation carries and writes. -/
def InboundKind.writes : InboundKind → Nat
  | .write bytes => bytes.length
  | .read _ | .notify _ _ => 0
  | .atomic _ _ => 8

/-- Whether an inbound operation may come by a delivery mode: notify writes are ordered (R411). -/
def InboundKind.takes : InboundKind → Delivery → Bool
  | _, .other => false
  | .notify _ _, m => m = .rod
  | _, _ => true

/-- Whether an inbound operation waits: for its flow's operations before it, or for room in the undo log (R347, R412). -/
def inboundWaits (s : State) (i : Inbound) : Bool :=
  (i.dest.mode = .rod && s.inbound.any (fun j => j.dest.mode = .rod && j.dest.flow = i.dest.flow))
    || !inboundRoom s i.dest.fn i.addr i.kind.writes

/-- An inbound operation is performed, or waits. Where the undo log may not take its entries, that is UNDO_FAIL (R345). -/
def takeInbound (i : Inbound) (s : State) : State :=
  let fn := i.dest.fn
  if !(inboundLines s fn i.addr i.kind.writes).isEmpty && !logSound s fn then
    raiseHalt fn fUndoFail (inboundUnit s fn) [] (refuseInbound fn s)
  else if inboundWaits s i then { s with inbound := s.inbound ++ [i] }
  else performInbound i s

/-- A function's inbound operations that wait are tried again, oldest first. -/
def retryInbound (fn : Nat) (s : State) : State :=
  (s.inbound.filter (fun i => i.dest.fn = fn)).foldl (fun s i => takeInbound i s)
    { s with inbound := s.inbound.filter (fun i => i.dest.fn != fn) }

/-- The same for every function that has some: also one that is switched out (R404, R412). -/
def retryAll (s : State) : State :=
  (distinct (s.inbound.map (·.dest.fn))).foldl (fun s fn => retryInbound fn s) (retryRings s)

/-- A packet arrives (R411, R412): another delivery mode and a longer payload are refused, and a trimmed one is asked for
again; an ordered one is taken only in its turn, and its peer sends it again else (in part PRESUMED, log 86). -/
def arriveInbound (job : Word) (i : Inbound) (s : State) : State :=
  if !accepts412 s i.dest.addr i.dest.fn job then s
  else if !i.kind.takes i.dest.mode || decide (packetBytes < i.kind.writes) then refuseInbound i.dest.fn s
  else if i.dest.trimmed then { s with out := s.out ++ [.inboundTrimmed i.dest.fn] }
  else
  let s := retryInbound i.dest.fn (postLogs s)
  if i.dest.mode = .rod then
    if i.dest.seq = (look i.dest.flow s.flows).getD 0 then
      takeInbound i { s with flows := put i.dest.flow (i.dest.seq + 1) s.flows }
    else s
  else takeInbound i s

/-- INBOUND_RMA_WRITE (R412): acknowledged once performed; a full undo log holds it. -/
def execInboundRmaWrite (dest : EndpointName) (job : Word) (addr : DWord) (bytes : List Byte) (s : State) : Out1 :=
  .next (arriveInbound job ⟨dest, addr.toNat, .write bytes⟩ s)

/-- INBOUND_RMA_READ (R412). -/
def execInboundRmaRead (dest : EndpointName) (job : Word) (addr : DWord) (len : Nat) (s : State) : Out1 :=
  .next (arriveInbound job ⟨dest, addr.toNat, .read len⟩ s)

/-- INBOUND_ATOMIC (R412): in one step at its home slice. The answer carries the word as it was. -/
def execInboundAtomic (dest : EndpointName) (job : Word) (addr : DWord) (max1 : Bool) (value : DWord) (s : State) : Out1 :=
  .next (arriveInbound job ⟨dest, addr.toNat, .atomic max1 value⟩ s)

end Sys2Proof.Machine
end

