-- ==== Sys2Proof/Machine/System.lean ====
section
/-! DEFINITION. Traps and system (R372-R386): TRAP, BKPT, TRET, CKPT, SRD, SWR, TMARK, CSUMR, IDLE; writes
of system registers; trace samples (R362). -/

namespace Sys2Proof.Machine

/-! ### TRAP, BKPT, TRET (R373, R374) -/

/-- The 16-bit immediate of TRAP, BKPT and TMARK. -/
def code16 (f : Fields) : Nat := f.sb.toNat * 2 ^ 8 + f.sc.toNat

/-- The encoding of TRAP and BKPT. -/
def trapEnc (f : Fields) : Enc := { modOk := f.mod = 0, sb := .raw, sc := .raw, tdOk := false }

/-- TRAP (R373). -/
def execTrap (f : Fields) (s : State) : Out1 :=
  answer (formOf f (trapEnc f)) (fun _ _ _ s => .after (trapAfter cTrap (code16 f)) [] s) s
/-- BKPT (R373). -/
def execBkpt (f : Fields) (s : State) : Out1 :=
  answer (formOf f (trapEnc f)) (fun _ _ _ s => .after (trapAfter cBkpt (code16 f)) [] s) s

/-- TRET for one thread (R334); a reserved rounding mode leaves RM (R10) (in part DEDUCED, log 32). -/
def tretBody : Body := fun k t _ s =>
  let f := curFrame t
  if t.tdepth = 0 then .trap (trapBefore cIllegalInstruction)
  else if !frameSound t f then .gone (coreFault k fCorruptTrapState s)
  else .jump f.rpc (s.modThread k (fun t => { leaveTrap t with fstat := writeFstat t.fstat f.fstat }))

/-- TRET (R334, R374). -/
def execTret (f : Fields) (s : State) : Out1 :=
  answer (formOf f { modOk := f.mod = 0, tdOk := false } none [] (upto 7)) tretBody s

/-! ### CKPT (R375) -/

/-- Whether a source's request of a checkpoint of the context is in force. -/
def asksCkpt (s : State) (fn why : Nat) : Bool := ((s.ctx fn).ckpt.map (fun r => (look why r.why).isSome)).getD false

/-- Ask for a checkpoint of a function's context. `why` is the source; what asks by CKPT asks anew each time. -/
def requestCkpt (fn why : Nat) (s : State) : State :=
  s.modCtx fn (fun c => { c with
    ckpt := match c.ckpt with
      | some r => some { r with why :=
          if (look why r.why).isSome && why != 4 then r.why else put why c.pcycle r.why }
      | none => some ⟨[(why, c.pcycle)], headIds s fn⟩ })

/-- The encoding of CKPT (in part DEDUCED, log 57). -/
def ckptEnc (f : Fields) : Enc :=
  { modOk := bits f.mod.toNat 10 5 = 0 && bits f.mod.toNat 1 1 = 0 && (f.mod.getLsbD 0 || mD f = 0)
    tdOk := false }

/-- CKPT (R375). -/
def execCkpt (f : Fields) (s : State) : Out1 :=
  answer (formOf f (ckptEnc f) none [] (if f.mod.getLsbD 0 then [mD f] else []))
    (fun _ t _ s =>
      let s := requestCkpt t.fn 4 s
      if f.mod.getLsbD 0 then .wait (.ckpt (mD f)) s else .done [] s) s

/-! ### System registers (R382) -/

/-- A register's width in bits, whether it is of thread scope, and whether a thread may write it. -/
structure SysReg where
  width : Nat
  thread : Bool
  rw : Bool
  deriving DecidableEq, Repr

/-- The registers of R382. -/
def sysReg (n : Nat) : Option SysReg :=
  if n = 0x000 then some ⟨32, true, true⟩
  else if n = 0x010 then some ⟨64, true, true⟩
  else if n = 0x011 || n = 0x012 then some ⟨64, true, false⟩
  else if n = 0x013 || n = 0x014 then some ⟨32, true, true⟩
  else if n = 0x015 then some ⟨64, true, true⟩
  else if n = 0x016 || n = 0x017 then some ⟨32, true, false⟩
  else if n = 0x018 then some ⟨64, true, false⟩
  else if n = 0x019 || n = 0x01A then some ⟨32, true, false⟩
  else if n = 0x100 then some ⟨64, false, false⟩
  else if n = 0x101 then some ⟨32, false, false⟩
  else if n = 0x102 then some ⟨64, false, true⟩
  else if n = 0x103 then some ⟨32, false, true⟩
  else if n = 0x104 || n = 0x105 || n = 0x106 then some ⟨64, false, false⟩
  else if n = 0x107 then some ⟨32, false, false⟩
  else if n = 0x108 then some ⟨64, false, false⟩
  else if n = 0x200 || n = 0x201 then some ⟨64, false, true⟩
  else if n = 0x300 then some ⟨64, false, true⟩
  else if n = 0x301 then some ⟨32, false, false⟩
  else if n = 0x400 || n = 0x401 || n = 0x402 then some ⟨32, false, true⟩
  else if n = 0x403 then some ⟨32, false, false⟩
  else if n = 0x404 then some ⟨64, false, false⟩
  else none

/-- POOLSTAT (R192). -/
def poolstat (s : State) (core : Nat) : Nat :=
  freeG s core + l1G s core * 2 ^ 10 + frameG s core * 2 ^ 20

/-- The value of a register as a thread on a core would read it, were it the only one to write it. -/
def sysValue (s : State) (t : Thread) (core n : Nat) : Nat :=
  let f := curFrame t
  let c := s.ctx t.fn
  let q := s.sect (sectOf core)
  if n = 0x000 then t.fstat.toNat
  else if n = 0x010 then f.rpc.toNat
  else if n = 0x011 then f.iaddr.toNat
  else if n = 0x012 then f.faddr.toNat
  else if n = 0x013 then f.ssw.toNat
  else if n = 0x014 then f.fstat.toNat
  else if n = 0x015 then f.lnk.toNat
  else if n = 0x016 then f.cause.toNat
  else if n = 0x017 then f.detail.toNat
  else if n = 0x018 then f.own.toNat + 2 ^ 32 * f.sibling.toNat
  else if n = 0x019 then f.parent.toNat
  else if n = 0x01A then t.tdepth
  else if n = 0x100 then c.frameBase.toNat
  else if n = 0x101 then c.frameStride.toNat
  else if n = 0x102 then c.htbase.toNat
  else if n = 0x103 then c.ckptint.toNat
  else if n = 0x104 then c.recctl.toNat
  else if n = 0x105 then c.tst.toNat
  else if n = 0x106 then c.hst.toNat
  else if n = 0x107 then c.epoch.toNat
  else if n = 0x108 then c.pcycle % 2 ^ 64
  else if n = 0x200 then c.tracectl.toNat
  else if n = 0x201 then c.tracestat.toNat
  else if n = 0x300 then q.sqpat.toNat
  else if n = 0x301 then q.mxspare.toNat
  else if n = 0x400 then (s.core core).barstall.toNat
  else if n = 0x401 then (s.core core).poolwait.toNat
  else if n = 0x402 then (s.core core).poolcfg.toNat
  else if n = 0x403 then poolstat s core
  else if n = 0x404 then (s.core core).dbgbp.toNat
  else 0

/-- The value of a register as a thread on a core reads it: writes that other cores made in the present cycle
do not show yet (R378). A section's register is its section's. -/
def sysRead (s : State) (t : Thread) (core n : Nat) : Nat :=
  seenReg s t.fn n (fun w => if n = 0x300 then sectOf w.core = sectOf core else decide (n < 0x400) || w.core = core)
    (fun w => w.core = core) (sysValue s t core n)

/-- Write BARSTALL of a core; counts are compared with it from the next cycle on (R378). -/
def writeBarstall (core : Nat) (v : Word) (s : State) : State :=
  s.modCore core (fun c => { c with barstall := v })

/-- Write CKPTINT: the next periodic request counts from the last formation (R342, R378). -/
def writeCkptint (fn : Nat) (v : Word) (s : State) : State :=
  s.modCtx fn (fun c => { c with ckptint := v, lapsedAt := 0 })

/-- Write TRACECTL: with a ring address beyond the address space EN is not set (R360)
(in part DEDUCED, log 56). -/
def writeTracectl (fn : Nat) (v : DWord) (s : State) : State :=
  s.modCtx fn (fun c => { c with tracectl := if 2 ^ 57 ≤ v.toNat then v &&& ~~~1 else v })

/-- Write TRACESTAT: WOFF and DROPPED take the value, STOP clears where it holds 1 (R361). -/
def writeTracestat (fn : Nat) (v : DWord) (s : State) : State :=
  s.modCtx fn (fun c => { c with
    tracestat := (v &&& 0xFFFFFFFF7FFFFFFF) ||| (c.tracestat &&& ~~~v &&& 0x80000000) })

/-- HTBASE holds bits 56:7 (R329). -/
def htMask : DWord := 0x01FFFFFFFFFFFF80

/-- Write a register as thread `k` of a function does. -/
def sysWrite (k : Nat) (t : Thread) (n v : Nat) (s : State) : State :=
  let w : Word := BitVec.ofNat 32 v
  let d : DWord := BitVec.ofNat 64 v
  let core := coreOf k
  let s := if (0x100 ≤ n && n ≤ 0x300) || n = 0x400 || n = 0x401 then
      noteSwr t.fn n core (some k) (sysValue s t core n) s
    else s
  let frame (f : TrapFrame → TrapFrame) : State := s.modThread k (writeFrame n f)
  if n = 0x000 then s.modThread k (fun t => { t with fstat := writeFstat t.fstat w })
  else if n = 0x010 then frame (fun f => { f with rpc := d })
  else if n = 0x013 then frame (fun f => { f with ssw := w })
  else if n = 0x014 then frame (fun f => { f with fstat := w })
  else if n = 0x015 then frame (fun f => { f with lnk := d })
  else if n = 0x102 then s.modCtx t.fn (fun c => { c with htbase := d &&& htMask })
  else if n = 0x103 then writeCkptint t.fn w s
  else if n = 0x200 then writeTracectl t.fn d s
  else if n = 0x201 then writeTracestat t.fn d s
  else if n = 0x300 then s.modSect (sectOf core) (fun q => { q with sqpat := d })
  else if n = 0x400 then
    (writeBarstall core w s).modCtx t.fn (fun c => { c with ownBarstall := distinct (c.ownBarstall ++ [core]) })
  else if n = 0x401 then
    (s.modCore core (fun c => { c with poolwait := w })).modCtx t.fn (fun c => { c with
      ownPoolwait := distinct (c.ownPoolwait ++ [core]) })
  else if n = 0x402 then writePoolcfg core w s
  else s

/-! ### SRD and SWR (R376, R377) -/

/-- NUM, and the bits above it that are 0. -/
def sysNum (f : Fields) : Nat := code16 f % 2 ^ 12
def sysTop (f : Fields) : Bool := code16 f / 2 ^ 12 = 0

/-- Whether a register is a view of the current trap frame (R333). -/
def isTrapReg (n : Nat) : Bool := decide (0x010 ≤ n) && decide (n ≤ 0x019)

/-- Registers of a width. -/
def sysRegs (n : Nat) : Nat := ((sysReg n).map (fun r => r.width / 32)).getD 1

/-- The encoding of SRD. -/
def srdEnc (f : Fields) : Enc :=
  let r := sysReg (sysNum f)
  { modOk := f.mod = 0 && sysTop f, opOk := r.isSome
    dst := .dst (sysRegs (sysNum f)) { g := true, s := !((r.map (·.thread)).getD true) }
    sb := .raw, sc := .raw, tdOk := false }

/-- SRD (R376). -/
def execSrd (f : Fields) (s : State) : Out1 :=
  answer (formOf f (srdEnc f))
    (fun k t _ s =>
      if isTrapReg (sysNum f) && t.tdepth = 0 then .trap (trapBefore cIllegalOperand)
      else .done [sysRead s t (coreOf k) (sysNum f)] s) s

/-- The encoding of SWR. -/
def swrEnc (f : Fields) : Enc :=
  { modOk := bits f.mod.toNat 9 0 = 0 && sysTop f && (mIM f == (formExt f.form != 0))
    opOk := ((sysReg (sysNum f)).map (·.rw)).getD false
    sa := if mIM f then .none else .src (sysRegs (sysNum f)) { g := true, s := true, z := true }
    sb := .raw, sc := .raw, tdOk := false }

/-- SWR (R377). -/
def execSwr (f : Fields) (s : State) : Out1 :=
  answer (formOf f (swrEnc f) (if mIM f then some (f.ext1.toNat % 2 ^ (32 * sysRegs (sysNum f))) else none))
    (fun k t l s =>
      if isTrapReg (sysNum f) && t.tdepth = 0 then .trap (trapBefore cIllegalOperand)
      else if isTrapReg (sysNum f) && !frameRoom s k t [trapFieldLine t (sysNum f)] then .stall ⟨15, 13, 0⟩ false
      else .done [] (sysWrite k t (sysNum f) (nth 0 0 l) s)) s

/-! ### Register writes from outside a thread (R378) -/

/-- BARSTALL_WRITE (R378). -/
def execBarstallWrite (core : Nat) (value : Word) (s : State) : Out1 :=
  .next (viaMgmt (fun s => noteOutside core 0x400 (s.core core).barstall.toNat (writeBarstall core value s)) s)
/-- CKPTINT_WRITE (R378). -/
def execCkptintWrite (fn : Nat) (value : Word) (s : State) : Out1 := .next (viaMgmt (writeCkptint fn value) s)
/-- TRACESTAT_WRITE (R361). -/
def execTracestatWrite (fn : Nat) (value : DWord) (s : State) : Out1 := .next (viaMgmt (writeTracestat fn value) s)

/-! ### TMARK, CSUMR, IDLE (R379-R381) -/

/-- The encoding of TMARK. -/
def tmarkEnc (f : Fields) : Enc :=
  { modOk := f.mod = 0
    sa := if formExt f.form = 0 then .src 1 { g := true, s := true, z := true } else .none
    sb := .raw, sc := .raw, tdOk := false }

/-- The record of a TMARK. -/
def tmarkRecord (s : State) (k : Nat) (t : Thread) (code v : Nat) : List Byte :=
  traceHeader s t.fn (coreOf k) 1 2 ++ toBytes 2 code ++ [BitVec.ofNat 8 (wposOf k), BitVec.ofNat 8 (laneOf k)]
    ++ toBytes 4 (((look t.wg s.wgs).map linearIndex).getD 0) ++ toBytes 8 t.spord.toNat ++ toBytes 8 v

/-- TMARK (R379). -/
def execTmark (f : Fields) (s : State) : Out1 :=
  answer (formOf f (tmarkEnc f) (if formExt f.form = 0 then none else some f.ext1.toNat))
    (fun k t l s =>
      let c := (s.ctx t.fn).tracectl
      .done [] (if c.getLsbD 0 && c.getLsbD 2 then
          traceRecord t.fn (coreOf k) (tmarkRecord s k t (code16 f) (nth 0 0 l)) s
        else s)) s

/-- CSUMR (R380). -/
def execCsumr (f : Fields) (s : State) : Out1 :=
  answer (formOf f { modOk := f.mod = 0, dst := .dst 2 { g := true, s := true }, tdOk := false })
    (fun _ t _ s =>
      .done [if recMode s t.fn = 0 then 0 else ((look t.wg s.wgs).map (fun w : Workgroup => w.csum.toNat)).getD 0] s) s

/-- IDLE (R381). -/
def execIdle (f : Fields) (s : State) : Out1 :=
  answer (formOf f { modOk := bits f.mod.toNat 9 0 = 0, sa := (countRoles f).1, sb := (countRoles f).2
                     tdOk := false })
    (fun _ t l s =>
      let n := countOf f l
      if n = 0 then .done [] s else .wait (.idle ((s.ctx t.fn).pcycle + n)) s) s

/-- IDLE_WAKE (R381): the count of an idling thread is out. -/
def execIdleWake (thread : Nat) (s : State) : Out1 :=
  match look thread s.threads with
  | none => .next s
  | some t =>
    match t.wait with
    | some (.idle till) =>
      if (s.ctx t.fn).pcycle < till then .next s
      else .next (s.modThread thread (goOn (s.ctx t.fn).pcycle))
    | _ => .next s

/-! ### Trace samples (R362) -/

/-- Whether a sample of a core is due in this cycle and has not been taken. -/
def sampleDue (s : State) (fn core : Nat) : Bool :=
  let c := s.ctx fn
  let n := bits c.tracectl.toNat 7 4
  c.tracectl.getLsbD 0 && n != 0 && c.pcycle % 2 ^ (n + 7) = 0 && (s.core core).sampledAt != some c.pcycle

/-- The six bytes of a slot: the first thread of the bundle that issued, and its ordinal. -/
def slotSample (s : State) (core slot : Nat) : List Byte :=
  match (s.core core).issuedNow.find? (fun p => slotOf p.1 = slot) with
  | none => [0xFF, 0, 0, 0, 0, 0]
  | some (k, ord) => [BitVec.ofNat 8 (wposOf k), BitVec.ofNat 8 (laneOf k)] ++ toBytes 4 ord

/-- TRACE_SAMPLE (R362): once the slots of the core have issued in the sampled cycle. -/
def execTraceSample (core : Nat) (s : State) : Out1 :=
  match runningOn s core with
  | none => .next s
  | some fn =>
    if !sampleDue s fn core || !coreQuiet s core then .next s
    else
      let now := (s.ctx fn).pcycle
      let bytes := traceHeader s fn core 1 1 ++ (upto 4).flatMap (slotSample s core)
      .next (traceRecord fn core bytes (s.modCore core (fun c => { c with sampledAt := some now })))

end Sys2Proof.Machine
end

