-- ==== Sys2Proof/Machine/Image.lean ====
section
/-! DEFINITION. What the Checkpoint Unit and the halting units write: state images (R350), stop records
(R339, R340), order logs (R367, R368) and event records (R405). -/

namespace Sys2Proof.Machine

/-! ### State images (R350) -/

/-- The wait state of a thread. -/
def waitState (t : Thread) : Nat :=
  match t.wait, t.stall with
  | some (.barrier _), _ | some (.barrierAgain _ _ _), _ => 1
  | some (.collective _), _ => 2
  | some (.vswpt _), _ => 4
  | some (.suspended _ _ _ _), _ => 10
  | some (.pool _ _), _ => 11
  | some (.parked _ _), _ | some (.listed _ _ _ _ _), _ => 12
  | some (.idle _), _ => 14
  | some (.ckpt _), _ => 17
  | none, some st => if st.state = 0 then one t.pauseTill.isSome * 15 else st.state
  | none, none => one t.pauseTill.isSome * 15

/-- The wait parameters of a thread, without the zero bytes that follow them. -/
def waitParams (s : State) (k : Nat) (t : Thread) : List Byte :=
  let clock := (s.ctx t.fn).clock
  let now := (s.ctx t.fn).pcycle
  let w := look t.wg s.wgs
  let held (i : Nat) : Nat := nth 0 i (t.held.getD [])
  let count (n origin value : Nat) : List Byte := toBytes 4 n ++ toBytes 4 (clock - origin) ++ toBytes 8 value
  let atPoint (n : Nat) : List Byte :=
    count n ((((w.map (·.vsw)).getD []).find? (fun p => p.id = n)).map (·.origin) |>.getD clock) 0
  match t.wait, t.stall with
  | some (.barrier n), _ | some (.barrierAgain n _ _), _ => count n (s.bar t.wg n).origin 0
  | some (.collective pc), _ =>
    match (w.map (·.colls)).bind (List.find? (fun c =>
      c.pc = pc && c.warp = warpOf k && c.here.any (fun a => a.lane = t.tlin % 32))) with
    | some c => count 0 c.origin
        (((c.here.find? (fun a => a.lane = t.tlin % 32)).map (·.value.toNat)).getD 0)
    | none => []
  | some (.vswpt n), _ => atPoint n
  | some (.suspended cont tq n target), _ =>
    toBytes 8 cont.toNat ++ toBytes 4 (n + 256 * one tq) ++ toBytes 4 target.toNat
  | some (.pool _ asked), _ =>
    let c := (s.core (coreOf k)).waitList
    let since := ((c.find? (fun r => r.thread = k)).map (·.since)).getD clock
    toBytes 4 asked ++ toBytes 4 (clock - since)
  | some (.idle till), _ => toBytes 4 (till - now)
  | some (.parked _ _), _ | some (.listed _ _ _ _ _), _ | some (.ckpt _), _ => []
  | none, some st =>
    if st.state = 18 then
      toBytes 4 st.arg ++ toBytes 4 (held 1) ++ toBytes 4 (held 2) ++ toBytes 4 0 ++ toBytes 8 (held 0)
    else if st.state = 19 then toBytes 4 st.arg ++ toBytes 4 (held 0)
    else if st.state = 3 then
      count st.arg (max (t.stallFrom.getD clock) ((w.map (fun w : Workgroup => nth 0 st.arg w.hlast)).getD 0)) 0
    else if st.state = 4 then atPoint st.arg
    else if st.state = 5 then
      count st.arg ((((w.bind (fun w => look w.cohort s.cohorts)).bind (fun h =>
        (nth ⟨none, none⟩ st.arg (s.sect h.sect).creg).round)).map (·.origin)).getD clock) 0
    else if st.state = 20 || st.state = 21 then toBytes 4 st.arg
    else if st.state = 0 then (t.pauseTill.map (fun c => toBytes 4 (c - now))).getD []
    else []
  | none, none => (t.pauseTill.map (fun c => toBytes 4 (c - now))).getD []

/-- Bytes filled up with zeros to a length. -/
def padTo (n : Nat) (l : List Byte) : List Byte := bytesAt 0 n l

/-- A record: kind, unit, length, content. -/
def imageRecord (kind unit : Nat) (l : List Byte) : List Byte :=
  toBytes 2 kind ++ toBytes 2 unit ++ toBytes 4 (8 + (l.length + 7) / 8 * 8)
    ++ padTo ((l.length + 7) / 8 * 8) l

/-- The operand-cache register numbers: two entries a bank, 0xFF for an empty one. -/
def ocNumbers (t : Thread) : List Byte :=
  (upto 4).flatMap (fun b =>
    bytesAt 0 2 (((t.oc.filter (fun e => e.reg % 4 = b)).map (fun e => BitVec.ofNat 8 e.reg))
      ++ [0xFF, 0xFF]))

/-- The loop stack, bottom entry first. -/
def loopBytes (t : Thread) : List Byte :=
  padTo 96 (t.loops.reverse.flatMap (fun e =>
    toBytes 8 e.loop.toNat ++ toBytes 8 e.start.toNat ++ toBytes 4 e.count.toNat ++ toBytes 4 0))

/-- What a thread gave to an open instance of a harvest register. -/
def givenTo (s : State) (t : Thread) (n : Nat) : Option DWord :=
  ((look t.wg s.wgs).bind (fun w => nth none n w.harvest)).bind (fun h =>
    if t.apprentice then none else look t.tlin h.given)

/-- A thread record. -/
def threadRecord (s : State) (k : Nat) (t : Thread) : List Byte :=
  imageRecord 5 (s.coreNo t.fn (coreOf k)) (padTo 312
    (toBytes 2 (wposOf k + 256 * one t.apprentice) ++ toBytes 1 (laneOf k) ++ toBytes 1 (t.wg % 32)
      ++ toBytes 4 (waitState t) ++ toBytes 8 t.pc.toNat ++ toBytes 8 t.lnk.toNat ++ toBytes 8 t.spord.toNat
      ++ toBytes 1 t.fsize ++ toBytes 1 t.tdepth ++ toBytes 1 t.loops.length ++ toBytes 1 t.preds.toNat
      ++ toBytes 4 t.fstat.toNat ++ toBytes 24 t.dead.toNat ++ ocNumbers t
      ++ toBytes 1 t.ld ++ toBytes 1 t.st ++ toBytes 1 t.cp ++ toBytes 1 t.tl
      ++ t.tags.flatMap (toBytes 1)
      ++ toBytes 4 (match t.latch with
        | none => 0
        | some (gone, _) => if gone then 1 else 2)
      ++ toBytes 8 ((t.latch.map (·.2.toNat)).getD 0) ++ loopBytes t ++ padTo 32 (waitParams s k t)
      ++ toBytes 2 t.arrived.toNat
      ++ toBytes 1 (maskOf ((upto 8).filter (fun n => (givenTo s t n).isSome))) ++ toBytes 1 0
      ++ toBytes 2 t.withdrawn.toNat ++ List.replicate 18 0
      ++ (upto 8).flatMap (fun n => toBytes 8 (((givenTo s t n).map (·.toNat)).getD 0))))

/-- A command image. -/
def cmdImage (s : State) (q : QRef) (c : Cmd) : List Byte :=
  toBytes 2 c.op ++ toBytes 2 c.mod.toNat ++ toBytes 4 c.flds.toNat ++ toBytes 8 c.va.toNat
    ++ toBytes 8 c.vb.toNat ++ toBytes 8 c.vc.toNat ++ toBytes 8 c.vd.toNat ++ toBytes 8 c.ext1.toNat
    ++ toBytes 8 c.ext2.toNat ++ toBytes 2 (if isMatrix c.op then 0xFFFF else c.tlin) ++ toBytes 1 c.wgic
    ++ toBytes 1 (if c.fence.isSome then 2
      else if guardHeld s q c && ((queueOf s q).head?.map (·.id)) = some c.id then 1 else 0)
    ++ toBytes 4 0

/-- The images of a queue's commands. -/
def queueImage (s : State) (q : QRef) : List Byte := (queueOf s q).flatMap (cmdImage s q)

/-- A workgroup record. -/
def wgRecord (s : State) (g : Nat) (w : Workgroup) : List Byte :=
  let clock := (s.ctx w.fn).clock
  let qs := [QRef.cp0 g, .cp1 g, .tk g, .ne g]
  imageRecord 4 (s.coreNo w.fn w.core * 32 + g % 32)
    (toBytes 4 (w.wgic + w.stage * 4 + w.variant * 16 + w.base * 64 + w.level * 256) ++ toBytes 4 (wgSize w)
      ++ toBytes 4 w.chx ++ toBytes 4 w.chy ++ toBytes 4 w.chz ++ toBytes 4 w.spsize
      ++ w.sreg.flatMap (fun x => toBytes 4 x.toNat)
      ++ (upto 8).flatMap (fun n => toBytes 8 (nth 0 n w.hval).toNat ++ toBytes 2 (nth 0 n w.hseq).toNat
        ++ List.replicate 6 0)
      ++ w.ev.flatMap (fun x => toBytes 4 x.toNat)
      ++ w.bars.flatMap (fun b => toBytes 4 b.range.toNat ++ toBytes 2 b.arrivals ++ toBytes 2 b.gen
        ++ toBytes 4 (if b.arrivals = 0 then 0 else clock - b.origin) ++ toBytes 4 0)
      ++ w.harvest.flatMap (fun h => match h with
        | none => List.replicate 16 0
        | some h => [1, BitVec.ofNat 8 h.op, BitVec.ofNat 8 h.ty, BitVec.ofNat 8 h.rm]
            ++ toBytes 4 h.range.toNat ++ toBytes 2 h.seq.toNat ++ List.replicate 6 0)
      ++ w.cq.flatMap (fun l => toBytes 4 l.length ++ toBytes 4 0
        ++ padTo 64 (l.flatMap (fun x => toBytes 4 x.toNat)))
      ++ w.wptr.flatMap (fun x => toBytes 8 x.toNat) ++ w.bind.flatMap (toBytes 2)
      ++ toBytes 8 (one w.record.isSome) ++ padTo 64 (w.record.getD [])
      ++ w.stalls.flatMap (fun x => toBytes 4 x.toNat)
      ++ (match w.vsw with
        | [] => toBytes 2 0xFFFF ++ toBytes 2 0 ++ toBytes 4 0
        | p :: _ => toBytes 2 p.id ++ toBytes 2 0 ++ toBytes 4 (clock - p.origin))
      ++ toBytes 4 (wgCmds w).length ++ toBytes 4 w.colls.length ++ qs.flatMap (queueImage s)
      ++ w.colls.flatMap (fun c => toBytes 2 (c.warp % 48) ++ toBytes 2 c.op
        ++ toBytes 2 c.mod.toNat ++ toBytes 2 0 ++ toBytes 8 c.pc.toNat ++ toBytes 4 c.mask.toNat
        ++ toBytes 4 (clock - c.origin)))

/-- A cohort record. -/
def cohortRecord (s : State) (c : Nat) (h : Cohort) : List Byte :=
  let sec := s.sect h.sect
  let clock := (s.ctx h.fn).clock
  imageRecord 6 (s.sectNo h.fn h.sect)
    (toBytes 4 (1 + (h.csize - 1) * 4)
      ++ toBytes 4 (((upto 16).map (fun n => nth 0 n h.guards * 4 ^ n)).sum)
      ++ sec.creg.flatMap (fun r => toBytes 4 ((r.decl.map (·.toNat)).getD 0)
        ++ toBytes 4 (if r.decl.isNone then 0 else if r.round.isNone then 1 else 2)
        ++ toBytes 4 ((r.round.map (fun x => clock - x.origin)).getD 0) ++ toBytes 4 0
        ++ padTo 64 ((r.round.map (fun x => cmdImage s (.mx c) x.cmd)).getD [])
        ++ toBytes 512 ((r.round.map (fun x => maskOf x.places)).getD 0))
      ++ toBytes 4 h.mx.length ++ toBytes 4 h.sq.length ++ queueImage s (.mx c) ++ queueImage s (.sq c))

/-- The core record. -/
def coreRecord (s : State) (fn c : Nat) : List Byte :=
  let v := s.core c
  let clock := (s.ctx fn).clock
  imageRecord 2 (s.coreNo fn c)
    (toBytes 4 v.barstall.toNat ++ toBytes 4 v.poolwait.toNat ++ toBytes 4 v.poolcfg.toNat ++ toBytes 4 0
      ++ toBytes 8 v.dbgbp.toNat ++ toBytes 4 (ownUnits s c) ++ toBytes 4 v.waitList.length
      ++ v.waitList.flatMap (fun r => [BitVec.ofNat 8 (wposOf r.thread), BitVec.ofNat 8 (laneOf r.thread),
          if r.scratch then 2 else 1, 0] ++ toBytes 4 r.asked ++ toBytes 4 (clock - r.since) ++ toBytes 4 0))

/-- The records of a state image. -/
def imageRecords (s : State) (fn : Nat) : List (List Byte) :=
  let c := s.ctx fn
  let regs := [c.htbase.toNat, c.ckptint.toNat, c.recctl.toNat, c.tracectl.toNat, c.tracestat.toNat]
  [imageRecord 1 0 (regs.flatMap (toBytes 8))]
    ++ (partCores s fn).map (coreRecord s fn)
    ++ (partSections s fn).map (fun i => imageRecord 3 (s.sectNo fn i) (toBytes 8 (s.sect i).sqpat.toNat))
    ++ (s.wgs.filter (fun p => p.2.fn = fn)).map (fun p => wgRecord s p.1 p.2)
    ++ (s.threads.filter (fun p => p.2.fn = fn)).map (fun p => threadRecord s p.1 p.2)
    ++ (s.cohorts.filter (fun p => p.2.fn = fn && (s.sect p.2.sect).holder = some p.1)).map
        (fun p => cohortRecord s p.1 p.2)
    ++ [imageRecord 0 0 []]

/-- Records of a function's context below the header of a state image (R350). -/
def imageOf (s : State) (fn : Nat) (l : List (List Byte)) : List Byte :=
  let body := l.flatten
  toBytes 4 1 ++ toBytes 4 (s.ctx fn).epoch.toNat ++ toBytes 8 ((s.ctx fn).pcycle) ++ toBytes 8 (128 + body.length)
    ++ toBytes 8 l.length ++ toBytes 8 (s.vf fn).sect.toNat ++ toBytes 8 (unitImages s fn)
    ++ List.replicate 80 0 ++ body

/-- A state image of a function's context as it stands (R350) (in part DEDUCED, log 13, DEDUCED, log 21). -/
def stateImage (s : State) (fn : Nat) : List Byte := imageOf s fn (imageRecords s fn)

/-- The record of the cohort that holds a section's quadrant, with its convergence registers, open rounds and MX queue
(R269), below the header of a state image; nothing if none holds it. -/
def holderImage (s : State) (sect : Nat) : List Byte :=
  match (s.sect sect).holder.bind (fun c => (look c s.cohorts).map (c, ·)) with
  | some (c, h) => imageOf s h.fn [cohortRecord s c h, imageRecord 0 0 []]
  | none => []

/-! ### Stop records (R339, R340) -/

/-- The header of a stop record: unit kind and number, stop-area index. -/
def stopHeader (s : State) (fn kind unit index : Nat) : List Byte :=
  let (code, by1) := match (s.ctx fn).halt with
    | some h => (h.code, h.unit)
    | none => (0, 0xFFFF)
  toBytes 2 kind ++ toBytes 2 unit ++ toBytes 4 (code % 256 + by1 % 2 ^ 16 * 2 ^ 16)
    ++ toBytes 4 (Config.skid index (s.ctx fn).pcycle).toNat ++ toBytes 4 (s.ctx fn).epoch.toNat

/-- The record of a unit that raised a fault carries the fault's own bytes at 0x40 (R371). -/
def withNote (s : State) (fn index : Nat) (l : List Byte) : List Byte :=
  match (s.ctx fn).halt with
  | some h => if h.unit = index then patch 0x40 h.note (padTo 128 l) else padTo 128 l
  | none => padTo 128 l

/-- The commands of a core's Copy Engine channel, those that have begun before the others
(in part DEDUCED, log 60). -/
def channelCmds (s : State) (core ch : Nat) : List Cmd :=
  let (a, b) := ((s.wgs.filter (fun p => p.2.core = core)).flatMap (fun p =>
    if ch = 0 then p.2.cp0 else p.2.cp1)).partition (·.begun)
  a ++ b

/-- Loads and atomics of a core whose values a halt discards: those on their way, and those that have come back
since (R338, R340). -/
def discardedLoads (s : State) (fn c : Nat) : Nat :=
  (s.ops.filter (fun o => o.core = c && o.cls = 1)).length
    + ((((s.ctx fn).halt.map (·.dropped)).getD []).filter (· = c)).length

/-- The stop records of a core and its two channels. -/
def coreStops (s : State) (fn c : Nat) : List (Nat × List Byte) :=
  let n := s.coreNo fn c
  let core := stopHeader s fn 1 n n
    ++ toBytes 4 (maskOf ((s.wgs.filter (fun p => p.2.core = c)).map (fun p => p.1 % 32)))
    ++ toBytes 8 (maskOf ((s.threads.filter (fun p => coreOf p.1 = c)).map (fun p => wposOf p.1)))
    ++ toBytes 4 (discardedLoads s fn c)
    ++ (s.core c).lastPc.flatMap (fun x => toBytes 8 x.toNat)
  let channel (ch : Nat) : Nat × List Byte :=
    let i := 384 + 2 * n + ch
    let l := channelCmds s c ch
    let body := match l with
      | [] => []
      | x :: _ =>
        let w := if x.op != 0x282 then 0
          else ((look x.wg s.wgs).map (fun w : Workgroup => nth 0 (x.dst % 8) w.wptr)).getD 0
        let a := if x.op = 0x282 then wrapNat 64 ((x.va.toNat : Int) + sextInt 64 x.ext1.toNat) else 0
        toBytes 8 a ++ toBytes 8 x.progress ++ toBytes 8 w.toNat ++ toBytes 4 (l.length - 1)
    (i, stopHeader s fn 3 (2 * n + ch) i ++ body)
  [(n, core), channel 0, channel 1]

/-- How far a matrix command has come: read offset, write offset, and F1 to F16, the rows of the bank that have
accumulated so many K blocks (R340). It has read what `data` holds, or the pieces that `reach` counts
(in part DEDUCED, log 60). -/
def matrixReach (x : Cmd) : Nat × Nat × List Nat :=
  let p := x.vb.toNat
  let all := x.reach.sum
  let none := List.replicate 16 0
  if x.op = 0x288 then (max x.data.length (4 * all), 0, none)
  else if x.op = 0x289 then (max x.data.length (pieceSize (loadArgs p) * all), 0, none)
  else if x.op = 0x28B then
    (max x.data.length (32 * elemSize (mulArgs x).code * all), 0,
      (upto 16).map (fun j => (x.reach.filter (fun n => decide (j < n))).length))
  else if x.op = 0x28C then (0, drainSize (bits p 17 15) * all, none)
  else (0, 0, none)

/-- The stop records of a section's Matrix Engine and Step Sequencer (in part DEDUCED, log 60). -/
def sectStops (s : State) (fn i : Nat) : List (Nat × List Byte) :=
  let n := s.sectNo fn i
  let c := (s.sect i).holder.bind (fun c => look c s.cohorts)
  let mx := match (c.map (·.mx)).getD [] with
    | x :: _ =>
      let (read, write, rows) := matrixReach x
      toBytes 8 x.va.toNat ++ toBytes 8 x.vb.toNat ++ toBytes 4 x.vc.toNat
          ++ toBytes 4 (wrapNat 32 (sextInt 16 (x.vc.toNat / 2 ^ 32))) ++ toBytes 4 x.vd.toNat
          ++ toBytes 4 (x.vd.toNat / 2 ^ 32) ++ toBytes 2 x.op
          ++ toBytes 2 (x.dst / 16 + x.fuse * 16 + bits x.mod.toNat 10 6 * 64)
          ++ toBytes 4 read ++ toBytes 4 write
          ++ rows.flatMap (toBytes 1)
    | [] => []
  let sq := match (c.map (·.sq)).getD [] with
    | x :: _ =>
      toBytes 2 (x.mod.toNat % 4) ++ toBytes 2 x.op ++ toBytes 4 x.progress
        ++ toBytes 4 ((nth none (x.mod.toNat % 4) (s.sect i).slots).map (·.steps.toNat) |>.getD 0)
    | [] => []
  [(256 + n, stopHeader s fn 2 n (256 + n) ++ mx), (320 + n, stopHeader s fn 4 n (320 + n) ++ sq)]

/-- The stop records of a die's Task Queue Controller and Network Engine. The controller serves a command that has begun
and is not done (in part DEDUCED, log 60). -/
def dieStops (s : State) (fn d : Nat) : List (Nat × List Byte) :=
  let heads (f : Workgroup → List Cmd) : List Cmd :=
    (s.wgs.filter (fun p => p.2.fn = fn && dieOf p.2.core = d)).filterMap (fun p => (f p.2).head?)
  let tk := match (heads (·.tk)).find? (fun x => x.begun && x.done.isNone) with
    | some x => toBytes 4 (x.vb.toNat % 256)
        ++ toBytes 4 (if x.op = 0x298 then 1 else if x.op = 0x299 then 2 else if x.op = 0x29A then 3 else 0)
    | none => []
  let ne := match (heads (·.ne)).head? with
    | some x => toBytes 8 (netLocal x) ++ toBytes 8 (if x.op = 0x310 then x.data.length else x.progress)
    | none => []
  [(896 + d, stopHeader s fn 5 d (896 + d) ++ tk), (898 + d, stopHeader s fn 6 d (898 + d) ++ ne)]

/-- Write the stop records of a partition's units into the context's stop area. -/
def writeStops (fn : Nat) (s : State) : State :=
  let dies := distinct ((partCores s fn).map dieOf)
  let l := (partCores s fn).flatMap (coreStops s fn) ++ (partSections s fn).flatMap (sectStops s fn)
    ++ dies.flatMap (dieStops s fn)
  l.foldl (fun s p => areaWrite fn ((s.ctx fn).stopArea.toNat + 128 * p.1) (withNote s fn p.1 p.2) s) s

/-! ### Order logs (R367, R368) -/

/-- The objects of a log, each once, in the order of their first entries. -/
def logObjects (l : List OrderEntry) : List (Nat × Nat × DWord) :=
  l.foldl (fun (acc : List (Nat × Nat × DWord)) e =>
    if acc.contains (e.kind, e.point, e.object) then acc else acc ++ [(e.kind, e.point, e.object)]) []

/-- The records of an epoch: an object that one agent only touched has none, but for kind 7. A status that is not known yet
has no entry until it is (in part DEDUCED, log 23). -/
def orderBytes (log : List OrderEntry) : List Byte :=
  let l := log.filter (fun e => !e.due)
  (logObjects l).flatMap (fun x =>
    let es := l.filter (ofObject x.1 x.2.1 x.2.2)
    if x.1 != 7 && (distinct (es.map (fun e => bits e.entry.toNat 63 48))).length < 2 then []
    else
      toBytes 8 x.2.2.toNat ++ toBytes 4 es.length ++ toBytes 2 x.1 ++ toBytes 2 x.2.1
        ++ es.flatMap (fun e => toBytes 8 e.entry.toNat))

/-- The log area of a context: AREA of RECCTL, as large as the undo area (in part DEDUCED, log 23). -/
def logArea (c : Context) : Nat := bits c.recctl.toNat 63 12 * 4096

/-- The record of a checksum in the log: as it stands in the ring, but for the cycle and core (R369)
(in part DEDUCED, log 23). -/
def csumRecord (c : Csum) : List Byte := toBytes 8 (256 + 3) ++ csumBytes c

/-- An epoch's order log and its checksums go to the half of the area that its number gives (DEDUCED, log 23). -/
def writeLog (fn : Nat) (s : State) : State :=
  let c := s.ctx fn
  if recMode s fn != 1 then s
  else areaWrite fn (logArea c + c.epoch.toNat % 2 * logRoom c)
    ((orderBytes c.orderLog ++ c.csums.flatMap csumRecord).take (logRoom c)) s

end Sys2Proof.Machine
end

