-- ==== Sys2Proof/Machine/Objects.lean ====
section
/-! DEFINITION. Objects that are read back from a retained checkpoint of a context (R425). -/

namespace Sys2Proof.Machine

def rbKind (v : DWord) : Nat := bits v.toNat 47 40
/-- (in part DEDUCED, log 25). -/
def rbIndex (v : DWord) : Nat := bits v.toNat 63 48

/-- The queue with a package-wide number (DEDUCED, log 25): queues count on from function to function by VFQMAX. -/
def queueNumbered : Tbl VF → Nat → Option Nat
  | [], _ => none
  | (fn, v) :: l, n =>
    if !v.ctl.getLsbD 0 then queueNumbered l n
    else if n < v.qmax.toNat then some (queueKey fn n)
    else queueNumbered l (n - v.qmax.toNat)

/-- What a task queue's object holds: indices, events, records. -/
def taskQueueBytes (v : Queue) : List Byte :=
  toBytes 4 v.consumer ++ toBytes 4 v.producer.toNat ++ toBytes 4 v.status ++ toBytes 4 v.index.toNat
    ++ toBytes 4 v.events.toNat ++ toBytes 4 v.prim.length ++ toBytes 4 v.overflow.length
    ++ v.prim.flatten ++ v.overflow.flatten

/-- The entries of an undo log (R345). -/
def undoBytes (s : State) (fn : Nat) (l : List Undo) : List Byte := l.flatMap (undoEntry s fn)

/-- A line of a running context's unit image as it was at a checkpoint: what the undo log keeps of it since, else what
the unit or the image holds (R346). -/
def lineAt (s : State) (fn : Nat) (i : Snapshot) (sect n : Nat) : List Byte :=
  match (s.ctx fn).undo.find? (fun u => u.place = .unit sect n && decide (i.epoch ≤ u.epoch)) with
  | some u => u.bytes
  | none =>
    if unitOurs s fn sect then unitLine (s.sect sect) n
    else if keepsUnit s fn sect then memRead s.mem (unitPa s fn sect n) 128
    else unitLine .reset n

/-- Lines of the unit image of a section that a context's checkpoint has. -/
def linesAt (s : State) (fn : Nat) (i : Snapshot) (sect first n : Nat) : Option (List Byte) :=
  (look sect i.sections).map (fun _ => (upto n).flatMap (fun m => lineAt s fn i sect (first + m)))

/-- The machine with what a checkpoint of a function holds of its threads, workgroups, cohorts and sections. -/
def atImage (s : State) (fn : Nat) (i : Snapshot) : State :=
  { s with
    threads := i.threads, wgs := i.wgs, cohorts := i.cohorts
    sections := i.sections.foldl (fun (t : Tbl Section) (p : Nat × Section) => put p.1 p.2 t) s.sections
    }.modCtx fn (fun c => { c with clock := i.clock, pcycle := i.pcycle, epoch := i.epoch })

/-- An object that is read from the retained checkpoint of a running context. -/
def imageObject (s : State) (fn : Nat) (v : DWord) : Option (List Byte) :=
  match (s.ctx fn).images with
  | [] => none
  | i :: old =>
    if rbKind v = 1 then (linesAt s fn i (rbIndex v) 0 5121).map (holderImage (atImage s fn i) (rbIndex v) ++ ·)
    else if rbKind v = 2 then linesAt s fn i (rbIndex v) 5121 15
    else if rbKind v = 3 then
      ((queueNumbered s.vfs (rbIndex v)).bind (fun k => look k i.queues)).bind (fun q =>
        if q.kind = 2 then some (Config.readbackForm 3 (taskQueueBytes q)) else none)
    else if rbKind v = 6 then some (undoBytes s fn ((s.ctx fn).undo.filter (fun u => decide (u.epoch < i.epoch))))
    else if rbKind v = 7 then some (orderBytes ((old.head?.map (·.log)).getD []))
    else none

/-- A read-back that waits for a checkpoint of a function has its object: as its latest retained checkpoint has it now
(R425). -/
def chooseObject (fn : Nat) (s : State) : State :=
  match s.rbPending with
  | some r =>
    if r.owner = some fn then { s with rbPending := some { r with owner := none, bytes := imageObject s fn r.cmd } } else s
  | none => s

end Sys2Proof.Machine
end

