-- ==== Sys2Proof/Machine/Checkpoint.lean ====
section
/-! DEFINITION. Checkpoints, rollback, the world switch and the halt line (R338-R358, R387), recording and
replay (R367-R371), home-slice tag errors (R354). -/

namespace Sys2Proof.Machine

/-! ### Gathering (R343, R344) -/

/-- Whether the undo log has no room for one more entry. -/
def undoSpent (c : Context) : Bool := decide (undoRoom c ≤ c.undo.length)

/-- Whether the head of a cohort's MX queue is a command of a fusion that a request lets begin and no slot keeps from
it. -/
def willJoin (s : State) (fuse cohort : Nat) : Bool :=
  let q := QRef.mx cohort
  match (queueOf s q).head? with
  | none => false
  | some d => d.fused && d.fuse = fuse && d.done.isNone && d.fence.isNone && !guardHeld s q d && !discarded s q d
      && (d.begun || ckptLets s q d)

/-- Whether a head command of a fusion comes to its end before a checkpoint: its partners' heads join it, or none
are held and it ends. -/
def joinsNow (s : State) (q : QRef) (c : Cmd) : Bool :=
  match q with
  | .mx cohort =>
    let held := partnersHeld s cohort c.fuse
    let n := (partners (cohortSect s cohort) c.fuse).length
    (c.progress = 0 && decide (held.length < n))
      || (held.length = n && held.all (fun x => willJoin s c.fuse x.2))
  | _ => true

/-- Whether a queue's engine holds: its head is done and its completion queue full (R247), it waits for room in a log
(R347), or it has not begun and the request, a fence, a guard slot or a partner keeps it from beginning. A head that
waits for translation, for stores before it or for its unit comes to its end first (R287, R344)
(in part DEDUCED, log 36). -/
def engineHolds (s : State) (q : QRef) : Bool :=
  match queueOf s q with
  | [] => true
  | c :: _ =>
    if c.done.isSome then cqFull s q c
    else if c.begun then (c.why = 1 && c.parked.isNone) || logSpent s (queueFn s q)
    else logSpent s (queueFn s q) || !ckptLets s q c || c.fence.isSome || guardHeld s q c
      || (c.fused && !joinsNow s q c)

/-- Whether a requested checkpoint can form now: all threads are gathered, all engines hold, and no store
of an exited thread is on its way (in part DEDUCED, log 59). -/
def canForm (s : State) (fn : Nat) : Bool :=
  (s.ctx fn).ckpt.isSome && engineOn s fn
    && (s.threads.filter (fun p => p.2.fn = fn)).all (fun p => gathered s p.1 p.2)
    && (queuesOfFn s fn).all (engineHolds s) && !leftStores s fn

/-! ### A log that may not be written (R345) -/

/-- The units whose writes the undo log keeps waiting: cores with threads that wait for it, with stores of theirs held
at the pool port or values that cannot land, engines with heads that wait for it, quadrants whose tenure waits. -/
def undoWriters (s : State) (fn : Nat) : List Nat :=
  (s.threads.filter (fun p => p.2.fn = fn
      && (p.2.stall.map (fun x => (x.reason, x.state))) = some (15, 13))).map (fun p => s.coreNo fn (coreOf p.1))
    ++ (queuesOfFn s fn).filterMap (fun q =>
      if ((queueOf s q).head?.map (fun c => c.why = 1 && c.done.isNone)).getD false then some (agentOf s q) else none)
    ++ s.ops.filterMap (fun o =>
      if o.fn = fn && ((o.stage = .claimed && claimFree s o && padFull s o.fn o.wg o.addr)
          || (o.stage = .performed && !landRoom s o)) then some (s.coreNo fn o.core) else none)
    ++ (partSections s fn).filterMap (fun i => (tenureQueue s i).head?.bind (fun c =>
      if tenureOver s i && cohortFn s c = fn && !tenureRoom s i c then some (256 + s.sectNo fn i) else none))

/-- A write of an entry that the hypervisor stage does not let the log make is UNDO_FAIL, raised by the unit whose
write waits for it (R339, R345) (in part DEDUCED, log 19). -/
def failLogs (fn : Nat) (s : State) : State :=
  let c := s.ctx fn
  if logSound s fn || logSpent s fn then s
  else
    match undoWriters s fn with
    | u :: _ => raiseHalt fn fUndoFail u [] s
    | [] => if c.posted < c.logged then raiseHalt fn fUndoFail 0xFFFF [] s else s

/-! ### Errors (R422) -/

/-- A unit's health record. -/
def State.unitHealth (s : State) (u : Nat) : Health := (look u s.health).getD ⟨0, 0, 0, 0⟩
def State.setHealth (s : State) (u : Nat) (v : Health) : State := { s with health := put u v s.health }

/-- An error is counted against its unit; an uncorrectable one, or 16 corrected ones within a second, make
it SUSPECT unless it is under test or retired already. -/
def countError (u : Nat) (corrected : Bool) (s : State) : State :=
  let h := s.unitHealth u
  let h := if corrected then { h with corrected := h.corrected + 1 } else { h with errors := h.errors + 1 }
  let bad := !corrected || (decide (16 ≤ h.corrected) && Config.withinSecond u h.corrected)
  s.setHealth u (if bad && h.state = 0 then { h with state := 1 } else h)

/-! ### Requests (R342, R347) -/

/-- The functions of a function's partition. -/
def tenants (s : State) (fn : Nat) : List Nat :=
  (s.vfs.filter (fun p => p.2.ctl.getLsbD 0 && p.2.sect = (s.vf fn).sect)).map (·.1)

/-- Whether a context runs: it is on its partition and has not halted (R338, R391). -/
def onPartition (s : State) (fn : Nat) : Bool :=
  (s.ctx fn).running && !(((s.ctx fn).halt.map (·.done)).getD false)

/-- Whether the periodic interval of a context has run out. -/
def ckptDue (s : State) (fn : Nat) : Bool :=
  let c := s.ctx fn
  engineOn s fn && !asksCkpt s fn 1 && c.ckptint != 0
    && decide (max c.formedAt c.lapsedAt + c.ckptint.toNat ≤ c.pcycle)

/-- CHECKPOINT_REQUEST (R342). -/
def execCheckpointRequest (fn : Nat) (s : State) : Out1 :=
  .next (if ckptDue s fn then requestCkpt fn 1 s else s)

/-- Whether less than a quarter of the undo area, or while recording of the order-log area, is free. -/
def undoLow (s : State) (fn : Nat) : Bool :=
  let c := s.ctx fn
  decide (4 * (undoRoom c - c.undo.length) < undoRoom c)
    || (recMode s fn = 1 && decide (4 * (logRoom c - logBytes c) < logRoom c))

/-- FORCED_CHECKPOINT (R347). -/
def execForcedCheckpoint (fn : Nat) (s : State) : Out1 :=
  .next (if engineOn s fn && !asksCkpt s fn 2 && undoLow s fn then requestCkpt fn 2 s else s)

/-! ### Adaptive loops (R423, R424) -/

/-- The setpoint and value of a loop register that nothing has written. -/
def loopDefault (off : Nat) : Nat :=
  if off < 0x1200 then 850 else if off < 0x1C00 then 0 else if off < 0x2400 then 0x00100000 else 0x00004000

/-- The loop register at an offset. -/
def State.loop (s : State) (off : Nat) : AdaptLoop :=
  (look off s.loops).getD ⟨BitVec.ofNat 32 (loopDefault off), BitVec.ofNat 31 (loopDefault off), true⟩
def State.setLoop (s : State) (off : Nat) (v : AdaptLoop) : State := { s with loops := put off v s.loops }

/-- The loop register of a section's clock. -/
def clockLoop (sect : Nat) : Nat := 0x1000 + 8 * sect

/-- A partition's sections run at the lowest of their setpoints from a checkpoint formed on: where all their loops act,
and never in the middle of another tenant's epoch (R423, R424) (in part DEDUCED, log 67). -/
def trimClock (fn : Nat) (s : State) : State :=
  let l := partSections s fn
  let mhz := l.foldl (fun m i => min m (s.loop (clockLoop i)).set.toNat) (2 ^ 31)
  if l.any (fun i => !(s.loop (clockLoop i)).en) || (tenants s fn).any (fun f => f != fn && (s.ctx f).running) then s
  else l.foldl (fun s i => s.setLoop (clockLoop i) { s.loop (clockLoop i) with cur := BitVec.ofNat 32 mhz }) s

/-- Whether a section belongs to a partition. -/
def inPartition (s : State) (sect : Nat) : Bool :=
  s.vfs.any (fun p => p.2.ctl.getLsbD 0 && p.2.sect.getLsbD sect)

/-- Sections outside every partition run at their own setpoints, where their loops act (R423, R424). -/
def freeClocks (s : State) : State :=
  (upto Config.sections).foldl (fun s i =>
    let v := s.loop (clockLoop i)
    if inPartition s i || !v.en || v.cur = v.set.setWidth 32 then s
    else s.setLoop (clockLoop i) { v with cur := v.set.setWidth 32 }) s

/-! ### Formation (R344, R345, R349) -/

/-- What a state image holds of a section: the tenure, the convergence registers and SQPAT. Its bulk state stays in the
unit; the slots are kept for the names of their queues (R344, R346). -/
def smallState (v : Section) : Section :=
  { Section.reset with
    holder := v.holder, tenureAt := v.tenureAt, creg := v.creg, sqpat := v.sqpat, slots := v.slots }

/-- The state of a context as a checkpoint keeps it (in part DEDUCED, log 13, DEDUCED, log 19). -/
def snapshot (s : State) (fn : Nat) : Snapshot :=
  let c := s.ctx fn
  { epoch := c.epoch, pcycle := c.pcycle, clock := c.clock, htbase := c.htbase, ckptint := c.ckptint
    recctl := c.recctl, tracectl := c.tracectl, tracestat := c.tracestat, frameBase := c.frameBase
    frameStride := c.frameStride, tst := c.tst, hst := c.hst
    threads := s.threads.filter (fun p => p.2.fn = fn), wgs := s.wgs.filter (fun p => p.2.fn = fn)
    cohorts := s.cohorts.filter (fun p => p.2.fn = fn)
    launches := s.launches.filter (fun p => p.2.fn = fn), queues := s.queues.filter (fun p => p.2.fn = fn)
    cores := (partCores s fn).map (fun i =>
      let v := s.core i
      (i, (v.waitList, v.barstall, v.poolwait, v.poolcfg, v.dbgbp)))
    sections := (partSections s fn).map (fun i => (i, smallState (s.sect i))), replay := c.replay, log := [], csums := []
    bytes := stateImage s fn }

/-- The size of half a save area: images are written alternately. -/
def imageAt (c : Context) : Nat := c.save.toNat + c.epoch.toNat % 2 * (c.saveSize.toNat / 2)

/-- The heads that waited for room in the undo log try again once a checkpoint has freed it (R345, R347). -/
def freeHeads (fn : Nat) (s : State) : State :=
  (queuesOfFn s fn).foldl (fun s q => modHead q (fun c => if c.why = 1 then { c with why := 0 } else c) s) s

/-- A checkpoint forms: CKPT.w ends with true, operand caches are written back and transient
windows end (R20), records go back to their rings (R266), the epoch closes and its log is written, the count rises, the image is written, the undo log keeps the epoch of the older image. -/
def formCkpt (fn : Nat) (s : State) : State :=
  let s := endCkptWaits fn true s
  let s := (s.threads.filter (fun p => p.2.fn = fn)).foldl (fun s p =>
    accountFrames p.1 p.2 (s.modThread p.1 (fun t => endTrans (ocSync t)))) s
  let s := writeLog fn (writeRings fn s)
  let old := s.ctx fn
  let s := (freeHeads fn s).modCtx fn (fun c => { c with
    epoch := c.epoch + 1, ckpt := none, formedAt := c.pcycle, rolledBack := false
    undo := c.undo.filter (fun u => u.epoch = c.epoch), orderLog := carryDue c.orderLog, csums := [] })
  let snap := snapshot s fn
  let s := trimClock fn (areaWrite fn (imageAt (s.ctx fn)) snap.bytes s)
  s.modCtx fn (fun c => { c with
    images := snap :: (c.images.take 1).map (fun i => { i with log := old.orderLog, csums := old.csums }) })

/-! ### Taking a context off its partition, and back (R352, R353, R383, R387) -/

/-- Of some frame units of a function, those that stand in each of some frame granules of a core: its units fill them
from a first on. -/
def unitsIn (l : Tbl Residue) (held : List Nat) : List Nat → Nat → Tbl (List Nat)
  | [], _ => []
  | g :: gs, first =>
    let n := unitRoom l g
    let here := held.filter (fun u => decide (first ≤ u) && decide (u < first + n))
    if here.isEmpty then unitsIn l held gs (first + n) else put g here (unitsIn l held gs (first + n))

/-- The frame units that hold lines of some threads, whose units are counted on from a first. -/
def unitsHeld : Nat → Tbl Thread → List Nat
  | _, [] => []
  | base, (_, t) :: l =>
    distinct (t.lines.flatMap (fun p => (lineUnits t p.1).map (base + ·))) ++ unitsHeld (base + unitsOf t.fsize) l

/-- What of a core's pool holds lines of a function that runs: granules of its scratchpads and windows, and frame
units. -/
def chargeOf (s : State) (fn core : Nat) : Residue :=
  { pads := (s.wgs.filter (fun p => p.2.fn = fn && p.2.core = core)).flatMap (fun p =>
      p.2.padGrans.filter (fun g => !p.2.cold.contains g) ++ p.2.winGrans)
    units := unitsIn (s.core core).residue (unitsHeld 0 (s.threads.filter (fun p => p.2.fn = fn && coreOf p.1 = core)))
      (s.core core).frameGrans 0 }

/-- Whether a thread is a function's. -/
def isOf (s : State) (fn k : Nat) : Bool := (look k s.threads).map (·.fn) = some fn

/-- A function's threads, workgroups, cohorts and operations leave the machine. -/
def evict (fn : Nat) (s : State) : State :=
  let s' : State := { s with
    threads := s.threads.filter (fun p => p.2.fn != fn), wgs := s.wgs.filter (fun p => p.2.fn != fn)
    cohorts := s.cohorts.filter (fun p => p.2.fn != fn), ops := s.ops.filter (fun o => o.fn != fn)
    net := s.net.filter (fun p => (look p.2.wg s.wgs).map (·.fn) != some fn)
    noticed := s.noticed.filter (fun p => !isOf s fn p.1)
    cores := s.cores.map (fun p => (p.1, { p.2 with
      bundles := (p.2.bundles.map (List.filter (fun k => !isOf s fn k))).filter (fun l => !l.isEmpty)
      waitList := p.2.waitList.filter (fun r => !isOf s fn r.thread) }))
    dies := s.dies.map (fun p => (p.1, { p.2 with
      retry := p.2.retry.map (fun q => (q.1, q.2.filter (fun k => !isOf s fn k))) })) }
  (partCores s fn).foldl (fun s i => settlePool i s) s'

/-- What a context's allocation leaves behind on its cores is residue. -/
def leaveResidue (fn : Nat) (s : State) : State :=
  (partCores s fn).foldl (fun s i =>
    let n := chargeOf s fn i
    if n.pads.isEmpty && n.units.isEmpty then s else s.modCore i (fun c => { c with residue := put fn n c.residue })) s

/-- Drain residue at once while what is charged to the context that runs does not fit above the L1's floor beside
it; no granule goes to anybody before it does (R387). -/
def drainTo (core : Nat) : Nat → State → State
  | 0, s => s
  | fuel + 1, s =>
    if allocatedG s core ≤ Config.growMax || (s.core core).residue.isEmpty then s else drainTo core fuel (drainLowest core s)

/-- A core takes an incoming context's charge: its own residue is its charge again, others' residue drains where
the charge needs it. -/
def takeCharge (core : Nat) (s : State) : State := settlePool core (drainTo core (2 * Config.granules) s)

/-- A context that is switched in finds no residue of its own, and the drain of others' counts from now. -/
def enterCores (fn : Nat) (s : State) : State :=
  (partCores s fn).foldl (fun s i => s.modCore i (fun c => { c with
    residue := drop fn c.residue, drainAt := (s.ctx fn).pcycle + Config.drainPeriod })) s

/-- The granules of a context's scratchpads and windows that are still its own when it is switched in: residue lists
them. -/
def stillHeld (s : State) (w : Workgroup) : Workgroup :=
  let own := ((look w.fn (s.core w.core).residue).map (·.pads)).getD []
  { w with padGrans := w.padGrans.filter (fun g => own.contains g), winGrans := w.winGrans.filter (fun g => own.contains g) }

/-- A thread as a restore resumes it: a translation fault is raised again, and what counts partition
cycles goes on with what was left (R353, R356). -/
def resumeThread (later : Nat) (t : Thread) : Thread :=
  let t := { t with pauseTill := t.pauseTill.map (· + later), polled := false, fills := [] }
  match t.wait with
  | some (.parked _ _) | some (.listed _ _ _ _ _) => { t with wait := none }
  | some (.idle till) => { t with wait := some (.idle (till + later)) }
  | _ => t

/-- A queued command as a restore resumes it. -/
def resumeCmd (c : Cmd) : Cmd := { c with parked := none, why := 0 }

/-- A section takes the small state of an image; its bulk state is the unit's (R346, R353). -/
def restoreSmall (old new : Section) : Section :=
  { old with holder := new.holder, tenureAt := new.tenureAt, creg := new.creg, sqpat := new.sqpat }

/-- The registers of a context as an image has them (R383). PCYCLE and TRACESTAT.DROPPED stay, and RECCTL where a
replay begins (in part DEDUCED, log 13). -/
def restoreRegs (i : Snapshot) (c : Context) : Context :=
  { c with
    clock := i.clock, htbase := i.htbase, ckptint := i.ckptint, tracectl := i.tracectl
    frameBase := i.frameBase, frameStride := i.frameStride, tst := i.tst, hst := i.hst
    recctl := if c.replayStart then c.recctl else i.recctl
    replay := if c.replayStart then c.replay else i.replay, replayStart := false
    tracestat := (i.tracestat &&& 0xFFFFFFFF80000000) ||| (c.tracestat &&& 0x7FFFFFFF) }

/-- Task queues whose event counters have risen since an image was written (R404). -/
def risenQueues (s : State) (fn : Nat) (i : Snapshot) : List Nat :=
  (s.queues.filter (fun p => p.2.fn = fn && (look p.1 i.queues).map (·.events) != some p.2.events)).map (·.1)

/-- A replay begins: commands that an image holds have the statuses of the entries that were carried into its log. -/
def takeFates (fn : Nat) (l : List Cmd) (s : State) : List Cmd × State :=
  l.foldl (fun (r : List Cmd × State) c =>
    let k := c.pusher % 2 ^ 40
    if (c.op = 0x298 || c.op = 0x29A) && c.done.isNone
        && (nextEntry r.2 fn 7 0 (threadObject r.2 fn k)).any (·.carried) then
      (r.1 ++ [{ c with fate := fateOf r.2 k fn }], noteDue k fn r.2)
    else (r.1 ++ [c], r.2)) ([], s)
def giveFates (fn : Nat) (s : State) : State :=
  ((s.wgs.filter (fun p => p.2.fn = fn)).map (·.1)).foldl (fun s g =>
    let (l, s) := takeFates fn (queueOf s (.tk g)) s
    modQueueOf (.tk g) (fun _ => l) s) s

/-- The granules of a scratchpad that a restore gives hold no line of it yet; those that it still has do. -/
def coldGrans (fn : Nat) (was s : State) : State :=
  { s with wgs := s.wgs.map (fun p =>
      let own := ((look p.1 was.wgs).map (·.padGrans)).getD []
      if p.2.fn = fn then (p.1, { p.2 with cold := p.2.padGrans.filter (fun g => !own.contains g || p.2.cold.contains g) })
      else p) }

/-- The cores of a context's partition take its charge at a restore (R387). -/
def takeCharges (fn : Nat) (s : State) : State :=
  coldGrans fn s ((partCores s fn).foldl (fun s c => takeCharge c s) s)

/-- The recorded operand-cache entries of a context's threads are refilled from the context image, as OCFIL does (R18,
R387). -/
def refillCaches (fn : Nat) (s : State) : State :=
  (s.threads.filter (fun p => p.2.fn = fn)).foldl (fun s p =>
    fillChecked p.1 p.2 (distinct (p.2.oc.map (fun e => e.reg / 32))) s) s

/-- Install an image: registers, threads, workgroups, cohorts, cores, sections (R353, R383); the threads that a
counter has woken meanwhile wake (in part DEDUCED, log 13). -/
def install (fn : Nat) (i : Snapshot) (s : State) : State :=
  let later := (s.ctx fn).pcycle - i.pcycle
  let replays := (s.ctx fn).replayStart
  let s := s.modCtx fn (restoreRegs i)
  let g : List Cmd → List Cmd := List.map resumeCmd
  let s : State := { s with
    threads := i.threads.foldl (fun (t : Tbl Thread) (p : Nat × Thread) => put p.1 (resumeThread later p.2) t) s.threads
    wgs := i.wgs.foldl (fun (t : Tbl Workgroup) (p : Nat × Workgroup) => put p.1 { p.2 with
      cp0 := g p.2.cp0, cp1 := g p.2.cp1, tk := g p.2.tk, ne := g p.2.ne } t) s.wgs
    cohorts := i.cohorts.foldl (fun (t : Tbl Cohort) (p : Nat × Cohort) => put p.1 { p.2 with
      mx := g p.2.mx, sq := g p.2.sq } t) s.cohorts
    sections := i.sections.foldl (fun (t : Tbl Section) (p : Nat × Section) =>
      put p.1 (restoreSmall (s.sect p.1) p.2) t) s.sections }
  let s := { s with cores := i.cores.foldl (fun (t : Tbl Core) (p : Nat × List PoolReq × Word × Word × Word × DWord) =>
    let (l, barstall, poolwait, poolcfg, dbgbp) := p.2
    put p.1 { s.core p.1 with
      waitList := l, barstall := barstall, poolwait := poolwait, poolcfg := poolcfg, dbgbp := dbgbp
      bundles := [], slotNext := 0, regroupAt := none, issuedNow := [] } t) s.cores }
  let s := if replays then giveFates fn s else s
  let s := (risenQueues s fn i).foldl (fun s q => wakeQueue q s) (readRings fn s)
  refillCaches fn (takeCharges fn s)

/-- Whether an image in the save area is sound: no line of it is another owner's, and it holds what the Checkpoint
Unit wrote (R353, R402) (in part DEDUCED, log 13). -/
def imageSound (s : State) (fn : Nat) (i : Snapshot) : Bool :=
  let a := imageAt { s.ctx fn with epoch := i.epoch }
  (touched a i.bytes.length).all (fun n => !foreign s (s.ctx fn).cidb (128 * n)) && memRead s.mem a i.bytes.length = i.bytes

/-- VFSLICE of a function (R391). -/
def sliceOfVf (s : State) (fn : Nat) : Nat :=
  if (s.vf fn).slice = 0 then 170000 else (s.vf fn).slice.toNat

/-- Whether a function has something to run: an unconsumed record, or a resident workgroup (R403). -/
def hasWork (s : State) (fn : Nat) : Bool :=
  s.queues.any (fun p => p.2.fn = fn && (BitVec.ofNat 32 p.2.consumer != p.2.producer || !p.2.prim.isEmpty || !p.2.overflow.isEmpty))
    || s.launches.any (fun p => p.2.fn = fn)
    || (((s.ctx fn).images.head?.map (fun i => !i.wgs.isEmpty)).getD false)

/-- The sections of a health unit (R410's numbers; DEDUCED, log 24): a core's or engine's own, or its die's. -/
def unitSections (u : Nat) : List Nat :=
  if u < 256 then [u / 4]
  else if u < 320 then [u - 256]
  else if u < 384 then [u - 320]
  else if u < 896 then [(u - 384) / 8]
  else if 896 ≤ u && u < 902 then (upto 32).map (u % 2 * 32 + ·)
  else []

/-- The health unit of a channel, and the channels of a unit (DEDUCED, log 24). -/
def channelUnit (j : Nat) : Nat := 0x1000 + j
def unitChannels (u : Nat) : List Nat := if 0x1000 ≤ u && u < 0x1100 then [u - 0x1000] else []

/-- Channels as a function names them. -/
def channelsOf (v : VF) : List Nat := (upto 256).filter (fun j => (nth 0 (j / 64) v.chan).getLsbD (j % 64))

/-- Whether a function names a unit. -/
def namesUnit (v : VF) (u : Nat) : Bool :=
  (unitSections u).any (fun i => v.sect.getLsbD i) || (unitChannels u).any (fun j => (channelsOf v).contains j)

/-- Whether a running context of a function uses a unit: one that the function names, and each port, Bluord lane and
home slice, which no function names and every context shares (DEDUCED, log 24). -/
def usesUnit (v : VF) (u : Nat) : Bool := namesUnit v u || decide (0x2000 ≤ u)

/-- Whether a function uses a unit whose test is due or under way: the Foreman does not switch it in (R422). -/
def underTest (s : State) (fn : Nat) : Bool :=
  s.health.any (fun p => (p.2.state = 1 || p.2.state = 2) && usesUnit (s.vf fn) p.1)

/-- Whether a function waits for its turn: started, not running, neither halted nor corrupt, none of its units
under test. One that has a context fault pending is to be reported, not resumed (R403). -/
def ready (s : State) (fn : Nat) : Bool :=
  !underTest s fn && (s.ctx fn).halt.isNone &&
  (s.ctx fn).live && !(s.ctx fn).running && ((s.vf fn).state = 1 || (s.vf fn).state = 3)

/-- The function whose turn is next in a partition: the first READY one with work after the last to run, in
ascending order, or the only one (R403). -/
def nextFn (s : State) (fn : Nat) : Option Nat :=
  let l := tenants s fn
  let last := l.foldl (fun b f => if (s.ctx b).ran < (s.ctx f).ran then f else b) fn
  let order := if (s.ctx last).ran = 0 then l
    else l.filter (fun f => decide (last < f)) ++ l.filter (fun f => decide (f ≤ last))
  if l.length = 1 then l.find? (ready s) else order.find? (fun f => ready s f && hasWork s f)

/-- Whether another function of the partition waits for its turn. -/
def rival (s : State) (fn : Nat) : Bool := (tenants s fn).any (fun f => f != fn && ready s f && hasWork s f)

/-- The context leaves its partition; its latest checkpoint is what it comes back to (R352). -/
def switchOut (fn : Nat) (s : State) : State :=
  ((evict fn (leaveResidue fn s)).modCtx fn (fun c => { c with running := false, ckpt := none })).modVf fn
    (fun v => { v with state := if v.state = 2 then 3 else v.state })

/-! ### Scrubbing (R353) -/

/-- Drop what L1s, home slices and TLBs hold of a function; `code` says that code lines go too. -/
def dropLines (fn : Nat) (code : Bool) (s : State) : State :=
  { s with
    cores := s.cores.map (fun p => (p.1, { dropCode (fun f => !code || f != fn) p.2 with
      l1 := p.2.l1.filter (fun l => !ownsCid s fn l.cid), tlb := p.2.tlb.filter (fun e => e.fn != fn) }))
    sections := s.sections.map (fun p => (p.1, { p.2 with tlb2 := p.2.tlb2.filter (fun e => e.fn != fn) }))
    slices := s.slices.map (fun p => (p.1, { p.2 with
      lines := p.2.lines.filter (fun l => !ownsCid s fn l.2.cid) })) }

/-- A section without a scrubbed context: with nobody running there its small state is cleared, and the bulk state
if the unit holds the context's (R353). -/
def scrubSection (fn : Nat) (free : Bool) (v : Section) : Section :=
  let v := if free then restoreSmall v { Section.reset with sqpat := v.sqpat } else v
  if v.unitFn = some fn then withBulk .reset { v with unitFn := none } else v

/-- Scrub a context: nothing of it is left on its partition (R353). -/
def scrub (fn : Nat) (s : State) : State :=
  let free := !(s.vfs.any (fun p => p.1 != fn && p.2.sect = (s.vf fn).sect && (s.ctx p.1).running))
  let s := dropLines fn true (evict fn s)
  let s : State := { s with
    dies := s.dies.map (fun p => (p.1, { p.2 with pageReqs := p.2.pageReqs.filter (fun r => r.2.fn != fn) }))
    cores := s.cores.map (fun p => (p.1, { p.2 with residue := drop fn p.2.residue }))
    sections := s.sections.map (fun p =>
      (p.1, if (partSections s fn).contains p.1 then scrubSection fn free p.2 else p.2)) }
  let s := (partCores s fn).foldl (fun s i => settlePool i s) s
  s.modCtx fn (fun c => { c with running := false, images := [], undo := [], ckpt := none, halt := none })

/-- Tear a context down (R338, R393, R397, R400): launches that have not ended complete with status 3, then
everything of it is scrubbed; records in its task queues go too (in part DEDUCED, log 66). -/
def tearDown (fn : Nat) (s : State) : State :=
  let gone := s.launches.filter (fun p => p.2.fn = fn)
  let s := gone.foldl (fun s p => completeLaunch p.2 3 s) s
  let s : State := { s with
    launches := s.launches.filter (fun p => p.2.fn != fn)
    queues := s.queues.map (fun p =>
      if p.2.fn = fn then (p.1, { p.2 with prim := [], overflow := [] }) else p) }
  ((scrub fn s).modCtx fn (fun c => { c with live := false })).modVf fn (fun v => { v with state := 0 })

/-- Let a Foreman thread go: the first unmapped queue with a notify slot takes it (R390). -/
def freeForeman (hw : Nat) (s : State) : State :=
  match s.queues.find? (fun p => p.2.mapped.isNone && p.2.notify != 0xFF) with
  | none => { s with foreman := drop hw s.foreman }
  | some p => { s.modQueue p.1 (fun q => { q with mapped := some hw }) with
      foreman := put hw ⟨p.1, true, false, true, none, p.2.notified, false⟩ s.foreman }

/-- A queue ceases, and the Foreman thread mapped to it is free. -/
def dropQueue (key : Nat) (s : State) : State :=
  let hw := (look key s.queues).bind (·.mapped)
  let s := { s with queues := drop key s.queues }
  match hw with
  | none => s
  | some hw => freeForeman hw s

/-- Inbound operations of a function that wait are refused. -/
def dropInbound (fn : Nat) (s : State) : State :=
  { s with
    inbound := s.inbound.filter (fun i => i.dest.fn != fn)
    out := s.out ++ (s.inbound.filter (fun i => i.dest.fn = fn)).map (fun _ => .inboundError fn) }

/-- Disable a function: its context is torn down and its queues cease (R393) (in part DEDUCED, log 66). -/
def disable (fn : Nat) (s : State) : State :=
  let s := dropInbound fn (tearDown fn s)
  let keys := (s.queues.filter (fun p => p.2.fn = fn)).map (·.1)
  let s : State := { s with queues := s.queues.map (fun p =>
    if p.2.fn = fn then (p.1, { p.2 with notify := 0xFF }) else p) }
  freeClocks ((keys.foldl (fun s k => dropQueue k s) s).modVf fn (fun v => { v with
    ctl := v.ctl &&& ~~~1, closing := false, state := 0, cstat := 0, notify := List.replicate 32 0 }))

/-- A function that was being disabled while it ran goes now that it does not. -/
def closeIfDue (fn : Nat) (s : State) : State :=
  if (s.vf fn).closing && !(s.ctx fn).running then disable fn s else s

/-! ### Rollback (R351) -/

/-- The sections whose quadrants a function's cohorts hold, with those cohorts. -/
def tenuresOf (s : State) (fn : Nat) : List Nat :=
  (partSections s fn).filterMap (fun i => (s.sect i).holder.bind (fun c =>
    if (look c s.cohorts).map (·.fn) = some fn then some c else none))

/-- The Copy Engine channels and the network queue of a workgroup stop at their next beat of 128 bytes (R338, R419). -/
def stopWg (wg : Nat) (s : State) : State :=
  stopNet wg (stopCopy (.cp1 wg) wg 128 (stopCopy (.cp0 wg) wg 128 s))

/-- The engines of a partition stop where the halt line finds their commands (R286, R338), and the stop records say
where (R339). -/
def stopUnits (fn : Nat) (s : State) : State :=
  let h := (s.ctx fn).halt
  let s := s.modCtx fn (fun c => { c with halt := none })
  let s := (tenuresOf s fn).foldl (fun s c => stopSequencer c (stopMatrix c s)) s
  let s := ((s.wgs.filter (fun p => p.2.fn = fn)).map (·.1)).foldl (fun s g => stopWg g s) s
  writeStops fn (s.modCtx fn (fun c => { c with halt := h }))

/-- Put a line back that an entry keeps: of device memory, frames among it; of a unit image, in the unit if it holds
the context's bulk state. Scratchpad lines come back with their workgroup (in part DEDUCED, log 19). -/
def applyEntry (fn : Nat) (i : Snapshot) (s : State) (u : Undo) : State :=
  match u.place with
  | .memory line => { s with mem := memWrite s.mem (line * 128) u.bytes, lineCid := put line (lineTag s u.cid) s.lineCid }
  | .unit sect line =>
    if unitOurs s fn sect then
      s.modSect sect (setUnitLine (((look sect i.sections).map (·.slots)).getD []) line u.bytes)
    else areaWrite fn (unitPa s fn sect line) u.bytes s
  | .pad _ _ => s

/-- Apply undo entries of an image's epoch and later, newest first. -/
def applyUndo (fn : Nat) (i : Snapshot) (s : State) : State :=
  ((s.ctx fn).undo.reverse.filter (fun u => decide (i.epoch ≤ u.epoch))).foldl (applyEntry fn i) s

/-- A queue after a rollback: its records as the image has them, its producer as the host wrote it
(in part DEDUCED, log 59). -/
def revertQueue (i : Snapshot) (key : Nat) (q : Queue) : Queue :=
  match look key i.queues with
  | some o => { o with
      producer := q.producer, mapped := q.mapped, notified := true, destroying := q.destroying }
  | none => { q with consumer := 0, prim := [], overflow := [], events := 0, status := 0, notified := true }

/-- An image whose lines the pool holds no more: frames and scratchpads come back by misses (R351, R353). -/
def coldImage (i : Snapshot) : Snapshot :=
  { i with
    threads := i.threads.map (fun p => (p.1, { p.2 with lines := [] }))
    wgs := i.wgs.map (fun p => (p.1, { p.2 with padGrans := [], winGrans := [], cold := [] })) }

/-- Dirty lines of a context's frames go back to their home slices. -/
def cleanAll (fn : Nat) (s : State) : State :=
  (s.threads.filter (fun p => p.2.fn = fn)).foldl (fun s p => cleanFrame p.1 s) s

/-- A restore met an image that is not sound: the context is CORRUPT and its partition scrubbed (R353). -/
def corrupt (fn code : Nat) (s : State) : State :=
  reportEvent fn 5 code (s.ctx fn).epoch.toNat 0 ((scrub fn s).modVf fn (fun v => { v with state := 5 }))

/-- The fault that a restore reports: a memory error, or a mismatch of the integrity check; none for a sound image. -/
def imageFault (s : State) (fn : Nat) (i : Snapshot) (sound : Bool) : Option Nat :=
  if !sound then some fMemUncorrectable else if !imageSound s fn i then some fIntegrityFail else none

/-- The Foreman threads of a function's queues run again: records that they consumed are theirs to consume
(in part DEDUCED, log 59). -/
def wakeForemen (fn : Nat) (s : State) : State :=
  { s with foreman := s.foreman.map (fun p =>
    if ((look p.2.queue s.queues).map (·.fn)) = some fn then (p.1, { p.2 with running := true }) else p) }

/-- The context returns to an image: memory, launches and queues, then threads and units if its partition
is its own to run on (R351). `sound` says that the save area reads without a memory error
(in part DEDUCED, log 19). -/
def returnTo (fn : Nat) (i : Snapshot) (older sound : Bool) (s : State) : State :=
  let s := applyUndo fn i (cleanAll fn s)
  let running := (s.ctx fn).running
  let i := coldImage i
  let s := dropLines fn false (evict fn s)
  let s : State := { s with
    dies := s.dies.map (fun p => (p.1, { p.2 with pageReqs := p.2.pageReqs.filter (fun r => r.2.fn != fn) }))
    cores := s.cores.map (fun p => (p.1, { p.2 with residue := drop fn p.2.residue }))
    launches := i.launches.foldl (fun (t : Tbl Launch) (p : Nat × Launch) => put p.1 p.2 t)
      (s.launches.filter (fun p => p.2.fn != fn))
    queues := s.queues.map (fun p => if p.2.fn = fn then (p.1, revertQueue i p.1 p.2) else p) }
  let s := (partCores s fn).foldl (fun s c => settlePool c s) (writeRings fn (wakeForemen fn s))
  let s := s.modCtx fn (fun c => { c with
    epoch := i.epoch, images := i :: c.images.drop (if older then 2 else 1)
    undo := c.undo.filter (fun u => decide (u.epoch < i.epoch))
    halt := none, ckpt := none, orderLog := reopenDue (if older then i.log else c.orderLog), csums := [], rolledBack := true })
  if !running then s.modVf fn (fun v => { v with state := 3 })
  else
    match imageFault s fn i sound with
    | some code => corrupt fn code s
    | none => (install fn i s).modVf fn (fun v => { v with state := 2 })

/-- Roll back to the latest checkpoint; the stop records are written unless a halt wrote them
(in part DEDUCED, log 61). -/
def rollBack (fn : Nat) (sound : Bool) (s : State) : State :=
  match (s.ctx fn).images with
  | [] => s
  | i :: _ =>
    let written := ((s.ctx fn).halt.map (·.done)).getD false
    returnTo fn i false sound (if written then s else stopUnits fn s)

/-- Whether a fault lets the context roll back (R337). -/
def rollbackOffered (s : State) (fn : Nat) : Bool :=
  match (s.ctx fn).halt with
  | none => true
  | some h => h.code != fPossibleDataLoss && h.code != fReplayDiverged && h.code != fUndoFail
      && h.code != fUnitRetired

/-- A partition changes hands: what other functions still have on its cores is residue, and a context that is switched
in finds none of its own there (R387). -/
def takePartition (fn : Nat) (s : State) : State :=
  enterCores fn (((tenants s fn).filter (· != fn)).foldl (fun s f => evict f (leaveResidue f s)) s)

/-- A halted context is given its partition back where that runs no other: its cores take it as at a switch-in (R351,
R387). Where a unit of it is under test it leaves its partition instead (R422). -/
def runHalted (fn : Nat) (s : State) : State :=
  let c := s.ctx fn
  if c.halt.isNone || (tenants s fn).any (fun f => f != fn && (s.ctx f).running) then s
  else if underTest s fn then s.modCtx fn (fun c => { c with running := false })
  else if c.running then s
  else (takePartition fn s).modCtx fn (fun c => { c with running := true, sliceFrom := c.pcycle })

/-- ROLLBACK (R351). -/
def execRollback (r : ImageUse) (s : State) : Out1 :=
  .next (if !(s.ctx r.fn).live || !rollbackOffered s r.fn then s else rollBack r.fn r.sound (runHalted r.fn s))

/-! ### The steps around formation -/

/-- CHECKPOINT_FORMATION (R344): then a slice that was to end ends, so too the first after a rollback (R356), a debug
stop halts (R358), and a function that was being disabled goes (R393). -/
def execCheckpointFormation (fn : Nat) (s : State) : Out1 :=
  match (s.ctx fn).ckpt with
  | none => .next s
  | some r =>
    if !canForm s fn then .next s
    else
      let late := (s.ctx fn).rolledBack && rival s fn
      let s := chooseObject fn (formCkpt fn s)
      if (look 5 r.why).isSome then .next (raiseHalt fn 0 0xFFFF [] s)
      else if (look 3 r.why).isSome || late then .next (closeIfDue fn (switchOut fn s))
      else .next s

/-- CKPT.w waits whose own request has lapsed read false (R348, R375). -/
def endLateWaits (fn : Nat) (s : State) : State :=
  let now := (s.ctx fn).pcycle
  { s with threads := s.threads.map (fun p =>
      match p.2.wait, p.2.pending with
      | some (.ckpt d), some i =>
        if p.2.fn = fn && decide (i.since + Config.ckptLapse ≤ now) then (p.1, goOn now (setPred d false p.2)) else p
      | _, _ => p) }

/-- The requests of some sources are let go of; the checkpoint, if no other asks for it. -/
def dropRequests (fn : Nat) (late : List Nat) (s : State) : State :=
  match (s.ctx fn).ckpt with
  | none => s
  | some r =>
    if r.why.all (fun p => late.contains p.1) then abandonCkpt fn s
    else s.modCtx fn (fun c => { c with
      ckpt := some { r with why := r.why.filter (fun p => !late.contains p.1) } })

/-- CHECKPOINT_LAPSE (R348): each source's request lapses by itself. A debug stop halts all the same (R358), a slice
that was to end rolls back, then ends (R352); a periodic request is made again after its interval
(in part DEDUCED, log 59). -/
def execCheckpointLapse (fn : Nat) (s : State) : Out1 :=
  match (s.ctx fn).ckpt with
  | none => .next s
  | some r =>
    let late := (r.why.filter (fun p => decide (p.2 + Config.ckptLapse ≤ (s.ctx fn).pcycle))).map (·.1)
    let s := (dropRequests fn late (endLateWaits fn s)).modCtx fn (fun c => { c with
      lapsedAt := if late.contains 1 then c.pcycle else c.lapsedAt })
    let s := if late.contains 3 || late.contains 6 then chooseObject fn s else s
    if late.contains 5 then .next (raiseHalt fn 0 0xFFFF [1] s)
    else if late.contains 3 then .next (closeIfDue fn (switchOut fn (rollBack fn true s)))
    else .next s

/-- Whether a thread stands at its core's breakpoint (R358). -/
def atBreakpoint (s : State) (k : Nat) (t : Thread) : Bool :=
  let b := (s.core (coreOf k)).dbgbp
  b.getLsbD 63 && bits b.toNat 58 53 = wposOf k && bits b.toNat 52 48 = laneOf k
    && b.toNat % 2 ^ 48 = t.spord.toNat && t.wait.isNone && atSafePoint s k t.fn t.pc.toNat

/-- DEBUG_BREAKPOINT (R358): the thread is gathered there once nothing of it is under way (in part DEDUCED, log 62). -/
def execDebugBreakpoint (core : Nat) (s : State) : Out1 :=
  match s.threads.find? (fun p => coreOf p.1 = core && atBreakpoint s p.1 p.2 && atRest p.2) with
  | none => .next s
  | some p =>
    if engineOn s p.2.fn then
      .next (requestCkpt p.2.fn 5 (s.modCore core (fun c => { c with dbgbp := c.dbgbp &&& ~~~(1#64 <<< 63) })))
    else .next s

/-- Whether a running context's slice is over (R403, R356) (in part DEDUCED, log 59). -/
def sliceOver (s : State) (fn : Nat) : Bool :=
  let c := s.ctx fn
  let n := if c.rolledBack then 16 * sliceOfVf s fn else sliceOfVf s fn
  engineOn s fn && rival s fn && decide (c.sliceFrom + n ≤ c.pcycle)

/-- SLICE_END (R352): the Foreman asks for a checkpoint; so too to switch a function out that is being
disabled (R393). -/
def execSliceEnd (fn : Nat) (s : State) : Out1 :=
  .next (if (sliceOver s fn || ((s.vf fn).closing && engineOn s fn)) && !asksCkpt s fn 3 then
    requestCkpt fn 3 s else s)

/-- RESTORE (R353): the function whose turn it is runs from its latest checkpoint. With an image that is
not sound it is CORRUPT, and its partition is scrubbed. `sound` says that no memory error was found. -/
def execRestore (fn : Nat) (sound : Bool) (s : State) : Out1 :=
  if (tenants s fn).any (fun f => (s.ctx f).running) || nextFn s fn != some fn then .next s
  else
    match (s.ctx fn).images with
    | [] => .next s
    | i :: _ =>
      let (n, s) := s.fresh
      match imageFault s fn i sound with
      | some code => .next (corrupt fn code s)
      | none =>
        let i := { i with wgs := i.wgs.map (fun p => (p.1, stillHeld s p.2)) }
        let s := (takePartition fn s).modCtx fn (fun c => { c with running := true, sliceFrom := c.pcycle, ran := n })
        .next ((install fn i s).modVf fn (fun v => { v with state := 2 }))

/-! ### The halt line (R338) -/

/-- The health unit that a stop-area index of a context names (R339, R410). -/
def faultUnit (s : State) (fn unit : Nat) : Option Nat :=
  if unit < 256 then (partCores s fn)[unit]?
  else if unit < 320 then ((partSections s fn)[unit - 256]?).map (256 + ·)
  else if unit < 384 then ((partSections s fn)[unit - 320]?).map (320 + ·)
  else if unit < 896 then ((partCores s fn)[(unit - 384) / 2]?).map (fun c => 384 + 2 * c + unit % 2)
  else if unit < 900 then some unit
  else none

/-- Whether a context fault is an error of the hardware: of parity, or of memory (R337). -/
def isHardware (code : Nat) : Bool :=
  code = fRegisterParity || code = fPoolParity || code = fMemUncorrectable || code = fEngineParity

/-- CONTEXT_FAULT (R338): a unit of a context detects a fault; an error of the hardware is counted (R422)
(in part DEDUCED, log 62). -/
def execContextFault (fn code unit : Nat) (s : State) : Out1 :=
  .next (if !(s.ctx fn).live then s
    else
      let s := if isHardware code then ((faultUnit s fn unit).map (fun u => countError u false s)).getD s else s
      raiseHalt fn code unit [] s)

/-- A partition has halted: the Foreman threads that named that for a queue of it are ready (R389). -/
def haltEvent (fn : Nat) (s : State) : State :=
  let of (q : Nat) : Bool := ((look q s.queues).map (fun v => decide (partitionOf s v.fn = partitionOf s fn))).getD false
  { s with foreman := s.foreman.map (fun p => if of p.2.queue && p.2.onHalt then (p.1, { p.2 with running := true }) else p) }

/-- PARTITION_HALTED (R338): the units have stopped; their records are written and the fault, or the debug
stop, is reported. A function of a shared partition leaves it to the others (R404). -/
def execPartitionHalted (fn : Nat) (s : State) : Out1 :=
  match (s.ctx fn).halt with
  | none => .next s
  | some h =>
    if h.done then .next s
    else
      let s := haltEvent fn (stopUnits fn s)
      let epoch := (s.ctx fn).epoch.toNat
      let s := if h.code = 0 then reportEvent fn 2 (h.note.headD 0).toNat epoch 0 s
        else reportEvent fn 1 h.code epoch 0 s
      let s := s.modVf fn (fun v => { v with state := 4, code := if h.code = 0 then v.code else h.code })
      .next (closeIfDue fn (s.modCtx fn (fun c => { c with
        halt := some { h with done := true }
        running := c.running && (tenants s fn).length ≤ 1 && !(s.vf fn).closing })))

/-! ### Home-slice tag errors (R354) -/

/-- The health unit of a home slice (DEDUCED, log 24). -/
def sliceUnit (slice : Nat) : Nat := 0x4000 + slice

/-- SLICE_TAG_ERROR (R354): `lines` are the lines of the set. What dirty lines held is lost: their bytes are
free values. The slice is scrubbed: the rest of its lines is written back, and its mask is cleared
(in part DEDUCED, log 22). -/
def execSliceTagError (slice set : Nat) (lines : List Nat) (s : State) : Out1 :=
  let v := s.slice slice
  let here := v.lines.filter (fun p => lines.contains p.1)
  let dirty := here.filter (fun p => p.2.dirty)
  let s := countError (sliceUnit slice) dirty.isEmpty (s.modSlice slice (fun v => { v with lines := [], alloc := [] }))
  if dirty.isEmpty then .next s
  else
    let s := dirty.foldl (fun s p => freeLine Config.lostByte p.1 s) s
    .next (v.alloc.foldl (fun s fn =>
      let s := reportEvent fn 6 fPossibleDataLoss (s.ctx fn).epoch.toNat (slice + set * 2 ^ 32) s
      if (s.ctx fn).running then raiseHalt fn fPossibleDataLoss 0xFFFF [] s else s) s)

/-! ### Recording and replay (R367, R370) -/

/-- RECORD_START (R367): from now on the logs hold this epoch's events. -/
def execRecordStart (fn : Nat) (area : DWord) (s : State) : Out1 :=
  .next (viaMgmt (fun s => s.modCtx fn (fun c => { c with
    recctl := (area &&& ~~~0xFFF) ||| 1, orderLog := [], csums := [], replay := none, replayStart := false })) s)

/-- Where a function's threads are, by ordinal: those that run, or that its latest checkpoint holds. -/
def endsOf (s : State) (fn : Nat) : Tbl (BitVec 48) :=
  let l := if (s.ctx fn).running then s.threads.filter (fun p => p.2.fn = fn)
    else ((s.ctx fn).images.head?.map (·.threads)).getD []
  l.map (fun p => (p.1, p.2.spord))

/-- A context replays from an image with the logs of what followed it, up to where its threads are now (R370). -/
def replayFrom (fn : Nat) (i : Snapshot) (older sound : Bool) (log : List OrderEntry) (sums : List Csum) (s : State) :
    State :=
  returnTo fn i older sound (s.modCtx fn (fun c => { c with
    recctl := (c.recctl &&& ~~~3) ||| 2, replay := some (log.filter (fun e => !e.due), sums), replayEnd := endsOf s fn, replayStart := true }))

/-- REPLAY_START (R370): the context returns to a retained checkpoint with the logs of what followed. -/
def execReplayStart (r : ImageUse) (older : Bool) (s : State) : Out1 :=
  .next (viaMgmt (fun s =>
    let c := s.ctx r.fn
    match c.images, older with
    | i :: _, false => replayFrom r.fn i false r.sound c.orderLog c.csums s
    | _ :: i :: _, true =>
      replayFrom r.fn i true r.sound (i.log ++ c.orderLog.filter (fun e => !e.carried)) (i.csums ++ c.csums) s
    | _, _ => s) s)

/-- Whether a thread of a replay stands before the safe point that the recording had not passed: it goes no further
(R370) (in part DEDUCED, log 23). -/
def atReplayEnd (s : State) (k : Nat) (t : Thread) : Bool :=
  recMode s t.fn = 2 && look k (s.ctx t.fn).replayEnd = some t.spord && atSafePoint s k t.fn t.pc.toNat

/-- Whether a replay has come to the end of the recorded epochs: the logs are used up, the threads are those of the
recording's end, and each stands at its last ordinal (in part DEDUCED, log 23). -/
def replayOver (s : State) (fn : Nat) : Bool :=
  let c := s.ctx fn
  let l := s.threads.filter (fun p => p.2.fn = fn)
  recMode s fn = 2 && (match c.replay with
    | some ([], []) => true
    | _ => false)
    && c.replayEnd.all (fun p => l.any (fun q => q.1 = p.1))
    && l.all (fun p => look p.1 c.replayEnd = some p.2.spord && (inWait p.2 || atSafePoint s p.1 fn p.2.pc.toNat))

end Sys2Proof.Machine
end

