-- ==== Sys2Proof/Machine/Foreman.lean ====
section
/-! DEFINITION. The Foreman: queues and appends (R389, R390, R396-R400), context commands and TLB
invalidation (R397), virtual functions (R391-R395), bandwidth (R401), page requests (R209). -/

namespace Sys2Proof.Machine

/-- Whether a function is enabled. -/
def enabled (s : State) (fn : Nat) : Bool := (s.vf fn).ctl.getLsbD 0

/-! ### CSTAT (R397) -/

/-- Note the outcome of a control write: 0 OK, 1 BUSY, 2 BADENTRY, 3 OVERQUOTA. -/
def setStat (fn code : Nat) (s : State) : State :=
  s.modVf fn (fun v => { v with cstat := BitVec.ofNat 32 code })

/-- A write to a control register of an enabled function's window. While one is in progress it is ignored,
with outcome BUSY. -/
def control (fn : Nat) (act : State → State) (s : State) : Out1 :=
  if !enabled s fn then .next s
  else if (s.vf fn).cstat.getLsbD 8 then .next (setStat fn 0x101 s)
  else .next (act s)

/-! ### Queue table entries (R396) -/

/-- The address of a queue's entry. -/
def entryOf (s : State) (fn q : Nat) : Nat := wrapNat 64 ((s.ctx fn).qtbase.toNat + 64 * q)

/-- Write a 4-byte field of a queue's entry. -/
def entryWrite (fn q off v : Nat) (s : State) : State :=
  match engineWrite fn (firstCore s fn) 2 (entryOf s fn q + off) (toBytes 4 v) s with
  | .inr s => s
  | .inl x => orIntegrity fn 0xFFFF x.failed s

/-- The queue that an entry describes; none where it breaks R396. Launch queues have no rings, and
device-fed queues no submission ring. -/
def entryQueue (fn q : Nat) (d : List Byte) : Option Queue :=
  let at1 (i : Nat) : Nat := valAt i 1 d
  let sub := valAt 0 8 d
  let kind := at1 0x18
  let zeros := (bytesAt 0x1D 3 d).all (· = 0) && (bytesAt 0x2C 20 d).all (· = 0)
  let subOk := sub = 0 || (sub % 4096 = 0 && decide (6 ≤ at1 0x19) && decide (at1 0x19 ≤ 16))
  let rings :=
    if kind = 1 then valAt 8 8 d = 0 && valAt 0x10 8 d = 0
    else decide (6 ≤ at1 0x1A) && decide (at1 0x1A ≤ 16)
      && (at1 0x1B = 0 || (decide (6 ≤ at1 0x1B) && decide (at1 0x1B ≤ 20)))
  if zeros && subOk && rings && (kind = 1 || kind = 2) && (decide (at1 0x1C < 32) || at1 0x1C = 0xFF) then
    some { fn := fn, num := q, born := 0, sub := BitVec.ofNat 64 sub, ringPrim := BitVec.ofNat 64 (valAt 8 8 d)
           ringOver := BitVec.ofNat 64 (valAt 0x10 8 d), kind := kind, logSub := at1 0x19
           capPrim := if kind = 2 then 2 ^ at1 0x1A else 0
           capOver := if kind = 2 && valAt 0x10 8 d != 0 && at1 0x1B != 0 then 2 ^ at1 0x1B else 0
           notify := at1 0x1C, consumer := 0, producer := 0, status := 0, index := 0, prim := []
           overflow := [], held := false, events := 0, mapped := none, notified := false, rereads := 0
           destroying := false }
  else none

/-- Whether another queue of the function has a notify slot. -/
def slotTaken (s : State) (fn slot : Nat) : Bool :=
  slot != 0xFF && s.queues.any (fun p => p.2.fn = fn && p.2.notify = slot)

/-- The lowest free Foreman thread (R389) (in part DEDUCED, log 70). -/
def freeThread (s : State) : Option Nat := (upto 256).find? (fun i => (look i s.foreman).isNone)

/-- A queue exists from now on; one with a notify slot is mapped to a free thread, if there is one (R390)
(in part DEDUCED, log 65). -/
def addQueue (q : Queue) (s : State) : State :=
  let key := queueKey q.fn q.num
  match (if q.notify = 0xFF then none else freeThread s) with
  | none => { s with queues := put key q s.queues }
  | some hw => { s with
      queues := put key { q with mapped := some hw } s.queues
      foreman := put hw ⟨key, true, false, true, none, false, false⟩ s.foreman }

/-- The thread of a queue blocks in a wait packet (R389): whether it names a notify write and a completion of the Task
Queue Controller. It names a halt always (in part DESIGN CHOICE, log 84). From there it goes on under the firmware that
runs then (R407). -/
def sleepForeman (notify task : Bool) (v : Queue) (s : State) : State :=
  modForeman v (fun t => { t with running := false, timer := none, onNotify := notify, onTask := task, onHalt := true, outgoing := false }) s

/-- QCTL create (R397). -/
def createQueue (fn q : Nat) (s : State) : State :=
  if (s.vf fn).qmax.toNat ≤ q then setStat fn 3 s
  else
    match engineRead s fn (firstCore s fn) 2 (entryOf s fn q) 64 with
    | .inl x => setStat fn 2 (orIntegrity fn 0xFFFF x.failed (readNote fn (firstCore s fn) 2 (entryOf s fn q) 64 s))
    | .inr d =>
      let s := readNote fn (firstCore s fn) 2 (entryOf s fn q) 64 s
      match entryQueue fn q d with
      | none => setStat fn 2 s
      | some v =>
        if (look (queueKey fn q) s.queues).isSome || slotTaken s fn v.notify then setStat fn 2 s
        else
          let (n, s) := s.fresh
          setStat fn 0 (addQueue { v with born := n } (entryWrite fn q 0x24 0 (entryWrite fn q 0x20 0 s)))

/-- QUEUE_CREATE (R397). -/
def execQueueCreate (fn q : Nat) (s : State) : Out1 := control fn (createQueue fn q) s

/-! ### Destroy and reset (R397) -/

/-- Whether the thread mapped to a queue is blocked in its wait packet, or the queue has none. -/
def threadIdle (s : State) (v : Queue) : Bool :=
  (v.mapped.bind (fun hw => look hw s.foreman)).all (fun t => !t.running)

/-- Whether a queue holds nothing, neither in its rings nor unread in its submission ring. -/
def queueEmpty (v : Queue) : Bool :=
  BitVec.ofNat 32 v.consumer = v.producer && v.prim.isEmpty && v.overflow.isEmpty

/-- Whether a queue that is being destroyed can go. -/
def destroyDue (s : State) (v : Queue) : Bool := v.destroying && queueEmpty v && threadIdle s v

/-- QUEUE_DESTROY (R397): the write, and then the step in which the queue goes, once it is empty and its
thread free. -/
def execQueueDestroy (fn q : Nat) (s : State) : Out1 :=
  let key := queueKey fn q
  match look key s.queues with
  | none => control fn (setStat fn 2) s
  | some v =>
    if destroyDue s v then .next (setStat fn 0 (dropQueue key s))
    else control fn (fun s => setStat fn 0x100 (s.modQueue key (fun v => { v with destroying := true }))) s

/-- A queue goes on from its consumer index with its status cleared. -/
def resetQueue (fn q : Nat) (s : State) : State :=
  let key := queueKey fn q
  match look key s.queues with
  | none => setStat fn 2 s
  | some v =>
    if v.status < 2 then setStat fn 0 s
    else
      let s := entryWrite fn q 0x24 0 (s.modQueue key (fun v => { v with
        status := 0, rereads := 0, notified := true }))
      setStat fn 0 (modForeman v (fun t => { t with running := true, timer := none }) s)

/-- QUEUE_RESET (R397). -/
def execQueueReset (fn q : Nat) (s : State) : Out1 := control fn (resetQueue fn q) s

/-! ### Notify writes and the wait packet (R389, R397) -/

/-- NOTIFY_WRITE (R397, R411, R412): a packet of ordered delivery; bits 63:32 of the value are ignored. -/
def execNotifyWrite (dest : EndpointName) (slot : NotifySlot) (value : DWord) (s : State) : Out1 :=
  if 32 ≤ slot.slot then .next s
  else .next (arriveInbound slot.job ⟨dest, 0, .notify slot.slot value⟩ s)

/-- FOREMAN_TIMER (R389): a timer runs out and its thread is ready; a re-read window is over (R399). -/
def execForemanTimer (hw : Nat) (s : State) : Out1 :=
  match look hw s.foreman with
  | none => .next s
  | some t =>
    if t.timer.isNone then .next s
    else
      let s := { s with foreman := put hw { t with timer := none, running := true } s.foreman }
      .next (s.modQueue t.queue (fun v => { v with rereads := if v.rereads = 0 then 0 else 16 }))

/-! ### Consuming appends (R399, R400) -/

/-- The sequence stamp that append `n` carries (R398). -/
def stampOf (n : Nat) : Nat := n % 65535 + 1

/-- Put a queue in an error status with the append it concerns, and report it (R399, R405)
(in part DEDUCED, log 63). -/
def queueError (v : Queue) (status n : Nat) (s : State) : State :=
  let key := queueKey v.fn v.num
  let s := s.modQueue key (fun v => { v with
    status := status, index := BitVec.ofNat 32 n, rereads := 0, notified := false })
  let s := sleepForeman true false v s
  let s := entryWrite v.fn v.num 0x28 n (entryWrite v.fn v.num 0x24 status s)
  reportEvent v.fn 3 status v.num n s

/-- The address of the slot of append `n`, and what reading it leaves (R208). -/
def slotAt (v : Queue) (n : Nat) : Nat := v.sub.toNat + 64 * (n % 2 ^ v.logSub)
def slotNote (v : Queue) (n : Nat) (s : State) : State := readNote v.fn (firstCore s v.fn) 2 (slotAt v n) 64 s

/-- The record in the slot of append `n`; none where its line fails its check or cannot be read. -/
def slotRecord (s : State) (v : Queue) (n : Nat) : Option (List Byte) :=
  match engineXlat s v.fn (firstCore s v.fn) .read (slotAt v n) 64 with
  | .ok pa cid => if foreign s cid pa then none else some (memRead s.mem pa 64)
  | _ => none

/-- One append is consumed. -/
def stepConsumer (v : Queue) (s : State) : State :=
  let s := s.modQueue (queueKey v.fn v.num) (fun v => { v with
    consumer := v.consumer + 1, rereads := 0, status := 1 })
  let s := modForeman v (fun t => { t with timer := none }) s
  entryWrite v.fn v.num 0x24 1 (entryWrite v.fn v.num 0x20 (v.consumer + 1) s)

/-- Read bytes of a function's memory, if they can be read. -/
def readFn (s : State) (fn a n : Nat) : Option (List Byte) :=
  match engineRead s fn (firstCore s fn) 2 a n with
  | .inr l => some l
  | .inl _ => none

/-- The stages that a launch record names: stage, kernel, cohorts; none if one is malformed
(in part DEDUCED, log 63). -/
def stagesOf (s : State) (fn : Nat) (table : List Byte) : Option (List (Nat × DWord × Nat)) :=
  (upto 3).foldl (fun (acc : Option (List (Nat × DWord × Nat))) i =>
    match acc with
    | none => none
    | some l =>
      let a := BitVec.ofNat 64 (valAt (16 * i) 8 table)
      let n := valAt (16 * i + 8) 4 table
      if valAt (16 * i + 12) 4 table != 0 then none
      else if n = 0 then some l
      else
        match kernelAt s fn a with
        | none => none
        | some k => if n % k.cohort != 0 then none else some (l ++ [(i + 1, a, n / k.cohort)])) (some [])

/-- The launch that a record describes (R400); none if it is malformed. Stages come before stage 0 (R166)
(in part DEDUCED, log 63). -/
def launchOf (s : State) (fn : Nat) (r : List Byte) : Option Launch :=
  let word := valAt 0x1C 4 r
  let table := valAt 0x20 8 r
  let (x, y, z) := (valAt 0x10 4 r, valAt 0x14 4 r, valAt 0x18 4 r)
  let kernel := BitVec.ofNat 64 (valAt 0 8 r)
  if bits word 7 6 != 0 || bits word 31 9 != 0 || valAt 0x34 4 r != 0 || (kernelAt s fn kernel).isNone then none
  else
    match readFn s fn (valAt 0x38 8 r) 32, (if table = 0 then some [] else readFn s fn table 48) with
    | some b, some t =>
      match stagesOf s fn t with
      | none => none
      | some stages =>
        some { fn := fn, kernel := kernel, args := BitVec.ofNat 64 (valAt 8 8 r), lcx := x, lcy := y, lcz := z
               level := bits word 5 0, coop := bit word 8 || !stages.isEmpty, stages := stages
               completion := BitVec.ofNat 64 (valAt 0x28 8 r)
               bind := (upto 16).map (fun i => valAt (2 * i) 2 b), admitted := false
               left := stages.flatMap (fun g => (upto g.2.2).map (g.1, ·)) ++ (upto (x * y * z)).map (0, ·)
               running := 0 }
    | _, _ => none

/-- What the Foreman reads of a launch beside its record: descriptors, bindings and the stage table, each with its
size. -/
def launchReads (s : State) (fn : Nat) (r : List Byte) : List (Nat × Nat) :=
  let table := valAt 0x20 8 r
  let stages := if table = 0 then [] else
    (table, 48) :: (upto 3).filterMap (fun i => ((readFn s fn table 48).bind (fun b =>
      if valAt (16 * i + 8) 4 b = 0 then none else some (valAt (16 * i) 8 b, 256))))
  [(valAt 0 8 r, 256), (valAt 0x38 8 r, 32)] ++ stages

/-- The first line of it that fails its integrity check, if one does, and what reading it leaves (R208). -/
def recordIntegrity (fn : Nat) (r : List Byte) (s : State) : Option (Nat × Nat) × State :=
  let l := launchReads s fn r
  (l.findSome? (fun p => readsForeign s fn (firstCore s fn) p.1 p.2), readsNote fn (firstCore s fn) l s)

/-- A launch record is consumed: its launch is submitted, or ends at once with status 2; a mismatch in what it names is
INTEGRITY_FAIL (R402), and that comes before what is malformed in the record (DESIGN CHOICE, log 79). -/
def takeLaunch (v : Queue) (r : List Byte) (s : State) : State :=
  match recordIntegrity v.fn r s with
  | (some x, s) => integrityHalt v.fn 0xFFFF x s
  | (none, s) =>
  match launchOf s v.fn r with
  | some l =>
    let (n, s) := s.fresh
    stepConsumer v { s with launches := put n l s.launches }
  | none =>
    stepConsumer v (completeLaunch
      ⟨v.fn, 0, 0, 0, 0, 0, 0, false, [], BitVec.ofNat 64 (valAt 0x28 8 r), [], false, [], 0⟩ 2 s)

/-- A record whose stamp agrees is taken; a task record waits while nothing would be stored: its thread blocks until
the Task Queue Controller completes something for the queue (R261, R389)
(in part DEDUCED, log 63). -/
def takeRecord (v : Queue) (r : List Byte) (s : State) : State :=
  if v.kind = 1 then takeLaunch v r s
  else if recordBad r then queueError v 4 v.consumer s
  else
    match pushRecord (queueKey v.fn v.num) r s with
    | (true, s) => stepConsumer v s
    | (false, s) => sleepForeman false true v s

/-- The thread of a queue consumes nothing now: it blocks in its wait packet. -/
def blockForeman (v : Queue) (s : State) : State :=
  let s := s.modQueue (queueKey v.fn v.num) (fun v => { v with status := 0, notified := false })
  let s := sleepForeman true false v s
  if v.status = 1 then entryWrite v.fn v.num 0x24 0 s else s

/-- Appends announced and not consumed. -/
def announced (v : Queue) : Nat := (v.producer - BitVec.ofNat 32 v.consumer).toNat

/-- Whether a queue's thread can work on its appends: it runs, the queue is in no error, and the context has
been started (in part DEDUCED, log 64). -/
def consuming (s : State) (v : Queue) : Bool :=
  enabled s v.fn && (s.ctx v.fn).live && decide (v.status < 2)
    && ((v.mapped.bind (fun hw => look hw s.foreman)).map (·.running)).getD false

/-- APPEND_CONSUME (R399): one slot. A stamp that differs opens the window of re-reads, 2,400 ticks long
(in part DEDUCED, log 64). -/
def execAppendConsume (fn q : Nat) (s : State) : Out1 :=
  match look (queueKey fn q) s.queues with
  | none => .next s
  | some v =>
    if !consuming s v || v.rereads != 0 then .next s
    else if v.sub = 0 || announced v = 0 then .next (blockForeman v s)
    else if 2 ^ v.logSub < announced v then .next (queueError v 3 v.consumer s)
    else
      match slotRecord s v v.consumer, slotNote v v.consumer s with
      | none, s => .next (queueError v 4 v.consumer s)
      | some r, s =>
        if valAt 0x30 2 r = stampOf v.consumer then .next (takeRecord v r s)
        else
          .next (modForeman v (fun t => { t with timer := some 2400 })
            (s.modQueue (queueKey fn q) (fun v => { v with rereads := 1 })))

/-- STAMP_REREAD (R399): `rereads` counts the re-reads from 1; after the 16th, or once the window is over,
the append is torn. -/
def execStampReread (fn q : Nat) (s : State) : Out1 :=
  match look (queueKey fn q) s.queues with
  | none => .next s
  | some v =>
    if !consuming s v || v.rereads = 0 then .next s
    else
      match slotRecord s v v.consumer, slotNote v v.consumer s with
      | none, s => .next (queueError v 4 v.consumer s)
      | some r, s =>
        if valAt 0x30 2 r = stampOf v.consumer then
          .next (takeRecord v r (s.modQueue (queueKey fn q) (fun v => { v with rereads := 0 })))
        else if 16 ≤ v.rereads then .next (queueError v 2 v.consumer s)
        else .next (s.modQueue (queueKey fn q) (fun v => { v with rereads := v.rereads + 1 }))

/-! ### Context commands (R349, R397) -/

/-- CONTEXT_TEAR_DOWN (R397). -/
def execContextTearDown (fn : Nat) (s : State) : Out1 :=
  control fn (fun s => setStat fn 0 (if (s.ctx fn).live then tearDown fn s else s)) s

/-- CONTEXT_ROLL_BACK (R338, R351, R397): where the fault offers it. -/
def execContextRollBack (r : ImageUse) (s : State) : Out1 :=
  control r.fn (fun s =>
    if !(s.ctx r.fn).live || !rollbackOffered s r.fn then setStat r.fn 0 s
    else setStat r.fn 0 (rollBack r.fn r.sound (runHalted r.fn s))) s

/-- Start a context: its registers are at their reset values, and its initial checkpoint holds them and
empty units (R349) (in part DEDUCED, log 66). -/
def startContext (fn : Nat) (s : State) : State :=
  let c := s.ctx fn
  let s := s.setCtx fn { Context.reset with
    live := true, pageable := c.pageable, cidb := c.cidb, save := c.save, saveSize := c.saveSize
    undoArea := c.undoArea, undoSize := c.undoSize, stopArea := c.stopArea, tst := c.tst, hst := c.hst
    image := c.image, imageSize := c.imageSize, eventAddr := c.eventAddr, qtbase := c.qtbase
    frameBase := c.image }
  let blank : State := { s with
    cores := (partCores s fn).foldl (fun (t : Tbl Core) i => drop i t) s.cores
    sections := (partSections s fn).foldl (fun (t : Tbl Section) i =>
      put i { restoreSection (s.sect i) .reset with sqpat := Section.reset.sqpat } t) s.sections }
  { formCkpt fn blank with cores := s.cores, sections := s.sections }.modVf fn (fun v => { v with state := 1 })

/-- CONTEXT_START (R397): a context that lives is not started again. -/
def execContextStart (fn : Nat) (s : State) : Out1 :=
  control fn (fun s => if (s.ctx fn).live then setStat fn 1 s else setStat fn 0 (startContext fn s)) s

/-! ### TLB invalidation (R208, R397) -/

/-- Drop the TLB entries of a function that a test picks, on every core and section
(in part DESIGN CHOICE, log 10, DEDUCED, log 69). -/
def dropTlb (fn : Nat) (gone : TlbEntry → Bool) (s : State) : State :=
  let keep (l : List TlbEntry) : List TlbEntry := l.filter (fun e => !(e.fn = fn && gone e))
  { s with
    cores := s.cores.map (fun p => (p.1, { p.2 with tlb := keep p.2.tlb }))
    sections := s.sections.map (fun p => (p.1, { p.2 with tlb2 := keep p.2.tlb2 })) }

/-- TLBINV_PAGE (R397): bits 56:12 of an address (in part DEDUCED, log 69). -/
def execTlbinvPage (fn page : Nat) (s : State) : Out1 :=
  control fn (fun s => setStat fn 0 (dropTlb fn (fun e => e.page = page * 4096 / 2 ^ e.bits) s)) s

/-- TLBINV_ALL (R397). -/
def execTlbinvAll (fn : Nat) (s : State) : Out1 :=
  control fn (fun s => setStat fn 0 (dropTlb fn (fun _ => true) s)) s

/-- HYP_TLBINV (R397): entries hold the result of both stages, so every entry of the function goes
(in part DEDUCED, log 69). -/
def execHypTlbinv (fn _page : Nat) (_all : Bool) (s : State) : Out1 :=
  .next (viaMgmt (dropTlb fn (fun _ => true)) s)

/-! ### Virtual functions (R391-R395) -/

/-- The other enabled functions. -/
def others (s : State) (fn : Nat) : Tbl VF := s.vfs.filter (fun p => p.1 != fn && p.2.ctl.getLsbD 0)

/-- FLOOR, CEIL, WEIGHT of VFBAND. -/
def floorOf (v : VF) : Nat := bits v.band.toNat 10 0
def ceilOf (v : VF) : Nat := bits v.band.toNat 21 11
def weightOf (v : VF) : Nat := max 1 (bits v.band.toNat 29 22)

/-- Whether the floors of the enabled functions, with this one's, stay within a window on each of its
channels (R401). -/
def floorsOk (s : State) (fn floor : Nat) : Bool :=
  (channelsOf (s.vf fn)).all (fun j =>
    decide ((((others s fn).filter (fun p => (channelsOf p.2).contains j)).map (fun p => floorOf p.2)).sum
      + floor ≤ 1024))

/-- Whether a unit is retired. -/
def isRetired (s : State) (unit : Nat) : Bool := ((look unit s.health).map (fun h => decide (h.state = 3))).getD false

/-- The context descriptor as a context keeps it (R395). -/
def readDescriptor (d : List Byte) (c : Context) : Context :=
  let v (i : Nat) : DWord := BitVec.ofNat 64 (valAt i 8 d)
  { c with
    save := v 0, saveSize := v 8, undoArea := v 0x10, undoSize := v 0x18, stopArea := v 0x20, tst := v 0x28
    hst := v 0x30, image := v 0x38, imageSize := v 0x40, cidb := valAt 0x48 2 d
    pageable := bit (valAt 0x48 8 d) 16, eventAddr := v 0x50, qtbase := v 0x58, frameBase := v 0x38 }

/-- Whether the areas that a descriptor names are large enough (R395): two state images, one undo entry, the frames
and trap frames, and the unit images of the sections (R345, R346) (in part DEDUCED, log 67). -/
def areasFit (sections : Nat) (d : List Byte) : Bool :=
  decide ((Config.stateSize sections).toNat ≤ valAt 8 8 d) && decide (144 ≤ valAt 0x18 8 d)
    && decide (128 * Config.unitImageLines * sections ≤ valAt 0x40 8 d)

/-- Whether a write may enable a function (R393, R395, R421, R422). -/
def mayEnable (s : State) (fn : Nat) (value : DWord) (d : List Byte) : Bool :=
  let v := s.vf fn
  let o := others s fn
  let lo := valAt 0x48 2 d
  let hi := lo + 2 ^ bits value.toNat 7 4
  v.sect != 0 && o.all (fun p => p.2.sect = v.sect || p.2.sect &&& v.sect = 0)
    && (channelsOf v).all (fun j => v.sect.getLsbD (j / 4) || o.any (fun p => (channelsOf p.2).contains j))
    && o.all (fun p => decide (hi ≤ (s.ctx p.1).cidb)
        || decide ((s.ctx p.1).cidb + 2 ^ bits p.2.ctl.toNat 7 4 ≤ lo))
    && decide ((o.map (fun p => p.2.qmax.toNat)).sum + v.qmax.toNat ≤ 65536)
    && floorsOk s fn (floorOf v) && v.addr != 0 && s.boot.up
    && areasFit (sectionsOf v.sect).length d
    && (sectionsOf v.sect).all (fun i => !(s.sect i).retired)
    && (channelsOf v).all (fun j => !isRetired s (channelUnit j))
    && (!s.boot.minimal || (v.sect = 1 && (channelsOf v).all (· = s.boot.channel)))

/-- When a partition forms, its engine counters and the sequence counters of the home slices are 0 (R203, R366). -/
def clearEngines (fn : Nat) (s : State) : State :=
  let zeros : List Word := List.replicate 16 0
  let s := (partCores s fn).foldl (fun s i => s.modCore i (fun c => { c with engStalls := zeros })) s
  let s := (partSections s fn).foldl (fun s i => s.modSect i (fun c => { c with engStalls := zeros })) s
  let s := (upto 2).foldl (fun s i => s.modDie i (fun d => { d with
    engStalls := drop (partitionOf s fn) d.engStalls })) s
  { s with slices := s.slices.map (fun p => (p.1, { p.2 with seqs := drop (partitionOf s fn) p.2.seqs })) }

/-- A function is enabled with the context that its descriptor describes: its keys are in force from now on (R402), and
a partition that has formed has new counters. -/
def enable (fn : Nat) (d : List Byte) (s : State) : State :=
  let s := if (others s fn).any (fun p => p.2.sect = (s.vf fn).sect) then s else clearEngines fn s
  garbleLines fn ((s.modCtx fn (readDescriptor d)).modVf fn (fun v => { v with
    ctl := v.ctl ||| 1, state := 0, code := 0 }))

/-- A write of VFCTL (R393). Bits 11:8 and 3:1 are reserved; CIDN does not change while EN is 1
(in part DEDUCED, log 67). -/
def writeVfctl (fn : Nat) (value : DWord) (s : State) : State :=
  if fn = 0 || Config.functions ≤ fn then s
  else
    let v := s.vf fn
    let ctxd := value &&& 0xFFFFFFFFFFFFF000
    let cidn := value &&& 0xF0
    if enabled s fn then
      let s := s.modVf fn (fun v => { v with ctl := ctxd ||| (v.ctl &&& 0xF1) })
      if value.getLsbD 0 then s
      else if v.state = 2 && (s.ctx fn).running then
        let s := s.modVf fn (fun v => { v with closing := true })
        if (s.ctx fn).halt.isNone then requestCkpt fn 3 s else s
      else disable fn s
    else
      let d := memRead s.mem (ctxd.toNat) 128
      let s := s.modVf fn (fun v => { v with ctl := ctxd ||| cidn })
      if !value.getLsbD 0 then s
      else if !mayEnable s fn value d then s.modVf fn (fun v => { v with code := 0xF0 })
      else enable fn d s

/-- VFCTL_WRITE (R393). -/
def execVfctlWrite (fn : Nat) (value : DWord) (s : State) : Out1 := .next (viaMgmt (writeVfctl fn value) s)

/-- A write of VFBAND (R401) (in part DEDUCED, log 67). -/
def writeVfband (fn : Nat) (value : Word) (s : State) : State :=
  if fn = 0 || Config.functions ≤ fn then s
  else
    let v := { s.vf fn with band := value &&& 0x3FFFFFFF }
    if ceilOf v < floorOf v || 1024 < ceilOf v || (enabled s fn && !floorsOk s fn (floorOf v)) then
      s.modVf fn (fun v => { v with bandBad := true })
    else s.modVf fn (fun v => { v with band := value &&& 0x3FFFFFFF, bandBad := false })

/-- VFBAND_WRITE (R401). -/
def execVfbandWrite (fn : Nat) (value : Word) (s : State) : Out1 := .next (viaMgmt (writeVfband fn value) s)

/-- A write to a register of a function's block (R391) (in part DEDUCED, log 67). -/
def blockWrite (s : State) (off : Nat) (value : DWord) (v : VF) : VF :=
  let off8 := off / 8 * 8
  let free := !v.ctl.getLsbD 0
  if off = 0x08 && free then { v with sect := value }
  else if 0x10 ≤ off8 && off8 ≤ 0x28 && off = off8 && free then { v with chan := setNth value ((off - 0x10) / 8) v.chan }
  else if off = 0x30 && value.toNat % 2 ^ 9 ≤ 256 then { v with qmax := BitVec.ofNat 32 (value.toNat % 2 ^ 9) }
  else if off = 0x38 then { v with slice := loWord value }
  else if 0x40 ≤ off && off < 0x80 && off = off8 && free && s.spdm.session then
    { v with keys := setNth value ((off - 0x40) / 8) v.keys }
  else v

/-- A write to a register of a function's endpoint block (R392). -/
def endpointWrite (off : Nat) (value : DWord) (v : VF) : VF :=
  if v.ctl.getLsbD 0 then v
  else if off = 0 then { v with addr := (v.addr &&& (0xFFFFFFFFFFFFFFFF#128 <<< 64)) ||| value.setWidth 128 }
  else if off = 8 then { v with addr := (v.addr &&& 0xFFFFFFFFFFFFFFFF#128) ||| (value.setWidth 128 <<< 64) }
  else if off = 0x10 then { v with job := loWord value }
  else v

/-- The offset at which the model has the management function write system register `num` of a thread,
context, section or core `inst` (R382; DESIGN CHOICE, log 26). -/
def sysOffset (inst num : Nat) : Nat := 2 ^ 32 + inst * 2 ^ 12 + num

/-- The management function writes a system register that no other step writes (R382). POOLSTAT is a view of the
pool's classes, which a write of it leaves as they are (in part DESIGN CHOICE, log 26). -/
def mgmtSysWrite (inst num : Nat) (value : DWord) (s : State) : State :=
  let w := loWord value
  let frame (f : TrapFrame → TrapFrame) : State :=
    match look inst s.threads with
    | none => s
    | some t =>
      if t.tdepth = 0 || !frameRoom s inst t [trapFieldLine t num] then s
      else accountFrames inst t (s.modThread inst (writeFrame num f))
  let half (hi : Word → TrapFrame → TrapFrame) (lo : Word → TrapFrame → TrapFrame) : State :=
    frame (fun f => hi (hiWord value) (lo w f))
  if num = 0x000 then s.modThread inst (fun t => { t with fstat := writeFstat t.fstat w })
  else if num = 0x010 then frame (fun f => { f with rpc := value })
  else if num = 0x011 then frame (fun f => { f with iaddr := value })
  else if num = 0x012 then frame (fun f => { f with faddr := value })
  else if num = 0x013 then frame (fun f => { f with ssw := w })
  else if num = 0x014 then frame (fun f => { f with fstat := w })
  else if num = 0x015 then frame (fun f => { f with lnk := value })
  else if num = 0x016 then frame (fun f => { f with cause := w })
  else if num = 0x017 then frame (fun f => { f with detail := w })
  else if num = 0x018 then half (fun v f => { f with sibling := v }) (fun v f => { f with own := v })
  else if num = 0x019 then frame (fun f => { f with parent := w })
  else if num = 0x01A then s.modThread inst (fun t => { t with tdepth := min 2 w.toNat })
  else if num = 0x100 then s.modCtx inst (fun c => { c with frameBase := value })
  else if num = 0x101 then s.modCtx inst (fun c => { c with frameStride := w })
  else if num = 0x102 then s.modCtx inst (fun c => { c with htbase := value &&& htMask })
  else if num = 0x104 then
    if bits value.toNat 1 0 = 0 then s.modCtx inst (fun c => { c with
      recctl := value &&& ~~~0xFFF, orderLog := [], csums := [], replay := none, replayStart := false }) else s
  else if num = 0x105 then s.modCtx inst (fun c => { c with tst := value })
  else if num = 0x106 then s.modCtx inst (fun c => { c with hst := value })
  else if num = 0x107 then s.modCtx inst (fun c => { c with epoch := w })
  else if num = 0x108 then s.modCtx inst (fun c => { c with pcycle := value.toNat })
  else if num = 0x200 then writeTracectl inst value s
  else if num = 0x300 then s.modSect inst (fun q => { q with sqpat := value })
  else if num = 0x301 then s.modSect inst (fun q => { q with mxspare := w &&& 0xFFFF })
  else if num = 0x403 then s
  else if num = 0x404 then s.modCore inst (fun c => { c with dbgbp := value &&& 0x87FFFFFFFFFFFFFF })
  else s

/-- A write of a management register without behaviour of its own (R382, R391, R392, R425). A write to any other
register, one that is read only among them, leaves no trace here (in part DESIGN CHOICE, log 26). -/
def writeMgmt (offset : Nat) (value : DWord) (s : State) : State :=
  if offset = 0x300 then { s with rbAddr := value }
  else if 2 ^ 32 ≤ offset then mgmtSysWrite ((offset - 2 ^ 32) / 2 ^ 12) (offset % 2 ^ 12) value s
  else if 0x8020 ≤ offset && offset < 0x10000 then
    s.modVf ((offset - 0x8000) / 0x20) (endpointWrite (offset % 0x20) value)
  else if 0x10080 ≤ offset && offset < 0x10000 + 0x80 * Config.functions then
    s.modVf ((offset - 0x10000) / 0x80) (blockWrite s (offset % 0x80) value)
  else s

/-- MGMT_REGISTER_WRITE (R382, R391, R392, R425). -/
def execMgmtRegisterWrite (offset : Nat) (value : DWord) (s : State) : Out1 := .next (viaMgmt (writeMgmt offset value) s)

/-! ### Bandwidth (R401) -/

/-- Divide what is left of a window among functions by weight, none above its cap; a share above a cap is
redistributed. Each function is given as number, weight, grant, cap (in part DESIGN CHOICE, log 68). -/
def shareOut : Nat → Rat → List (Nat × Nat × Rat × Rat) → List (Nat × Rat)
  | 0, _, l => l.map (fun f => (f.1, f.2.2.1))
  | fuel + 1, rest, l =>
    let total := (l.map (fun f => f.2.1)).sum
    let share (w : Nat) : Rat := rest * (w : Rat) / (total : Rat)
    let full := l.filter (fun f => decide (f.2.2.2 ≤ f.2.2.1 + share f.2.1))
    if full.isEmpty then l.map (fun f => (f.1, f.2.2.1 + share f.2.1))
    else
      let used := full.foldl (fun (u : Rat) f => u + (f.2.2.2 - f.2.2.1)) 0
      full.map (fun f => (f.1, f.2.2.2))
        ++ shareOut fuel (rest - used) (l.filter (fun f => !decide (f.2.2.2 ≤ f.2.2.1 + share f.2.1)))

/-- The grants of a channel's window for the functions' demands, all in 1,024ths
(in part DESIGN CHOICE, log 68). -/
def windowGrants (s : State) (channel : Nat) (demand : Tbl Nat) : List (Nat × Rat) :=
  let l := (s.vfs.filter (fun p => p.2.ctl.getLsbD 0 && (channelsOf p.2).contains channel)).map (fun p =>
    let d := (look p.1 demand).getD 0
    (p.1, weightOf p.2, ((min d (floorOf p.2) : Nat) : Rat), ((min d (ceilOf p.2) : Nat) : Rat)))
  let given := l.foldl (fun (u : Rat) f => u + f.2.2.1) 0
  shareOut (l.length + 1) (1024 - given) l

/-- BANDWIDTH_WINDOW (R401). -/
def execBandwidthWindow (channel : Nat) (demand : Tbl Nat) (s : State) : Out1 :=
  let old := (look channel s.channels).getD ⟨0, []⟩
  let grants := (windowGrants s channel demand).foldl (fun (t : Tbl Rat) p => put p.1 p.2 t) []
  .next { s with channels := put channel ⟨old.windows + 1, grants⟩ s.channels }

/-! ### Page requests (R209) -/

/-- The stage and page that an access to a virtual address still faults on, if it does. -/
def stillFaults (s : State) (k fn va kind : Nat) : Option (Nat × Nat) :=
  let need : Need := if kind = 0 then .read else if kind = 1 then .write else if kind = 2 then .both else .exec
  match peek s fn (coreOf k) need va with
  | .park stage page _ => some (stage, page)
  | _ => none

/-- A thread tries its instruction again. -/
def tryAgain (k : Nat) (s : State) : State :=
  s.modThread k (fun t => { t with wait := none, readySince := (s.ctx t.fn).pcycle })

/-- Retry the threads of one partition's retry list at a die, oldest first, until one finds no entry. -/
def retryThreads (die part : Nat) : List Nat → State → State
  | [], s => s
  | k :: l, s =>
    let off (s : State) : State := s.modDie die (fun d => { d with retry := change part (List.filter (· != k)) d.retry })
    match look k s.threads with
    | none => retryThreads die part l (off s)
    | some t =>
      match t.wait with
      | some (.listed _ _ _ va kind) =>
        match stillFaults s k t.fn va kind with
        | none => retryThreads die part l (off (tryAgain k s))
        | some (stage, page) =>
          match takeEntry die t.fn stage page va kind s with
          | (none, s) => s
          | (some e, s) =>
            retryThreads die part l (off (s.modThread k (fun t => { t with wait := some (.parked die e) })))
      | _ => retryThreads die part l (off s)

/-- PAGE_REQUEST_COMPLETE (R209): whoever is parked on the entry tries again, then the retry lists are
worked through, each partition's by itself and one partition's after the other's (in part DESIGN CHOICE, log 79). -/
def execPageRequestComplete (die entry : Nat) (s : State) : Out1 :=
  match look entry (s.die die).pageReqs with
  | none => .next s
  | some _ =>
    let s := s.modDie die (fun d => { d with pageReqs := drop entry d.pageReqs })
    let free (c : Cmd) : Cmd := if c.parked = some (die, entry) then { c with parked := none } else c
    let g : List Cmd → List Cmd := List.map free
    let s : State := { s with
      wgs := s.wgs.map (fun p => (p.1, { p.2 with
        cp0 := g p.2.cp0, cp1 := g p.2.cp1, tk := g p.2.tk, ne := g p.2.ne }))
      cohorts := s.cohorts.map (fun p => (p.1, { p.2 with mx := g p.2.mx, sq := g p.2.sq })) }
    let l := (s.threads.filter (fun p => p.2.wait = some (.parked die entry))).map (·.1)
    let s := l.foldl (fun s k => tryAgain k s) s
    .next ((s.die die).retry.foldl (fun s p => retryThreads die p.1 ((look p.1 (s.die die).retry).getD []) s) s)

end Sys2Proof.Machine
end

