-- ==== Sys2Proof/Machine/Health.lean ====
section
/-! DEFINITION. Starts (R420, R421), errors and self-tests (R422), adaptive loops (R423, R424), Bluord's
flits (R410). -/

namespace Sys2Proof.Machine

/-! ### Starts (R420, R421) -/

/-- The reason code of a stage that fails. -/
def reasonCode (stage : Nat) (r : BitVec 8) : BitVec 8 :=
  if stage = 1 then 0x11
  else if stage = 2 then 0x21
  else if stage = 3 then 0x30 ||| (r &&& 0x0F)
  else if stage = 4 then 0x41
  else if stage = 5 then 0x50
  else if stage = 6 then 0x60
  else 0x70

/-- A start ends failed: its code moves in, FAILS rises to at most 3. -/
def failStart (code : BitVec 8) (b : Boot) : Boot :=
  { b with rc0 := code, rc1 := b.rc0, rc2 := b.rc1, fails := min 3 (b.fails + 1), up := false, starting := false }

/-- The defective physical rows of a section's quadrant, in ascending order. -/
def defectRows (o : StartOutcome) (sect : Nat) : List Nat :=
  (upto 130).filter (fun r => ((look sect o.defects).getD []).contains r)

/-- The sections that stage 5 takes out of service: those that fail, and those with more than two defective rows
(R268). -/
def outOfService (o : StartOutcome) : List Nat :=
  (upto Config.sections).filter (fun i => o.retired.contains i || decide (2 < (defectRows o i).length))

/-- MXSPARE for the rows that a quadrant retires (R268). -/
def spareWord (rows : List Nat) : Word := BitVec.ofNat 32 (nth 0xFF 0 rows + 2 ^ 8 * nth 0xFF 1 rows)

/-- The stage that a start stops at: the one that fails outside, or stage 5 where section 0 fails its test. -/
def stopStage (o : StartOutcome) : Option Nat :=
  let at1 := o.failAt.map (fun n => max 1 (min 7 n))
  if (outOfService o).contains 0 && at1.all (fun n => decide (5 < n)) then some 5 else at1

/-- The package after a reset, before a start has done anything: the boot store's fields stay
(in part DEDUCED, log 71). -/
def resetAll (s : State) : State :=
  { State.reset with agenda := s.agenda, nextId := s.nextId, freeCtr := s.freeCtr, out := s.out, boot := s.boot }

/-- Stage 2 measures the firmware image (R406). -/
def bringFirmware (s : State) : State :=
  let (n, s) := s.fresh
  { s with firmware := ⟨Config.firmwareVersion n, Config.firmwareMeasurement n, none⟩ }

/-- Stage 5 retires sections and chooses spare rows (R268). -/
def bringSections (o : StartOutcome) (s : State) : State :=
  let s := o.defects.foldl (fun s p => s.modSect p.1 (fun q => { q with mxspare := spareWord (defectRows o p.1) })) s
  (outOfService o).foldl (fun s i => s.modSect i (fun q => { q with retired := true })) s

/-- Stage 6 gives the management endpoint its address (R392). -/
def bringEndpoint (s : State) : State :=
  s.modVf 0 (fun v => { v with addr := Config.bootFabricAddress, job := Config.bootJob })

/-- What the stages up to one leave. -/
def bringUp (o : StartOutcome) (done : Nat) (s : State) : State :=
  let s := if 2 ≤ done then bringFirmware s else s
  let s := if 5 ≤ done then bringSections o s else s
  if 6 ≤ done then bringEndpoint s else s

/-- START (R420): a reset and the stages after it, up to where the outcome stops them. With FAILS at 3 the
start is minimal unless BOOTCMD asked for a full one (in part DESIGN CHOICE, log 17). -/
def execStart (o : StartOutcome) (s : State) : Out1 :=
  let s := resetAll s
  let b := { s.boot with
    minimal := s.boot.fails = 3 && !s.boot.forceFull, forceFull := false, up := false, starting := true
    channel := o.channel % 4 }
  match stopStage o with
  | none =>
    let b := { b with stage := 7, up := true, starting := false }
    .next { bringUp o 7 s with boot := if b.minimal then b else { b with fails := 0, rc0 := 0, rc1 := 0, rc2 := 0 } }
  | some k =>
    let b := { b with stage := k - 1 }
    .next { bringUp o (k - 1) s with boot := if o.hangs && o.failAt = some k then b else failStart (reasonCode k o.reason) b }

/-- START_TIMEOUT (R420). -/
def execStartTimeout (s : State) : Out1 :=
  .next (if s.boot.starting then { s with boot := failStart 0x7F s.boot } else s)

/-- BOOTCMD_WRITE (R421). -/
def execBootcmdWrite (value : DWord) (s : State) : Out1 :=
  .next (viaMgmt (fun s => if value = 1 then { s with boot := { s.boot with forceFull := true } } else s) s)

/-- BOOTSTAT (R421). -/
def bootstat (b : Boot) : DWord :=
  BitVec.ofNat 64 (b.stage % 256 * 2 ^ 32 + b.rc0.toNat * 2 ^ 24 + b.rc1.toNat * 2 ^ 16 + b.rc2.toNat * 2 ^ 8
    + b.fails % 4 * 4 + one b.minimal * 2 + one b.up)

/-! ### Errors and self-tests (R422) -/

/-- Whether a parity error in a frame line has a source to repair it from: its duplicate, or its context-image copy
if the pool's line is clean (R195). -/
def repairable (s : State) (k line : Nat) : Bool :=
  (s.core (coreOf k)).dups.any (fun d => d.thread = k && d.line = line)
    || ((look k s.threads).bind (fun t => look line t.lines)) = some false

/-- Whether an error is corrected: a frame line's by its repair, an L1 line's as the line is filled again. -/
def siteCorrected (s : State) (corrected : Bool) : ErrorSite → Bool
  | .elsewhere => corrected
  | .frame k line => repairable s k line
  | .scratchpad _ | .window _ => false
  | .l1 _ _ => true

/-- A context fault of a workgroup's pool. -/
def wgParity (wg code : Nat) (s : State) : State :=
  match look wg s.wgs with
  | none => s
  | some w => raiseHalt w.fn code (s.coreNo w.fn w.core) [] s

/-- What a parity error in a line of the pool brings (R195, R355). A repaired frame line reads as it was. -/
def parityError (site : ErrorSite) (s : State) : State :=
  match site with
  | .elsewhere => s
  | .frame k line =>
    match look k s.threads with
    | none => s
    | some t =>
      if (look line t.lines).isNone || repairable s k line then s
      else coreFault k fRegisterParity s
  | .scratchpad wg | .window wg => wgParity wg fPoolParity s
  | .l1 core line => s.modCore core (fun c => { c with l1 := c.l1.filter (fun l => l.line != line) })

/-- ERROR_DETECTED (R195, R422) (in part DESIGN CHOICE, log 17). -/
def execErrorDetected (unit : Nat) (error : ErrorSeen) (s : State) : Out1 :=
  .next (parityError error.site (countError unit (siteCorrected s error.corrected error.site) s))

/-- SELF_TEST_BEGIN (R422): once no running context uses the unit. -/
def execSelfTestBegin (unit : Nat) (s : State) : Out1 :=
  let h := s.unitHealth unit
  let used := s.vfs.any (fun p => onPartition s p.1 && usesUnit p.2 unit)
  .next (if h.state = 1 && !used then s.setHealth unit { h with state := 2 } else s)

/-- The context of an enabled function that named a retired unit halts without the offer of a rollback: whatever has
halted it before, and at once where it does not run. -/
def haltRetired (fn : Nat) (s : State) : State :=
  let c := s.ctx fn
  let stands : Halt := c.halt.getD ⟨fUnitRetired, 0xFFFF, !c.running, [], []⟩
  if !c.live then s
  else if c.running && c.halt.isNone then raiseHalt fn fUnitRetired 0xFFFF [] s
  else
    let s := s.modCtx fn (fun c => { c with halt := some { stands with code := fUnitRetired, unit := 0xFFFF } })
    if !stands.done then s
    else reportEvent fn 1 fUnitRetired (s.ctx fn).epoch.toNat 0
      (s.modVf fn (fun v => { v with state := 4, code := fUnitRetired }))

/-- A unit leaves every quota mask. -/
def leaveMasks (u : Nat) (v : VF) : VF :=
  { v with
    sect := (unitSections u).foldl (fun m i => m &&& ~~~(1#64 <<< i)) v.sect
    chan := (unitChannels u).foldl (fun l j =>
      setNth (nth 0 (j / 64) l &&& ~~~(1#64 <<< (j % 64))) (j / 64) l) v.chan }

/-- The health unit of a Bluord lane (DEDUCED, log 24). -/
def laneUnit (die lane : Nat) : Nat := 0x3000 + 184 * die + lane

/-- Retire a unit: masks, its section or lane, the contexts that named it. -/
def retireUnit (u : Nat) (s : State) : State :=
  let named := (s.vfs.filter (fun p => p.2.ctl.getLsbD 0 && namesUnit p.2 u)).map (·.1)
  let s := named.foldl (fun s fn => haltRetired fn s) s
  let s : State := { s with vfs := s.vfs.map (fun p => (p.1, leaveMasks u p.2)) }
  let s := freeClocks ((unitSections u).foldl (fun s i => s.modSect i (fun q => { q with retired := true })) s)
  if 0x3000 ≤ u && u < 0x3000 + 368 then
    s.modDie ((u - 0x3000) / 184) (fun d => { d with lanesLost := distinct (d.lanesLost ++ [(u - 0x3000) % 184]) })
  else s

/-- SELF_TEST_END (R422): TRANSIENT, or LASTING (in part DESIGN CHOICE, log 17). -/
def execSelfTestEnd (unit : Nat) (lasting : Bool) (s : State) : Out1 :=
  let h := s.unitHealth unit
  if h.state != 2 then .next s
  else if lasting then .next (retireUnit unit (s.setHealth unit { h with state := 3, outcome := 2 }))
  else .next (s.setHealth unit { h with state := 0, outcome := 1 })

/-! ### Adaptive loops (R423, R424) -/

/-- Whether an offset is a loop register's. -/
def isLoop (off : Nat) : Bool :=
  off % 8 = 0 && decide (0x1000 ≤ off) && decide (off < 0x2C00)

/-- LOOP_SETPOINT_WRITE (R423): a section outside every partition runs at its own setpoint at once (R424)
(in part DEDUCED, log 67). -/
def execLoopSetpointWrite (offset : Nat) (value : DWord) (s : State) : Out1 :=
  .next (viaMgmt (fun s =>
    if !isLoop offset then s
    else freeClocks (s.setLoop offset { s.loop offset with set := value.extractLsb' 1 31, en := value.getLsbD 0 })) s)

/-- The running context's register of a core takes a loop's value, as SWR writes it, at most once for each
checkpoint formed and never where the context's own SWR has written it (R423). -/
def loopWrite (loop core fn : Nat) (v : Word) (s : State) : State :=
  let c := s.ctx fn
  let stall := decide (loop < 0x2400)
  if look loop c.loopAt = some c.epoch || (if stall then c.ownBarstall else c.ownPoolwait).contains core then s
  else
    let old := s.core core
    let s := if stall then noteOutside core 0x400 old.barstall.toNat (writeBarstall core v s)
      else noteOutside core 0x401 old.poolwait.toNat (s.modCore core (fun c => { c with poolwait := v }))
    s.modCtx fn (fun c => { c with loopAt := put loop c.epoch c.loopAt })

/-- Where a loop that acts comes to: towards its setpoint, as far as a value at most (in part DEDUCED, log 67). -/
def loopNext (cur set : Nat) (v : Word) : Word := BitVec.ofNat 32 (max (min cur set) (min v.toNat (max cur set)))

/-- The core of a BARSTALL or POOLWAIT loop. -/
def loopCore (loop : Nat) : Nat := if loop < 0x2400 then (loop - 0x1C00) / 8 else (loop - 0x2400) / 8

/-- CUR of a loop register (R423): of a core's BARSTALL and POOLWAIT, what the core's register holds. -/
def loopCur (s : State) (off : Nat) : Word :=
  if off < 0x1C00 then (s.loop off).cur
  else if off < 0x2400 then (s.core (loopCore off)).barstall
  else (s.core (loopCore off)).poolwait

/-- ADAPTIVE_LOOP_ACTION (R423): the register at an offset acts. An equaliser has 64 steps. A section's clock moves at
checkpoints only (R424) (in part DEDUCED, log 67). -/
def execAdaptiveLoopAction (loop : Nat) (value : DWord) (s : State) : Out1 :=
  let l := s.loop loop
  let v := loopNext (loopCur s loop).toNat l.set.toNat (loWord value)
  if !isLoop loop || !l.en || decide (loop < 0x1200) then .next s
  else if loop < 0x1C00 then .next (s.setLoop loop { l with cur := v % 64 })
  else
    match runningOn s (loopCore loop) with
    | none => .next s
    | some fn => .next (loopWrite loop (loopCore loop) fn v s)

/-! ### Bluord (R410) -/

/-- The flit's check, and its fields. -/
def flitOk (f : BitVec 256) : Bool := f.extractLsb' 240 16 = Config.bluordCrc (f.extractLsb' 0 240)
def flitKind (f : BitVec 256) : Nat := (f.extractLsb' 236 4).toNat
def flitCid (f : BitVec 256) : Nat := (f.extractLsb' 196 16).toNat
def flitData (f : BitVec 256) : Nat := (f.extractLsb' 192 4).toNat
/-- The unit and the tag of the request that a flit is, or answers: 2^14 x unit + tag. -/
def flitTag (f : BitVec 256) : Nat := (f.extractLsb' 212 24).toNat
/-- The link could not deliver a flit: the contexts whose CID it carries take MEM_UNCORRECTABLE
(in part DEDUCED, log 72). -/
def linkFault (cid : Nat) (s : State) : State :=
  ((s.ctxs.filter (fun p => p.2.live && ownsCid s p.1 cid)).map (·.1)).foldl
    (fun s fn => raiseHalt fn fMemUncorrectable 0xFFFF [] s) s

/-- A replay buffer without a flit, the oldest of those that are alike; and how often a flit in it has been sent again. -/
def unbuffer (f : BitVec 256) : List (BitVec 256 × Nat) → List (BitVec 256 × Nat)
  | [] => []
  | p :: l => if p.1 = f then l else p :: unbuffer f l
def replaysOf (f : BitVec 256) (l : List (BitVec 256 × Nat)) : Nat := ((l.find? (fun p => p.1 = f)).map (·.2)).getD 0

/-- A flit that failed its check: it is counted and stays in its sender's replay buffer to be sent again, on a lane that
is in service; a lane that keeps failing is retired; after 64 replays of the flit its access faults, which is that of its
header flit where it is a data flit. -/
def replayFlit (die lane : Nat) (f : BitVec 256) (s : State) : State :=
  let n := (look lane (s.die die).failing).getD 0 + 1
  let r := replaysOf f (s.die (1 - die)).buffer + 1
  let due := (s.die die).dataDue
  let s := countError (laneUnit die lane) true s
  let s := s.modDie die (fun d => { d with replays := d.replays + 1, failing := put lane n d.failing })
  let s := s.modDie (1 - die) (fun d => { d with buffer := unbuffer f d.buffer ++ [(f, r)] })
  let s := if Config.laneFailures die < n then
      s.modDie die (fun d => { d with lanesLost := distinct (d.lanesLost ++ [lane]) })
    else s
  if 64 < r then
    linkFault (flitCid (if due = 0 then f else (s.die die).header)) (countError (laneUnit die lane) false
      ((s.modDie (1 - die) (fun d => { d with buffer := unbuffer f d.buffer })).modDie die (fun d => { d with dataDue := 0 })))
  else s

/-- A die has a sound flit: a data flit; a request, which waits for its answer, unless one with its unit and tag does
already; an acknowledgement or data return, which goes to the unit and tag of the request that it answers; or a credit. A
flit that no request awaits, and a reserved KIND, goes nowhere (in part DEDUCED, log 72). -/
def takeFlit (die : Nat) (f : BitVec 256) (s : State) : State :=
  if (s.die die).dataDue != 0 then s.modDie die (fun d => { d with dataDue := d.dataDue - 1 })
  else
    let s := s.modDie die (fun d => { d with dataDue := if flitData f = 4 then 4 else 0, header := f })
    let kind := flitKind f
    if kind < 3 || kind = 5 then
      if (s.die die).asked.contains (flitTag f) then s
      else
        (s.modDie die (fun d => { d with asked := d.asked ++ [flitTag f] })).modDie (1 - die)
          (fun d => { d with answers := drop (flitTag f) d.answers })
    else if (kind = 3 || kind = 4) && (s.die (1 - die)).asked.contains (flitTag f) then
      (s.modDie (1 - die) (fun d => { d with asked := d.asked.erase (flitTag f) })).modDie die
        (fun d => { d with answers := put (flitTag f) (f.extractLsb' 0 192) d.answers })
    else s

/-- A sound flit has come over a lane: it is acknowledged, and leaves its sender's replay buffer. -/
def deliverFlit (die lane : Nat) (f : BitVec 256) (s : State) : State :=
  (s.modDie die (fun d => { d with delivered := d.delivered + 1, failing := drop lane d.failing })).modDie (1 - die)
    (fun d => { d with buffer := unbuffer f d.buffer })

/-- BLUORD_FLIT (R410): a flit arrives at a die on a lane in service. What a sound request asks for is done by the
steps of the accesses themselves (in part DESIGN CHOICE, log 17). -/
def execBluordFlit (die lane : Nat) (flit : Flit) (s : State) : Out1 :=
  if 2 ≤ die || 184 ≤ lane || (s.die die).lanesLost.contains lane then .next s
  else if flitOk flit.got then .next (takeFlit die flit.got (deliverFlit die lane flit.held s))
  else .next (replayFlit die lane flit.held s)

end Sys2Proof.Machine
end

