-- ==== Sys2Proof/Machine/Manage.lean ====
section
/-! DEFINITION. What the management function answers: state read back (R425), SPDM (R406), and the live
hand-over of firmware (R407). -/

namespace Sys2Proof.Machine

/-! ### Objects (R425) -/

/-- What the page request queue's object holds. -/
def pageQueueBytes (d : Die) : List Byte :=
  d.pageReqs.flatMap (fun p => toBytes 4 p.1 ++ toBytes 2 p.2.fn ++ toBytes 2 p.2.cid ++ toBytes 1 p.2.stage
    ++ toBytes 8 p.2.page ++ toBytes 1 p.2.kind ++ toBytes 1 (one p.2.reserved))

/-- What a health record's object holds. -/
def healthBytes (h : Health) : List Byte :=
  toBytes 4 h.corrected ++ toBytes 4 h.errors ++ toBytes 4 h.state ++ toBytes 4 h.outcome

/-- Whether a number is a health unit's (DEDUCED, log 24): R410's units, channels, ports, Bluord lanes. -/
def isUnit (u : Nat) : Bool :=
  decide (u < 906) || (decide (0x1000 ≤ u) && decide (u < 0x1100)) || (decide (0x2000 ≤ u) && decide (u < 0x2008))
    || (decide (0x3000 ≤ u) && decide (u < 0x3000 + 368)) || (decide (0x4000 ≤ u) && decide (u < 0x4000 + Config.slices))

/-- The function whose running context an object of a kind that is never read in part belongs to. -/
def objectOwner (s : State) (v : DWord) : Option Nat :=
  let i := rbIndex v
  let fn? : Option Nat :=
    if rbKind v = 1 || rbKind v = 2 then
      if i < 64 then runningOn s (4 * i) else none
    else if rbKind v = 3 then (queueNumbered s.vfs i).map (· / 256)
    else if rbKind v = 6 || rbKind v = 7 then some i
    else none
  fn?.bind (fun fn => if onPartition s fn then some fn else none)

/-- An object as it is now; none where KIND is reserved or INDEX names nothing. -/
def objectNow (s : State) (v : DWord) : Option (List Byte) :=
  let k := rbKind v
  let i := rbIndex v
  let ctx (f : Context → List Byte) : Option (List Byte) := if (s.ctx i).live then some (f (s.ctx i)) else none
  if k = 1 then if i < 64 then some (holderImage s i ++ quadrantBytes (s.sect i)) else none
  else if k = 2 then if i < 64 then some (sequencerBytes (s.sect i)) else none
  else if k = 3 then
    ((queueNumbered s.vfs i).bind (fun q => look q s.queues)).bind (fun q =>
      if q.kind = 2 then some (Config.readbackForm 3 (taskQueueBytes q)) else none)
  else if k = 4 then
    if i < 256 then
      some (Config.readbackForm 4 (toBytes 4 (poolstat s i)
        ++ (s.core i).waitList.flatMap (fun r => toBytes 4 r.thread ++ toBytes 4 (one r.scratch) ++ toBytes 4 r.asked)))
    else none
  else if k = 5 then ctx (fun c => memRead s.mem c.stopArea.toNat 115200)
  else if k = 6 then ctx (fun c => undoBytes s i c.undo)
  else if k = 7 then ctx (fun c => orderBytes c.orderLog)
  else if k = 8 then if i < 2 then some (Config.readbackForm 8 (pageQueueBytes (s.die i))) else none
  else if k = 9 then if isUnit i then some (Config.readbackForm 9 (healthBytes (s.unitHealth i))) else none
  else if k = 10 then if i = 0 then some (toBytes 8 (bootstat s.boot).toNat) else none
  else none

/-- A dump (R359): the state image of a retained checkpoint, the latest or the one before it, as it was written into the
save area. No KIND of R425 names one (in part DEDUCED, log 25). -/
def dumpOf (s : State) (fn : Nat) (older : Bool) : Option (List Byte) :=
  ((s.ctx fn).images.drop (one older)).head?.map (·.bytes)

/-! ### Registers (R382, R391, R392, R395, R421, R423) -/

/-- VFSTAT (R391): STATE, and the last fault code; 0xF1 while a refused write of VFBAND is the last (R401). -/
def vfstat (v : VF) : Word := BitVec.ofNat 32 (v.state % 16 + 2 ^ 8 * (if v.bandBad then 0xF1 else v.code % 256))

/-- A word of a function's register block (R391): a register of 32 bits fills half of one. -/
def blockRead (s : State) (fn off : Nat) : DWord :=
  let v := s.vf fn
  if off = 0 then v.ctl
  else if off = 0x08 then v.sect
  else if 0x10 ≤ off && off < 0x30 then nth 0 ((off - 0x10) / 8) v.chan
  else if off = 0x30 then BitVec.ofNat 64 v.qmax.toNat
  else if off = 0x34 then BitVec.ofNat 64 v.band.toNat
  else if off = 0x38 then BitVec.ofNat 64 (sliceOfVf s fn)
  else if off = 0x3C then BitVec.ofNat 64 (vfstat v).toNat
  else 0

/-- A word of a function's endpoint block (R392). -/
def endpointRead (s : State) (fn off : Nat) : DWord :=
  let v := s.vf fn
  if off = 0 then v.addr.setWidth 64
  else if off = 8 then (v.addr >>> 64).setWidth 64
  else if off = 0x10 then BitVec.ofNat 64 v.job.toNat
  else if off = 0x14 then BitVec.ofNat 64 (fn % 2 ^ 12)
  else 0

/-- A loop register (R423). -/
def loopRead (s : State) (off : Nat) : DWord :=
  let v := s.loop off
  BitVec.ofNat 64 (one v.en + 2 * v.set.toNat + 2 ^ 32 * (loopCur s off).toNat)

/-- What the management function reads at an offset of its space; STATESZ of the function that it asks for. A register
that is only written reads 0 (in part DESIGN CHOICE, log 26). -/
def mgmtRead (s : State) (fn off : Nat) : DWord :=
  if off = 0 then bootstat s.boot
  else if off = 0x100 then Config.stateSize (sectionsOf (s.vf fn).sect).length
  else if off = 0x300 then s.rbAddr
  else if isLoop off then loopRead s off
  else if 0x8000 ≤ off && off < 0x10000 then endpointRead s ((off - 0x8000) / 0x20) (off % 0x20)
  else if 0x10000 ≤ off && off < 0x10000 + 0x80 * Config.functions then
    blockRead s ((off - 0x10000) / 0x80) (off % 0x80)
  else 0

/-- The engine counters of a core's Copy Engine, a section's Matrix Engine and Step Sequencer, and a partition's Task
Queue Controller and Network Engine on a die, as they are read (R366). -/
def engineCounters (s : State) (core sect die part : Nat) : List Word × List Word × List Word :=
  ((s.core core).engStalls, (s.sect sect).engStalls,
    (look part (s.die die).engStalls).getD (List.replicate 16 0))

/-- RBCMD_WRITE (R425): a read begins. Of a running context it asks for a checkpoint first; while a read is in
progress another is ignored (in part DEDUCED, log 72). -/
def execRbcmdWrite (value : DWord) (s : State) : Out1 :=
  .next (viaMgmt (fun s =>
    if s.rbPending.isSome then s
    else
      match objectOwner s value with
      | some fn => { requestCkpt fn 6 s with rbPending := some ⟨s.rbAddr, value, some fn, none⟩ }
      | none => { s with rbPending := some ⟨s.rbAddr, value, none, objectNow s value⟩ }) s)

/-- Whether a read waits for the checkpoint it asked for: until it forms or lapses. -/
def rbWaits (s : State) (r : Readback) : Bool :=
  r.owner.any (fun fn => asksCkpt s fn 6)

/-- READBACK_DELIVER (R425): the object and the event, or the event alone with status 0xFF. -/
def execReadbackDeliver (s : State) : Out1 :=
  match s.rbPending with
  | none => .next s
  | some r =>
    if rbWaits s r then .next s
    else
      let b := match r.owner with
        | some fn => imageObject s fn r.cmd
        | none => r.bytes
      let s := { s with rbPending := none }
      let what := rbKind r.cmd + rbIndex r.cmd * 2 ^ 16
      match b with
      | some b => .next (reportEvent 0 7 0 what 0 { s with out := s.out ++ [.hostWrite r.addr b] })
      | none => .next (reportEvent 0 7 0xFF what 0 s)

/-! ### SPDM (R406) -/

/-- Answer the oldest request: a response with a code, algorithms, blocks, and what the manual leaves to the responder.
Nothing is answered where none has arrived (in part PRESUMED, log 16). -/
def respond (code : Nat) (algs : List SpdmAlg) (blocks : List Byte → List (Nat × List Byte)) (ok : Bool)
    (next : Spdm → Spdm) (s : State) : Out1 :=
  match s.spdm.inbox with
  | [] => .next s
  | r :: rest =>
    let (n, s) := s.fresh
    let p := { s.spdm with inbox := rest }
    if ok then .next { s with spdm := next p, out := s.out ++ [.spdm code algs (blocks r) (Config.spdmRest n)] }
    else .next { s with spdm := p, out := s.out ++ [.spdm 0x7F [] [] (Config.spdmRest n)] }

/-- How far the connection is: 1 versions, 2 capabilities, 3 algorithms exchanged
(in part PRESUMED, log 16). -/
def spdmAt (s : State) (n : Nat) : Bool := decide (n ≤ s.spdm.phase)

/-- SPDM_GET_VERSION (R406): a connection begins anew. -/
def execSpdmGetVersion (s : State) : Out1 :=
  respond 0x04 [] (fun _ => []) true (fun p => { p with phase := 1, session := false, keyExchanged := false }) s
/-- SPDM_GET_CAPABILITIES (R406). -/
def execSpdmGetCapabilities (s : State) : Out1 :=
  respond 0x61 [] (fun _ => []) (spdmAt s 1) (fun p => { p with phase := max 2 p.phase }) s
/-- The algorithms that the responder selects (R406). -/
def algorithms : List SpdmAlg := [.ecdsaP384, .sha384, .aes256Gcm]

/-- SPDM_NEGOTIATE_ALGORITHMS (R406). -/
def execSpdmNegotiateAlgorithms (s : State) : Out1 :=
  respond 0x63 algorithms (fun _ => []) (spdmAt s 2) (fun p => { p with phase := 3 }) s
/-- SPDM_GET_DIGESTS (R406). -/
def execSpdmGetDigests (s : State) : Out1 := respond 0x01 [] (fun _ => []) (spdmAt s 3) id s
/-- SPDM_GET_CERTIFICATE (R406). -/
def execSpdmGetCertificate (s : State) : Out1 := respond 0x02 [] (fun _ => []) (spdmAt s 3) id s
/-- SPDM_CHALLENGE (R406). -/
def execSpdmChallenge (s : State) : Out1 := respond 0x03 [] (fun _ => []) (spdmAt s 3) id s

/-- The measurement blocks (R406, R407): all of them describe one state of the firmware. A measurement is the 48
bytes of a SHA-384. -/
def measurements (f : Firmware) : List (Nat × List Byte) :=
  [(1, toBytes 8 f.version.toNat), (2, bytesAt 0 48 f.measurement), (3, toBytes 1 (one f.pending.isSome))]
    ++ (match f.pending with
      | some p => [(4, toBytes 8 p.1.toNat), (5, bytesAt 0 48 p.2)]
      | none => [])

/-- The blocks that a request asks for: its byte 3 is 0xFF for all, else an index
(in part PRESUMED, log 16). -/
def askedBlocks (f : Firmware) (r : List Byte) : List (Nat × List Byte) :=
  if valAt 3 1 r = 0xFF then measurements f else (measurements f).filter (fun b => b.1 = valAt 3 1 r)

/-- SPDM_GET_MEASUREMENTS (R406, R407). -/
def execSpdmGetMeasurements (s : State) : Out1 := respond 0x60 [] (askedBlocks s.firmware) (spdmAt s 3) id s
/-- SPDM_KEY_EXCHANGE (R406). -/
def execSpdmKeyExchange (s : State) : Out1 :=
  respond 0x64 [] (fun _ => []) (spdmAt s 3) (fun p => { p with keyExchanged := true }) s
/-- SPDM_FINISH (R406): a session is open. -/
def execSpdmFinish (s : State) : Out1 :=
  respond 0x65 [] (fun _ => []) s.spdm.keyExchanged (fun p => { p with session := true, keyExchanged := false }) s
/-- SPDM_END_SESSION (R406). -/
def execSpdmEndSession (s : State) : Out1 :=
  respond 0x6C [] (fun _ => []) s.spdm.session (fun p => { p with session := false }) s

/-! ### Firmware hand-over (R407) -/

/-- FIRMWARE_HANDOVER_LOAD (R407): the incoming image stands beside the running one
(in part DEDUCED, log 72). -/
def execFirmwareHandoverLoad (version : DWord) (measurement : List Byte) (s : State) : Out1 :=
  .next { s with firmware := { s.firmware with pending := some (version, measurement) } }

/-- FIRMWARE_HANDOVER_COMMIT (R407): queues, contexts and keys stay as they are. Foreman threads that run stop at their
next wait packets and go on from there under the new firmware; the others do so at once (in part DEDUCED, log 72). -/
def execFirmwareHandoverCommit (s : State) : Out1 :=
  match s.firmware.pending with
  | none => .next s
  | some p => .next { s with
      firmware := ⟨p.1, p.2, none⟩
      foreman := s.foreman.map (fun t => (t.1, { t.2 with outgoing := t.2.running })) }

end Sys2Proof.Machine
end

