-- ==== Sys2Proof/Machine/Issue.lean ====
section
/-! DEFINITION. Issue: which bundle a slot issues (R144, R163), the words it fetches, and what the passing of
partition cycles does (R5, R364, R366, R384). -/

namespace Sys2Proof.Machine

/-! ### Arbitration (R144, R151, R163) -/

/-- Whether a thread can be tried in this cycle: it waits for no other step, has not been tried, and neither
a checkpoint request in force nor its breakpoint nor the end of a replay holds it (R343, R358, R370). -/
def mayIssue (s : State) (k : Nat) (t : Thread) : Bool :=
  t.wait.isNone && !t.polled && !((s.ctx t.fn).ckpt.isSome && gathered s k t) && !atBreakpoint s k t
    && !atReplayEnd s k t

/-- A bundle that can be tried: the bundle and those of its threads that can be, at one program counter; whether
it is paused, its level, since when it is ready. -/
structure Candidate where
  bundle : List Nat
  here : List Nat
  paused : Bool
  level : Nat
  since : Nat
  deriving DecidableEq, Repr

/-- The candidate that a bundle is, if any thread of it can be tried. Its level is the highest among those threads
(in part DEDUCED, log 87). -/
def candidateOf (s : State) (b : List Nat) : Option Candidate :=
  let l := b.filterMap (fun k => (look k s.threads).bind (fun t => if mayIssue s k t then some (k, t) else none))
  match l with
  | [] => none
  | (_, t0) :: _ =>
    let l := l.filter (fun p => p.2.pc = t0.pc && p.2.pauseTill.isSome == t0.pauseTill.isSome)
    some { bundle := b, here := l.map (·.1), paused := t0.pauseTill.isSome
           level := l.foldl (fun m p => max m (((look p.2.wg s.wgs).map (·.level)).getD 0)) 0
           since := l.foldl (fun m p => min m p.2.readySince) t0.readySince }

/-- The order in which a slot prefers candidates: unpaused before paused, the higher level, the older, the
lower warp position, the lower home lane; the first thread of a bundle is that of its lowest home lane
(in part DEDUCED, log 87). -/
def Candidate.rank (c : Candidate) : List Nat :=
  [one c.paused, 64 - c.level, c.since, wposOf (c.bundle.headD 0), laneOf (c.bundle.headD 0)]

/-- Lexicographic order. -/
def lexLt : List Nat → List Nat → Bool
  | a :: l, b :: m => decide (a < b) || (a = b && lexLt l m)
  | _, _ => false

/-- The first in an order. -/
def best : List Candidate → Option Candidate
  | [] => none
  | c :: l =>
    match best l with
    | none => some c
    | some m => if lexLt m.rank c.rank then some m else some c

/-- The bundles of a slot of a core that can still be tried in this cycle. -/
def slotBundles (s : State) (core slot : Nat) : List Candidate :=
  if ((runningOn s core).map (engineOn s)).getD false && decide ((s.core core).slotNext ≤ slot) then
    ((s.core core).bundles.filter (fun b => b.any (fun k => slotOf k = slot))).filterMap (candidateOf s)
  else []

/-- The candidates of a slot of a core: slots act in ascending order (R151), and each that can issue does
(R163). -/
def candidates (s : State) (core slot : Nat) : List Candidate :=
  if (upto slot).all (fun n => (slotBundles s core n).isEmpty) then slotBundles s core slot else []

/-- A thread of a slot whose trap still has to be taken: its handler-table entry can be read again. -/
def trapDue (s : State) (core slot : Nat) : Option (Nat × PendingTrap) :=
  (s.threads.filter (fun p => coreOf p.1 = core && slotOf p.1 = slot && mayIssue s p.1 p.2)).findSome?
    (fun p => p.2.trapping.map (p.1, ·))

/-- What a slot does: take a trap left over, or issue an instruction; nothing where it has no candidate. -/
inductive Issued where
  | nothing
  | trap (s : State)
  | instr (i : Instr) (s : State)

/-- The threads of a bundle fetch the instruction at their program counter: those that receive the words that
the first receives issue it (R26, R145). -/
def fetchBundle (t : Thread) (ks : List Nat) (s : State) : Instr × State :=
  match ks with
  | [] => (instrOf (.inr []), { s with issue := [] })
  | k :: rest =>
    let (w, s) := fetchInstr k t.fn t.pc.toNat s
    let (l, s) := fetchOthers t.fn t.pc.toNat w rest s
    (instrOf w, { s with issue := k :: l })

/-- The slot issues: the instruction at the program counter of the threads that can be tried is fetched (R26,
R143); a line of it that fails its integrity check is a context fault (R402). -/
def issueNext (core slot : Nat) (s : State) : Issued :=
  match trapDue s core slot with
  | some (k, p) => .trap (takeTrap k p (s.modThread k (fun t => { t with trapping := none })))
  | none =>
    match best (candidates s core slot) with
    | none => .nothing
    | some c =>
      match look (c.here.headD 0) s.threads with
      | none => .nothing
      | some t =>
        match codeForeign s (c.here.headD 0) t.fn t.pc.toNat with
        | some x => .trap (coreIntegrity (c.here.headD 0) x s)
        | none =>
          let (i, s) := fetchBundle t c.here s
          .instr i s

/-- Each bundle of a core as its threads' program counters have split it (R143). -/
def splitCore (s : State) (c : Core) : Core := { c with bundles := c.bundles.flatMap (splitBundle s []) }
/-- The same for every core, after a device step. -/
def splitCores (s : State) : State := { s with cores := s.cores.map (fun p => (p.1, splitCore s p.2)) }

/-! ### Reading ahead (R25) -/

/-- Where the run goes on after an instruction at an address; none where pre-decode stops: at a branch that is not
an unguarded direct one, at a loop, a call, a return, a wait that may go on elsewhere, and at an EXIT. -/
def runNext (pc : Nat) (len : Nat) (i : Instr) : Option Nat :=
  match i with
  | .bra f => if f.gp = 7 && !f.gn then some (relative (BitVec.ofNat 64 pc) (braDisp f)) else none
  | .call _ | .brx _ | .callx _ | .ret _ | .loop _ | .endl _ | .exit _ | .suspend _ | .vswpt _ | .tret _
  | .trap _ | .bkpt _ | .illegalInstruction _ | .fetchFault _ _ _ => none
  | _ => some (pc + len)

/-- A fetch path holds words, of the run ahead or of a lane. -/
def holdWords (k : Nat) (stream : Bool) (ws : List CodeWord) (s : State) : State :=
  s.modCore (coreOf k) (fun c =>
    if stream then { c with runs := setNth (keptWords ws (nth [] (slotOf k) c.runs) ++ ws) (slotOf k) c.runs }
    else { c with
      loopBufs := put (slotLane k) (bufferWords ws ((look (slotLane k) c.loopBufs).getD [])) c.loopBufs })

/-- A thread's fetch unit reads up to `n` instructions of the run that its program counter is certain to reach,
from an address on. A read that fails stops it and raises nothing (R25). -/
def readRun (k fn : Nat) (stream : Bool) : Nat → Nat → State → State
  | 0, _, s => s
  | n + 1, pc, s =>
    if (codeForeign s k fn pc).isSome then s
    else
    match pathInstr k fn stream pc s with
    | (.inl _, _) => s
    | (.inr l, s) =>
      let s := holdWords k stream (l.filter (fun w => !(pathWords s k stream).contains w)) s
      match runNext pc (8 * l.length) (instrOf (bareWords (.inr l))) with
      | none => s
      | some a => readRun k fn stream n a s

/-- How far and when a fetch unit reads ahead is a turn's choice (R25) (DESIGN CHOICE, log 7). -/
def readAhead (k n : Nat) (s : State) : State :=
  match look k s.threads with
  | none => s
  | some t =>
    if engineOn s t.fn then readRun k t.fn (onStream s k t.pc.toNat) n t.pc.toNat s else s

/-! ### Stall counters (R364) -/

/-- How a thread stood in a cycle: ready (R163), held for a reason of R364, or suspended, which counts as
nothing. -/
inductive Stand where
  | ready
  | held (reason : Nat)
  | apart
  deriving DecidableEq, Repr

/-- How a thread that waits for another step stands: a parked one counts reason 15, whatever access it is parked for
(R209) (in part DEDUCED, log 70). -/
def waitStand : Wait → Stand
  | .suspended _ _ _ _ => .apart
  | .barrier _ | .barrierAgain _ _ _ | .vswpt _ => .held 10
  | .pool _ _ => .held 2
  | _ => .held 15

/-- How a thread that waits stands: at a switch point whose switch is under way it waits for the loads of its
workgroup, then for the scratchpad (R299). -/
def threadWait (s : State) (t : Thread) (w : Wait) : Stand :=
  match w with
  | .vswpt id =>
    if ((look t.wg s.wgs).map (fun g => g.vsw.any (fun p => p.id = id && p.target.isSome))).getD false then
      .held (if (s.threadsOf t.wg).any (fun p => p.2.ld != 0) then 4 else 15)
    else waitStand w
  | _ => waitStand w

/-- The counter that rises for a workgroup that issues nothing, given how its threads stood. -/
def reasonOf (l : List Stand) : Nat :=
  if l.contains .ready then 0
  else (l.filterMap (fun x => match x with
    | .held r => some r
    | _ => none)).foldl (fun m r => min m r) 15

/-- Raise a saturating counter of a list. -/
def bump (i : Nat) (l : List Word) : List Word :=
  let v := nth 0 i l
  setNth (if v = 0xFFFFFFFF then v else v + 1) i l

/-- A cycle's stall of a workgroup; its share of issue in the cycle is forgotten. -/
def countWg (s : State) (fn : Nat) (stand : Nat → Thread → Stand) (p : Nat × Workgroup) : Nat × Workgroup :=
  if p.2.fn != fn then p
  else if p.2.issuedNow || !wgLive s p.1 then (p.1, { p.2 with issuedNow := false })
  else (p.1, { p.2 with stalls := bump (reasonOf ((s.threadsOf p.1).map (fun q => stand q.1 q.2))) p.2.stalls })

/-! ### Engine counters (R366) -/

/-- The cause of R366 for which a head command does not advance; none for one that leaves its queue next. -/
def headCause (s : State) (fn : Nat) (h : QRef × Cmd) : Option Nat :=
  let c := h.2
  if c.done.isSome then if cqFull s h.1 c then some 4 else none
  else if c.parked.isSome || c.why = 1 || c.why = 8 || (c.begun && logSpent s fn) then some 1
  else if guardHeld s h.1 c then some 2
  else if c.fence.isSome then some 3
  else if c.why = 4 then some 4
  else if c.why = 5 || (!c.begun && !storesDone s c) then some 5
  else some 6

/-- The cause that a unit, with its place in the stop area and its queues, counts in a cycle; none when it has
advanced a head in it (in part DEDUCED, log 70). -/
def unitCause (s : State) (fn agent : Nat) (qs : List QRef) : Option Nat :=
  let c := s.ctx fn
  let heads := qs.filterMap (fun q => (queueOf s q).head?.map (fun x => (q, x)))
  if c.advanced.contains agent then none
  else if c.halt.isSome || (c.ckpt.isSome && qs.all (engineHolds s)) then some 0
  else if heads.isEmpty then some 7
  else (heads.filterMap (headCause s fn)).min?

/-- Count a unit's cycle in counters that start at `lo` of a list. -/
def countUnit (s : State) (fn lo agent : Nat) (qs : List QRef) (l : List Word) : List Word :=
  match unitCause s fn agent qs with
  | none => l
  | some i => bump (lo + i) l

/-- The queues that a core's Copy Engine channels serve, and a section's and a die's engines. -/
def channelQueues (s : State) (core ch : Nat) : List QRef :=
  (s.wgs.filter (fun p => p.2.core = core)).map (fun p => if ch = 0 then .cp0 p.1 else .cp1 p.1)
def sectQueues (s : State) (sect : Nat) (mx : Bool) : List QRef :=
  match (s.sect sect).holder with
  | none => []
  | some c => [if mx then .mx c else .sq c]
def dieQueues (s : State) (fn die : Nat) (tk : Bool) : List QRef :=
  (s.wgs.filter (fun p => p.2.fn = fn && dieOf p.2.core = die)).map (fun p => if tk then .tk p.1 else .ne p.1)

/-- A cycle of every engine unit of a partition. -/
def countEngines (fn : Nat) (s0 : State) : State :=
  let s := (partCores s0 fn).foldl (fun s i => s.modCore i (fun c => { c with
    engStalls := countUnit s0 fn 8 (384 + 2 * s0.coreNo fn i + 1) (channelQueues s0 i 1)
      (countUnit s0 fn 0 (384 + 2 * s0.coreNo fn i) (channelQueues s0 i 0) c.engStalls) })) s0
  let s := (partSections s0 fn).foldl (fun s i => s.modSect i (fun c => { c with
    engStalls := countUnit s0 fn 8 (320 + s0.sectNo fn i) (sectQueues s0 i false)
      (countUnit s0 fn 0 (256 + s0.sectNo fn i) (sectQueues s0 i true) c.engStalls) })) s
  let p := partitionOf s0 fn
  (distinct ((partCores s0 fn).map dieOf)).foldl (fun s i => s.modDie i (fun d =>
    let l := (look p d.engStalls).getD (List.replicate 16 0)
    let m := countUnit s0 fn 8 (898 + i) (dieQueues s0 fn i false)
      (countUnit s0 fn 0 (896 + i) (dieQueues s0 fn i true) l)
    { d with engStalls := put p m d.engStalls })) s

/-! ### A cycle (R5) -/

/-- A thread at the end of a cycle: it may be tried again, and one that was not ready is so from the next cycle
on at the earliest (R163); one that waits for a bank is ready. -/
def endThread (next : Nat) (x : Stand) (t : Thread) : Thread :=
  { t with polled := false, readySince := if x = .ready || x = .held 3 then t.readySince else next }

/-- The banks that the next cycle keeps for the slots that have waited for them: a slot that has waited goes before
those that come new, so that each waits as R184 says and R164's bound holds (in part DESIGN CHOICE, log 77). -/
def bankTurns (s : State) (core : Nat) : Tbl Nat :=
  let l := s.threads.filterMap (fun p => match p.2.stall with
    | some ⟨3, _, bank⟩ => if coreOf p.1 = core && p.2.polled then some (p.2.stallFrom.getD 0, slotOf p.1, bank) else none
    | _ => none)
  (sortBy (fun x => 4 * x.1 + x.2.1) l).foldl (fun b x => if (look x.2.2 b).isSome then b else put x.2.2 x.2.1 b) []

/-- One cycle of a function's partition passes, in which its threads stood as `stand` says. Counts of a halted
context stand still but for its engines'; the count clock stands still while a checkpoint request is in force
(R344) (in part DESIGN CHOICE, log 15, DEDUCED, log 71). -/
def passCycle (fn : Nat) (stand : Nat → Thread → Stand) (s : State) : State :=
  let on := engineOn s fn
  let next := (s.ctx fn).pcycle + 1
  let wgs := if on then s.wgs.map (countWg s fn stand) else s.wgs
  let threads := s.threads.map (fun p =>
    if p.2.fn = fn then (p.1, if on then endThread next (stand p.1 p.2) p.2 else { p.2 with polled := false }) else p)
  let turns (i : Nat) := bankTurns s i
  let s : State := { countEngines fn s with
    threads := threads, wgs := wgs }
  let s := (partCores s fn).foldl (fun s i => s.modCore i (fun c => { c with slotNext := 0, issuedNow := [], bankUse := turns i })) s
  let s := s.modCtx fn (fun c => { c with swrs := [], advanced := [], cycleOver := false })
  if on then
    let s := s.modCtx fn (fun c => { c with
      pcycle := next, clock := if c.ckpt.isNone then c.clock + 1 else c.clock })
    if replayOver s fn then raiseHalt fn 0 0xFFFF [] s else s
  else s

end Sys2Proof.Machine
end

