-- ==== Sys2Proof/Machine/Placed.lean ====
section
/-! DEFINITION. A thread that stands at an instruction: what a program loaded from outside comes to (DESIGN CHOICE, log 2).
Function 1 runs on section 0; one workgroup of one thread is resident on core 0. -/

namespace Sys2Proof.Machine

/-- The function, thread and workgroup, the program counter and the page it lies on. -/
def placedFn : Nat := 1
def placedPc : Nat := 0x400000

/-- A launch, a kernel and a spot of one thread with a frame of 192 words. -/
def placedLaunch : Launch :=
  ⟨placedFn, 0, 0, 1, 1, 1, 0, false, [], 0, List.replicate 16 0xFFFF, true, [], 1⟩
def placedKernel : Kernel := ⟨192, 1, none, 0, [⟨BitVec.ofNat 64 placedPc, 192, 2048, 1, 1, 1⟩]⟩

/-- The workgroup and the thread (in part DESIGN CHOICE, log 2). -/
def placedWg : Workgroup := newWg placedLaunch ⟨0, 0, 0, 0, 0, 0, 1, 1, 1⟩ placedKernel ⟨0, 0, [0]⟩ 0 0 0 0
/-- (in part DESIGN CHOICE, log 2). -/
def placedThread : Thread := newThread placedFn 0 0 false 0 192 192 (BitVec.ofNat 64 placedPc) 0

/-- The translation of the page of code (in part DESIGN CHOICE, log 2). -/
def placedTlb : TlbEntry := ⟨placedFn, placedPc / 4096, 12, placedPc, 0, true, true, true⟩

/-- Store the instruction of `nbits` bits `w` where a thread of a running context stands, and give that
thread's slot the next turn; the context has an undo log (in part DESIGN CHOICE, log 2). -/
def placeWord (s : State) (nbits w : Nat) : State :=
  let s := s.modVf placedFn (fun v => { v with ctl := v.ctl ||| 1, sect := 1, state := 2 })
  let s := s.modCtx placedFn (fun c => { c with
    live := true, running := true, halt := none, ckpt := none
    undoSize := 0x100000 })
  let s := s.modCore 0 (fun c => { c with
    bundles := [[0]], slotNext := 0, tlb := [placedTlb]
    icache := c.icache.filter (fun l => l.fn != placedFn) })
  { s with
    agenda := .issue 0 0 :: s.agenda
    threads := put 0 placedThread s.threads
    wgs := put 0 placedWg s.wgs
    cohorts := put 0 ⟨placedFn, 0, 0, 1, 0, 0, [0], List.replicate 16 0, [], []⟩ s.cohorts
    mem := memWrite s.mem placedPc (bytesOf 24 (w % 2 ^ nbits)) }

end Sys2Proof.Machine
end

