-- ==== Sys2Proof/Machine/Pair.lean ====
section
/-! DEFINITION. Pair words: two half instructions executed as one (R44-R47). -/

namespace Sys2Proof.Machine

/-- The kinds of half opcode (R46). -/
inductive HalfKind where
  /-- gd and gs. -/
  | two
  /-- gs only. -/
  | move
  /-- gd and IMM5. -/
  | immediate
  /-- IMM5 only. -/
  | load
  | nop
  deriving DecidableEq, Repr

/-- The kind of a half opcode; none when it is undefined (R46). -/
def halfKind (hop : BitVec 7) : Option HalfKind :=
  let n := hop.toNat
  if (1 ≤ n && n ≤ 8) || (16 ≤ n && n ≤ 20) then some .two
  else if n = 12 then some .move
  else if n = 13 then some .load
  else if (9 ≤ n && n ≤ 11) || n = 14 then some .immediate
  else if n = 31 then some .nop
  else none

/-- Whether a half reads HD, and whether it reads HS. -/
def readsHd (k : HalfKind) : Bool := k = .two || k = .immediate
def readsHs (k : HalfKind) : Bool := k = .two || k = .move
def usesImm5 (k : HalfKind) : Bool := k = .immediate || k = .load

/-- IMM5 is 0 where it is not used (R46). -/
def halfModOk (k : HalfKind) (h : Half) : Bool := usesImm5 k || h.imm5 = 0

/-- The register fields and marks of a half in a frame of `fsize` registers (R44, R46, R49). -/
def halfOpOk (fsize : Nat) (k : HalfKind) (h : Half) : Bool :=
  if k = .nop then h.hd = 0xF8#8 && h.hs = 0xF8#8 && !h.lud && !h.lus && !h.ht
  else
    regClass h.hd = .g && decide (h.hd.toNat < fsize) && (readsHd k || !h.lud)
      && (if readsHs k then
            (regClass h.hs = .g && decide (h.hs.toNat < fsize)) || (regClass h.hs = .zr && !h.lus)
          else h.hs = 0xF8#8 && !h.lus)

/-- The bank rule of R45. -/
def banksOk (a b : Half) (ka kb : HalfKind) : Bool :=
  ka = .nop || kb = .nop
    || (a.hd.toNat % 4 != b.hd.toNat % 4
        && (regClass a.hs != .g || regClass b.hs != .g || a.hs.toNat % 4 != b.hs.toNat % 4))

/-- An encoding trap of a pair word (R51). -/
def pairTrap (cause : Nat) (second : Bool) : TrapReq := ⟨cause, 0, 0, false, true, second⟩

/-- The encoding trap of a pair word whose half opcodes are defined (R50). -/
def pairCheck (a b : Half) (ka kb : HalfKind) (fsize : Nat) : Option TrapReq :=
  if !halfModOk ka a then some (pairTrap cIllegalModifier false)
  else if !halfModOk kb b then some (pairTrap cIllegalModifier true)
  else if !halfOpOk fsize ka a then some (pairTrap cIllegalOperand false)
  else if !halfOpOk fsize kb b then some (pairTrap cIllegalOperand true)
  else if !banksOk a b ka kb then some (pairTrap cIllegalPair false)
  else none

/-- The sources of a half: HD, then HS. -/
def halfReads (k : HalfKind) (h : Half) : List (BitVec 8 × Nat) :=
  (if readsHd k then [(h.hd, 1)] else []) ++ (if readsHs k then [(h.hs, 1)] else [])

/-- The marked sources of a half. -/
def halfMarks (h : Half) : List Nat :=
  (if h.lud then [h.hd.toNat] else []) ++ (if h.lus then [h.hs.toNat] else [])

def halfNamed (k : HalfKind) (h : Half) : List Nat :=
  if k = .nop then [] else [h.hd.toNat] ++ (if readsHs k && regClass h.hs = .g then [h.hs.toNat] else [])

def halfWrites (k : HalfKind) (h : Half) : List (BitVec 8 × Nat × Bool) :=
  if k = .nop then [] else [(h.hd, 1, h.ht)]

/-- The value of a half from its operands, and its exceptions (R46): `a` is HD, `b` is HS. -/
def halfValue (h : Half) (rm a b : Nat) : Nat × Exc :=
  let n := h.hop.toNat
  let im := h.imm5.toNat
  let sa := sextInt 32 a
  let sb := sextInt 32 b
  let int (x : Int) : Nat × Exc := (wrapNat 32 x, .none)
  if n = 1 then int (sa + sb) else if n = 2 then int (sa - sb) else if n = 3 then int (sa * sb)
  else if n = 4 then int (min sa sb) else if n = 5 then int (max sa sb)
  else if n = 6 then (a &&& b, .none) else if n = 7 then (a ||| b, .none)
  else if n = 8 then (a ^^^ b, .none)
  else if n = 9 then (shiftLeft 32 a im, .none) else if n = 10 then (shiftRight 32 a im, .none)
  else if n = 11 then (shiftArith 32 a im, .none)
  else if n = 12 then (b, .none) else if n = 13 then int (sextInt 5 im)
  else if n = 14 then int (sa + sextInt 5 im)
  else if n = 16 then fpAdd fmtF32 rm false a b else if n = 17 then fpSub fmtF32 rm false a b
  else if n = 18 then fpMul fmtF32 rm false a b else if n = 19 then fpMinMax fmtF32 false false a b
  else if n = 20 then fpMinMax fmtF32 true false a b
  else (0, .none)

/-- A half's operands among the sources of the pair, from position `i`. -/
def halfArgs (k : HalfKind) (l : List Nat) (i : Nat) : Nat × Nat :=
  if k = .move then (0, nth 0 i l) else (nth 0 i l, nth 0 (i + 1) l)

/-- The form of a legal pair. -/
def pairForm (a b : Half) (ka kb : HalfKind) : Form :=
  { len := 8, guard := (7, false), stop := false, check := pairCheck a b ka kb
    reads := halfReads ka a ++ halfReads kb b, imm := []
    writes := halfWrites ka a ++ halfWrites kb b
    marks := halfMarks a ++ halfMarks b, named := halfNamed ka a ++ halfNamed kb b }

/-- Both halves read, then both write; FP_ENABLED is taken once, after both (R47). -/
def pairBody (a b : Half) (ka kb : HalfKind) : Body := fun k t l s =>
  let rm := fstatRM t.fstat
  let x := halfArgs ka l 0
  let y := halfArgs kb l (halfReads ka a).length
  let va := halfValue a rm x.1 x.2
  let vb := halfValue b rm y.1 y.2
  let vs := (if ka = .nop then [] else [va.1]) ++ (if kb = .nop then [] else [vb.1])
  let e := va.2.or vb.2
  let s := s.modThread k (fun t => { t with fstat := raiseFlags e t.fstat })
  if trapsFp e t.fstat then .after ⟨cFpEnabled, 0, 0, true, true, !trapsFp va.2 t.fstat⟩ vs s
  else .done vs s

/-- PAIR_WORD (R44-R47) (in part DEDUCED, log 34). -/
def execPairWord (a b : Half) (s : State) : Out1 :=
  match halfKind a.hop, halfKind b.hop with
  | none, _ => .next (trapEncoding 8 (pairTrap cIllegalInstruction false) s)
  | _, none => .next (trapEncoding 8 (pairTrap cIllegalInstruction true) s)
  | some ka, some kb => answer (pairForm a b ka kb) (pairBody a b ka kb) s

end Sys2Proof.Machine
end

