-- ==== Sys2Proof/Machine/Dispatch.lean ====
section
/-! DEFINITION. One arm for each instruction and device step: a direct call of its meaning. -/

namespace Sys2Proof.Machine

def exec (i : Instr) (s : State) : Host.Outcome State Fault Refusal :=
  match i with
  | .iadd a0 => Sys2Proof.Machine.execIadd a0 s
  | .isub a0 => Sys2Proof.Machine.execIsub a0 s
  | .iaddc a0 => Sys2Proof.Machine.execIaddc a0 s
  | .isubb a0 => Sys2Proof.Machine.execIsubb a0 s
  | .imul a0 => Sys2Proof.Machine.execImul a0 s
  | .imulh a0 => Sys2Proof.Machine.execImulh a0 s
  | .imad a0 => Sys2Proof.Machine.execImad a0 s
  | .imadw a0 => Sys2Proof.Machine.execImadw a0 s
  | .idiv a0 => Sys2Proof.Machine.execIdiv a0 s
  | .irem a0 => Sys2Proof.Machine.execIrem a0 s
  | .imin a0 => Sys2Proof.Machine.execImin a0 s
  | .imax a0 => Sys2Proof.Machine.execImax a0 s
  | .iabs a0 => Sys2Proof.Machine.execIabs a0 s
  | .ineg a0 => Sys2Proof.Machine.execIneg a0 s
  | .and a0 => Sys2Proof.Machine.execAnd a0 s
  | .or a0 => Sys2Proof.Machine.execOr a0 s
  | .xor a0 => Sys2Proof.Machine.execXor a0 s
  | .andn a0 => Sys2Proof.Machine.execAndn a0 s
  | .orn a0 => Sys2Proof.Machine.execOrn a0 s
  | .blut a0 => Sys2Proof.Machine.execBlut a0 s
  | .shl a0 => Sys2Proof.Machine.execShl a0 s
  | .shr a0 => Sys2Proof.Machine.execShr a0 s
  | .sar a0 => Sys2Proof.Machine.execSar a0 s
  | .dsh a0 => Sys2Proof.Machine.execDsh a0 s
  | .bfx a0 => Sys2Proof.Machine.execBfx a0 s
  | .bfi a0 => Sys2Proof.Machine.execBfi a0 s
  | .popc a0 => Sys2Proof.Machine.execPopc a0 s
  | .clz a0 => Sys2Proof.Machine.execClz a0 s
  | .brev a0 => Sys2Proof.Machine.execBrev a0 s
  | .prmb a0 => Sys2Proof.Machine.execPrmb a0 s
  | .icmp a0 => Sys2Proof.Machine.execIcmp a0 s
  | .sel a0 => Sys2Proof.Machine.execSel a0 s
  | .mov a0 => Sys2Proof.Machine.execMov a0 s
  | .movi a0 => Sys2Proof.Machine.execMovi a0 s
  | .lea a0 => Sys2Proof.Machine.execLea a0 s
  | .movs a0 => Sys2Proof.Machine.execMovs a0 s
  | .plog a0 => Sys2Proof.Machine.execPlog a0 s
  | .pget a0 => Sys2Proof.Machine.execPget a0 s
  | .pset a0 => Sys2Proof.Machine.execPset a0 s
  | .bra a0 => Sys2Proof.Machine.execBra a0 s
  | .brx a0 => Sys2Proof.Machine.execBrx a0 s
  | .call a0 => Sys2Proof.Machine.execCall a0 s
  | .callx a0 => Sys2Proof.Machine.execCallx a0 s
  | .ret a0 => Sys2Proof.Machine.execRet a0 s
  | .loop a0 => Sys2Proof.Machine.execLoop a0 s
  | .endl a0 => Sys2Proof.Machine.execEndl a0 s
  | .exit a0 => Sys2Proof.Machine.execExit a0 s
  | .nop a0 => Sys2Proof.Machine.execNop a0 s
  | .fgrow a0 => Sys2Proof.Machine.execFgrow a0 s
  | .fshrk a0 => Sys2Proof.Machine.execFshrk a0 s
  | .ocfil a0 => Sys2Proof.Machine.execOcfil a0 s
  | .ocdrop a0 => Sys2Proof.Machine.execOcdrop a0 s
  | .ocsync a0 => Sys2Proof.Machine.execOcsync a0 s
  | .pairWord a0 a1 => Sys2Proof.Machine.execPairWord a0 a1 s
  | .fadd a0 => Sys2Proof.Machine.execFadd a0 s
  | .fsub a0 => Sys2Proof.Machine.execFsub a0 s
  | .fmul a0 => Sys2Proof.Machine.execFmul a0 s
  | .ffma a0 => Sys2Proof.Machine.execFfma a0 s
  | .fdiv a0 => Sys2Proof.Machine.execFdiv a0 s
  | .dadd a0 => Sys2Proof.Machine.execDadd a0 s
  | .dmul a0 => Sys2Proof.Machine.execDmul a0 s
  | .dfma a0 => Sys2Proof.Machine.execDfma a0 s
  | .pkadd a0 => Sys2Proof.Machine.execPkadd a0 s
  | .pkmul a0 => Sys2Proof.Machine.execPkmul a0 s
  | .pkfma a0 => Sys2Proof.Machine.execPkfma a0 s
  | .fmin a0 => Sys2Proof.Machine.execFmin a0 s
  | .fmax a0 => Sys2Proof.Machine.execFmax a0 s
  | .fcmp a0 => Sys2Proof.Machine.execFcmp a0 s
  | .dcmp a0 => Sys2Proof.Machine.execDcmp a0 s
  | .fcls a0 => Sys2Proof.Machine.execFcls a0 s
  | .frcp a0 => Sys2Proof.Machine.execFrcp a0 s
  | .frsq a0 => Sys2Proof.Machine.execFrsq a0 s
  | .fsqrt a0 => Sys2Proof.Machine.execFsqrt a0 s
  | .fex2 a0 => Sys2Proof.Machine.execFex2 a0 s
  | .flg2 a0 => Sys2Proof.Machine.execFlg2 a0 s
  | .fsin a0 => Sys2Proof.Machine.execFsin a0 s
  | .fcos a0 => Sys2Proof.Machine.execFcos a0 s
  | .frnd a0 => Sys2Proof.Machine.execFrnd a0 s
  | .f2i a0 => Sys2Proof.Machine.execF2i a0 s
  | .i2f a0 => Sys2Proof.Machine.execI2f a0 s
  | .f2f a0 => Sys2Proof.Machine.execF2f a0 s
  | .sclq a0 => Sys2Proof.Machine.execSclq a0 s
  | .bpack a0 => Sys2Proof.Machine.execBpack a0 s
  | .bpext a0 => Sys2Proof.Machine.execBpext a0 s
  | .ld a0 => Sys2Proof.Machine.execLd a0 s
  | .st a0 => Sys2Proof.Machine.execSt a0 s
  | .atom a0 => Sys2Proof.Machine.execAtom a0 s
  | .acas a0 => Sys2Proof.Machine.execAcas a0 s
  | .red a0 => Sys2Proof.Machine.execRed a0 s
  | .fence a0 => Sys2Proof.Machine.execFence a0 s
  | .fenceCode a0 => Sys2Proof.Machine.execFenceCode a0 s
  | .pref a0 => Sys2Proof.Machine.execPref a0 s
  | .ldem a0 => Sys2Proof.Machine.execLdem a0 s
  | .pgrow a0 => Sys2Proof.Machine.execPgrow a0 s
  | .pshrk a0 => Sys2Proof.Machine.execPshrk a0 s
  | .pqry a0 => Sys2Proof.Machine.execPqry a0 s
  | .rclean a0 => Sys2Proof.Machine.execRclean a0 s
  | .rinv a0 => Sys2Proof.Machine.execRinv a0 s
  | .bar a0 => Sys2Proof.Machine.execBar a0 s
  | .bara a0 => Sys2Proof.Machine.execBara a0 s
  | .barw a0 => Sys2Proof.Machine.execBarw a0 s
  | .pcoll a0 => Sys2Proof.Machine.execPcoll a0 s
  | .lxch a0 => Sys2Proof.Machine.execLxch a0 s
  | .matchLanes a0 => Sys2Proof.Machine.execMatchLanes a0 s
  | .redh a0 => Sys2Proof.Machine.execRedh a0 s
  | .hget a0 => Sys2Proof.Machine.execHget a0 s
  | .pause a0 => Sys2Proof.Machine.execPause a0 s
  | .suspend a0 => Sys2Proof.Machine.execSuspend a0 s
  | .evadd a0 => Sys2Proof.Machine.execEvadd a0 s
  | .evget a0 => Sys2Proof.Machine.execEvget a0 s
  | .cdecl a0 => Sys2Proof.Machine.execCdecl a0 s
  | .acp a0 => Sys2Proof.Machine.execAcp a0 s
  | .tagw a0 => Sys2Proof.Machine.execTagw a0 s
  | .cpy a0 => Sys2Proof.Machine.execCpy a0 s
  | .wptr a0 => Sys2Proof.Machine.execWptr a0 s
  | .scpy a0 => Sys2Proof.Machine.execScpy a0 s
  | .mldw a0 => Sys2Proof.Machine.execMldw a0 s
  | .mswp a0 => Sys2Proof.Machine.execMswp a0 s
  | .mmul a0 => Sys2Proof.Machine.execMmul a0 s
  | .mout a0 => Sys2Proof.Machine.execMout a0 s
  | .mzero a0 => Sys2Proof.Machine.execMzero a0 s
  | .qfence a0 => Sys2Proof.Machine.execQfence a0 s
  | .guard a0 => Sys2Proof.Machine.execGuard a0 s
  | .gres a0 => Sys2Proof.Machine.execGres a0 s
  | .wait a0 => Sys2Proof.Machine.execWait a0 s
  | .tkpush a0 => Sys2Proof.Machine.execTkpush a0 s
  | .tkpop a0 => Sys2Proof.Machine.execTkpop a0 s
  | .tkdone a0 => Sys2Proof.Machine.execTkdone a0 s
  | .sqcfg a0 => Sys2Proof.Machine.execSqcfg a0 s
  | .sqsig a0 => Sys2Proof.Machine.execSqsig a0 s
  | .sqcmp a0 => Sys2Proof.Machine.execSqcmp a0 s
  | .sqmap a0 => Sys2Proof.Machine.execSqmap a0 s
  | .sqstep a0 => Sys2Proof.Machine.execSqstep a0 s
  | .vswpt a0 => Sys2Proof.Machine.execVswpt a0 s
  | .trap a0 => Sys2Proof.Machine.execTrap a0 s
  | .bkpt a0 => Sys2Proof.Machine.execBkpt a0 s
  | .tret a0 => Sys2Proof.Machine.execTret a0 s
  | .ckpt a0 => Sys2Proof.Machine.execCkpt a0 s
  | .srd a0 => Sys2Proof.Machine.execSrd a0 s
  | .swr a0 => Sys2Proof.Machine.execSwr a0 s
  | .barstallWrite a0 a1 => Sys2Proof.Machine.execBarstallWrite a0 a1 s
  | .poolwaitWrite a0 a1 => Sys2Proof.Machine.execPoolwaitWrite a0 a1 s
  | .ckptintWrite a0 a1 => Sys2Proof.Machine.execCkptintWrite a0 a1 s
  | .poolcfgWrite a0 a1 => Sys2Proof.Machine.execPoolcfgWrite a0 a1 s
  | .tracestatWrite a0 a1 => Sys2Proof.Machine.execTracestatWrite a0 a1 s
  | .tmark a0 => Sys2Proof.Machine.execTmark a0 s
  | .csumr a0 => Sys2Proof.Machine.execCsumr a0 s
  | .idle a0 => Sys2Proof.Machine.execIdle a0 s
  | .nput a0 => Sys2Proof.Machine.execNput a0 s
  | .nget a0 => Sys2Proof.Machine.execNget a0 s
  | .nsig a0 => Sys2Proof.Machine.execNsig a0 s
  | .nwait a0 => Sys2Proof.Machine.execNwait a0 s
  | .loadDataReturn a0 => Sys2Proof.Machine.execLoadDataReturn a0 s
  | .storeAcknowledge a0 => Sys2Proof.Machine.execStoreAcknowledge a0 s
  | .homeSliceAccess a0 => Sys2Proof.Machine.execHomeSliceAccess a0 s
  | .operandCacheFill a0 a1 => Sys2Proof.Machine.execOperandCacheFill a0 a1 s
  | .regroupBoundary a0 => Sys2Proof.Machine.execRegroupBoundary a0 s
  | .pauseExpiry a0 => Sys2Proof.Machine.execPauseExpiry a0 s
  | .idleWake a0 => Sys2Proof.Machine.execIdleWake a0 s
  | .barrierStall a0 a1 => Sys2Proof.Machine.execBarrierStall a0 a1 s
  | .collectiveStall a0 a1 a2 => Sys2Proof.Machine.execCollectiveStall a0 a1 a2 s
  | .hgetStall a0 => Sys2Proof.Machine.execHgetStall a0 s
  | .vswptStall a0 => Sys2Proof.Machine.execVswptStall a0 s
  | .signingRoundComplete a0 a1 => Sys2Proof.Machine.execSigningRoundComplete a0 a1 s
  | .signingRoundDiscard a0 a1 => Sys2Proof.Machine.execSigningRoundDiscard a0 a1 s
  | .poolGrant a0 => Sys2Proof.Machine.execPoolGrant a0 s
  | .poolWaitTimeout a0 a1 => Sys2Proof.Machine.execPoolWaitTimeout a0 a1 s
  | .claimRelease a0 => Sys2Proof.Machine.execClaimRelease a0 s
  | .workgroupPlacement a0 => Sys2Proof.Machine.execWorkgroupPlacement a0 s
  | .launchAdmission a0 => Sys2Proof.Machine.execLaunchAdmission a0 s
  | .downRequest a0 => Sys2Proof.Machine.execDownRequest a0 s
  | .upRequest a0 => Sys2Proof.Machine.execUpRequest a0 s
  | .quadrantTenureGrant a0 => Sys2Proof.Machine.execQuadrantTenureGrant a0 s
  | .pageRequestComplete a0 a1 => Sys2Proof.Machine.execPageRequestComplete a0 a1 s
  | .commandComplete a0 => Sys2Proof.Machine.execCommandComplete a0 s
  | .cpyCommand a0 a1 a2 => Sys2Proof.Machine.execCpyCommand a0 a1 a2 s
  | .acpCommand a0 => Sys2Proof.Machine.execAcpCommand a0 s
  | .scpyCommand a0 => Sys2Proof.Machine.execScpyCommand a0 s
  | .mldwCommand a0 => Sys2Proof.Machine.execMldwCommand a0 s
  | .mswpCommand a0 => Sys2Proof.Machine.execMswpCommand a0 s
  | .mmulCommand a0 => Sys2Proof.Machine.execMmulCommand a0 s
  | .moutCommand a0 => Sys2Proof.Machine.execMoutCommand a0 s
  | .mzeroCommand a0 => Sys2Proof.Machine.execMzeroCommand a0 s
  | .fusedCommandJoin a0 => Sys2Proof.Machine.execFusedCommandJoin a0 s
  | .sqcfgCommand a0 => Sys2Proof.Machine.execSqcfgCommand a0 s
  | .sqsigCommand a0 => Sys2Proof.Machine.execSqsigCommand a0 s
  | .sqcmpCommand a0 => Sys2Proof.Machine.execSqcmpCommand a0 s
  | .sqstepCommand a0 => Sys2Proof.Machine.execSqstepCommand a0 s
  | .sqmapCommand a0 => Sys2Proof.Machine.execSqmapCommand a0 s
  | .tkpushCommand a0 => Sys2Proof.Machine.execTkpushCommand a0 s
  | .tkpopCommand a0 => Sys2Proof.Machine.execTkpopCommand a0 s
  | .tkdoneCommand a0 => Sys2Proof.Machine.execTkdoneCommand a0 s
  | .nputCommand a0 => Sys2Proof.Machine.execNputCommand a0 s
  | .ngetCommand a0 => Sys2Proof.Machine.execNgetCommand a0 s
  | .nsigCommand a0 => Sys2Proof.Machine.execNsigCommand a0 s
  | .checkpointRequest a0 => Sys2Proof.Machine.execCheckpointRequest a0 s
  | .forcedCheckpoint a0 => Sys2Proof.Machine.execForcedCheckpoint a0 s
  | .checkpointFormation a0 => Sys2Proof.Machine.execCheckpointFormation a0 s
  | .checkpointLapse a0 => Sys2Proof.Machine.execCheckpointLapse a0 s
  | .debugBreakpoint a0 => Sys2Proof.Machine.execDebugBreakpoint a0 s
  | .sliceEnd a0 => Sys2Proof.Machine.execSliceEnd a0 s
  | .rollback a0 => Sys2Proof.Machine.execRollback a0 s
  | .restore a0 a1 => Sys2Proof.Machine.execRestore a0 a1 s
  | .residueDrain a0 => Sys2Proof.Machine.execResidueDrain a0 s
  | .contextFault a0 a1 a2 => Sys2Proof.Machine.execContextFault a0 a1 a2 s
  | .partitionHalted a0 => Sys2Proof.Machine.execPartitionHalted a0 s
  | .sliceTagError a0 a1 a2 => Sys2Proof.Machine.execSliceTagError a0 a1 a2 s
  | .traceSample a0 => Sys2Proof.Machine.execTraceSample a0 s
  | .replayStart a0 a1 => Sys2Proof.Machine.execReplayStart a0 a1 s
  | .recordStart a0 a1 => Sys2Proof.Machine.execRecordStart a0 a1 s
  | .notifyWrite a0 a1 a2 => Sys2Proof.Machine.execNotifyWrite a0 a1 a2 s
  | .appendConsume a0 a1 => Sys2Proof.Machine.execAppendConsume a0 a1 s
  | .stampReread a0 a1 => Sys2Proof.Machine.execStampReread a0 a1 s
  | .foremanTimer a0 => Sys2Proof.Machine.execForemanTimer a0 s
  | .queueCreate a0 a1 => Sys2Proof.Machine.execQueueCreate a0 a1 s
  | .queueDestroy a0 a1 => Sys2Proof.Machine.execQueueDestroy a0 a1 s
  | .queueReset a0 a1 => Sys2Proof.Machine.execQueueReset a0 a1 s
  | .contextTearDown a0 => Sys2Proof.Machine.execContextTearDown a0 s
  | .contextRollBack a0 => Sys2Proof.Machine.execContextRollBack a0 s
  | .contextStart a0 => Sys2Proof.Machine.execContextStart a0 s
  | .tlbinvPage a0 a1 => Sys2Proof.Machine.execTlbinvPage a0 a1 s
  | .tlbinvAll a0 => Sys2Proof.Machine.execTlbinvAll a0 s
  | .hypTlbinv a0 a1 a2 => Sys2Proof.Machine.execHypTlbinv a0 a1 a2 s
  | .vfctlWrite a0 a1 => Sys2Proof.Machine.execVfctlWrite a0 a1 s
  | .vfbandWrite a0 a1 => Sys2Proof.Machine.execVfbandWrite a0 a1 s
  | .mgmtRegisterWrite a0 a1 => Sys2Proof.Machine.execMgmtRegisterWrite a0 a1 s
  | .bandwidthWindow a0 a1 => Sys2Proof.Machine.execBandwidthWindow a0 a1 s
  | .inboundRmaWrite a0 a1 a2 a3 => Sys2Proof.Machine.execInboundRmaWrite a0 a1 a2 a3 s
  | .inboundRmaRead a0 a1 a2 a3 => Sys2Proof.Machine.execInboundRmaRead a0 a1 a2 a3 s
  | .inboundAtomic a0 a1 a2 a3 a4 => Sys2Proof.Machine.execInboundAtomic a0 a1 a2 a3 a4 s
  | .firmwareHandoverLoad a0 a1 => Sys2Proof.Machine.execFirmwareHandoverLoad a0 a1 s
  | .bluordFlit a0 a1 a2 => Sys2Proof.Machine.execBluordFlit a0 a1 a2 s
  | .start a0 => Sys2Proof.Machine.execStart a0 s
  | .bootcmdWrite a0 => Sys2Proof.Machine.execBootcmdWrite a0 s
  | .errorDetected a0 a1 => Sys2Proof.Machine.execErrorDetected a0 a1 s
  | .selfTestBegin a0 => Sys2Proof.Machine.execSelfTestBegin a0 s
  | .selfTestEnd a0 a1 => Sys2Proof.Machine.execSelfTestEnd a0 a1 s
  | .loopSetpointWrite a0 a1 => Sys2Proof.Machine.execLoopSetpointWrite a0 a1 s
  | .rbcmdWrite a0 => Sys2Proof.Machine.execRbcmdWrite a0 s
  | .illegalInstruction a0 => Sys2Proof.Machine.execIllegalInstruction a0 s
  | .fetchFault a0 a1 a2 => Sys2Proof.Machine.execFetchFault a0 a1 a2 s
  | .peerResponse a0 a1 => Sys2Proof.Machine.execPeerResponse a0 a1 s
  | .transferAbandoned a0 a1 => Sys2Proof.Machine.execTransferAbandoned a0 a1 s
  | .undoEntryAccepted a0 a1 => Sys2Proof.Machine.execUndoEntryAccepted a0 a1 s
  | .adaptiveLoopAction a0 a1 => Sys2Proof.Machine.execAdaptiveLoopAction a0 a1 s
  | .spdmGetVersion => Sys2Proof.Machine.execSpdmGetVersion s
  | .spdmGetCapabilities => Sys2Proof.Machine.execSpdmGetCapabilities s
  | .spdmNegotiateAlgorithms => Sys2Proof.Machine.execSpdmNegotiateAlgorithms s
  | .spdmGetDigests => Sys2Proof.Machine.execSpdmGetDigests s
  | .spdmGetCertificate => Sys2Proof.Machine.execSpdmGetCertificate s
  | .spdmChallenge => Sys2Proof.Machine.execSpdmChallenge s
  | .spdmGetMeasurements => Sys2Proof.Machine.execSpdmGetMeasurements s
  | .spdmKeyExchange => Sys2Proof.Machine.execSpdmKeyExchange s
  | .spdmFinish => Sys2Proof.Machine.execSpdmFinish s
  | .spdmEndSession => Sys2Proof.Machine.execSpdmEndSession s
  | .firmwareHandoverCommit => Sys2Proof.Machine.execFirmwareHandoverCommit s
  | .startTimeout => Sys2Proof.Machine.execStartTimeout s
  | .readbackDeliver => Sys2Proof.Machine.execReadbackDeliver s

end Sys2Proof.Machine
end

