-- ==== Sys2Proof/Machine/Turns.lean ====
section
/-! DEFINITION. Whose move is next (DESIGN CHOICE, log 1): the agenda decides; where it is empty, the first device step
that changes the state, then an issue, then a cycle. -/

namespace Sys2Proof.Machine

/-- The step that answers an SPDM request: byte 1 of a request is its code (PRESUMED, log 16). -/
def spdmStep (r : List Byte) : Option Instr :=
  match valAt 1 1 r with
  | 0x84 => some Instr.spdmGetVersion
  | 0xE1 => some Instr.spdmGetCapabilities
  | 0xE3 => some Instr.spdmNegotiateAlgorithms
  | 0x81 => some Instr.spdmGetDigests
  | 0x82 => some Instr.spdmGetCertificate
  | 0x83 => some Instr.spdmChallenge
  | 0xE0 => some Instr.spdmGetMeasurements
  | 0xE4 => some Instr.spdmKeyExchange
  | 0xE5 => some Instr.spdmFinish
  | 0xEC => some Instr.spdmEndSession
  | _ => none

/-- An SPDM request arrives; one that the manual does not name is answered with ERROR
(in part PRESUMED, log 16). -/
def spdmArrive (r : List Byte) (s : State) : State :=
  if !mgmtUp s then s
  else
    match spdmStep r with
    | some _ => { s with spdm := { s.spdm with inbox := s.spdm.inbox ++ [r] } }
    | none =>
      let (n, s) := s.fresh
      { s with out := s.out ++ [.spdm 0x7F [] [] (Config.spdmRest n)] }

/-! ### The steps that may be due -/

/-- The steps of a memory operation. -/
def opSteps (o : MemOp) : List Instr :=
  match o.stage with
  | .sent => [.homeSliceAccess o.id]
  | .logging => [.undoEntryAccepted o.id true]
  | .claimed => [.claimRelease o.id]
  | .performed => if o.cls = 2 then [.storeAcknowledge o.id] else [.loadDataReturn o.id]

/-- The step that runs a queue's head, by its opcode. -/
def headStep (q : QRef) (op : Nat) : List Instr :=
  match q with
  | .cp0 g => if op = 0x282 then [Instr.cpyCommand g 0 16] else []
  | .cp1 g => if op = 0x282 then [Instr.cpyCommand g 1 16] else if op = 0x280 then [Instr.acpCommand g] else []
  | .mx c =>
    if op = 0x288 then [Instr.scpyCommand c, Instr.fusedCommandJoin c]
    else if op = 0x289 then [Instr.mldwCommand c, Instr.fusedCommandJoin c]
    else if op = 0x28A then [Instr.mswpCommand c, Instr.fusedCommandJoin c]
    else if op = 0x28B then [Instr.mmulCommand c, Instr.fusedCommandJoin c]
    else if op = 0x28C then [Instr.moutCommand c, Instr.fusedCommandJoin c]
    else if op = 0x28D then [Instr.mzeroCommand c, Instr.fusedCommandJoin c]
    else []
  | .sq c =>
    if op = 0x2A0 then [Instr.sqcfgCommand c]
    else if op = 0x2A1 then [Instr.sqsigCommand c]
    else if op = 0x2A2 then [Instr.sqcmpCommand c]
    else if op = 0x2A3 then [Instr.sqmapCommand c]
    else if op = 0x2A4 then [Instr.sqstepCommand c]
    else []
  | .tk g =>
    if op = 0x298 then [Instr.tkpushCommand g]
    else if op = 0x299 then [Instr.tkpopCommand g]
    else if op = 0x29A then [Instr.tkdoneCommand g]
    else []
  | .ne g =>
    if op = 0x310 then [Instr.nputCommand g]
    else if op = 0x311 then [Instr.ngetCommand g]
    else if op = 0x312 then [Instr.nsigCommand g]
    else []

/-- The steps of a queue. -/
def queueSteps (s : State) (q : QRef) : List Instr :=
  match queueOf s q with
  | [] => []
  | c :: _ => headStep q c.op ++ [Instr.commandComplete q]

/-- The functions with a live context. -/
def liveFns (s : State) : List Nat := (s.ctxs.filter (fun p => p.2.live)).map (·.1)

/-- The functions whose contexts run. -/
def runningFns (s : State) : List Nat := (s.ctxs.filter (fun p => p.2.running)).map (·.1)

/-- The steps of a running context's units. -/
def unitSteps (s : State) (fn : Nat) : List Instr :=
  (queuesOfFn s fn).flatMap (queueSteps s)
    ++ (partSections s fn).flatMap (fun i =>
      (upto 16).flatMap (fun n =>
        if ((nth ⟨none, none⟩ n (s.sect i).creg).round).isSome then
          [Instr.signingRoundComplete i n] else [])
        ++ [Instr.quadrantTenureGrant i])
    ++ (partCores s fn).flatMap (fun i =>
      (if (s.core i).waitList.isEmpty then [] else [Instr.poolGrant i])
        ++ (if (s.core i).residue.isEmpty || decide ((s.ctx fn).pcycle < (s.core i).drainAt) then []
            else [Instr.residueDrain i])
        ++ [Instr.debugBreakpoint i, Instr.downRequest i, Instr.upRequest i])

/-- The time-outs of a workgroup's waits. -/
def stallSteps (s : State) (g : Nat) (w : Workgroup) : List Instr :=
  ((upto 16).filter (fun n => (nth ⟨0, 0, 0, 0, []⟩ n w.bars).arrivals != 0)).map (fun n => Instr.barrierStall g n)
    ++ w.colls.map (fun c => Instr.collectiveStall g c.warp c.pc)
    ++ (if w.vsw.isEmpty then [] else [Instr.vswptStall g])
    ++ ((s.threadsOf g).filter (fun p => (p.2.stall.map (·.state)) = some 3)).map (fun p => Instr.hgetStall p.1)

/-- The fills that a function's threads have asked for (R14, R120). -/
def fillSteps (s : State) (fn : Nat) : List Instr :=
  (s.threads.filter (fun p => p.2.fn = fn)).flatMap (fun p => p.2.fills.map (fun n => Instr.operandCacheFill p.1 n))

/-- The steps that end a cycle of a function, after its slots have issued: grants, then time-outs, then samples
(R155, R187, R362). -/
def endSteps (s : State) (fn : Nat) : List Instr :=
  (partCores s fn).flatMap (fun i => (s.core i).waitList.map (fun _ => Instr.poolGrant i)
      ++ (s.core i).waitList.map (fun r => Instr.poolWaitTimeout i r.thread))
    ++ (s.wgs.filter (fun p => p.2.fn = fn)).flatMap (fun p => stallSteps s p.1 p.2)
    ++ (partSections s fn).flatMap (fun i => (upto 16).flatMap (fun n =>
      if ((nth ⟨none, none⟩ n (s.sect i).creg).round).isSome then [Instr.signingRoundDiscard i n] else []))
    ++ (partCores s fn).map (fun i => Instr.traceSample i)

/-- The ends of a function's threads' pauses and idling. -/
def wakeSteps (s : State) (fn : Nat) : List Instr :=
  (s.threads.filter (fun p => p.2.fn = fn)).flatMap (fun p =>
    (if p.2.pauseTill.isSome then [Instr.pauseExpiry p.1] else [])
      ++ (match p.2.wait with
        | some (.idle _) => [Instr.idleWake p.1]
        | _ => []))

/-- The steps of a function's checkpoints, launches and turns. -/
def contextSteps (s : State) (fn : Nat) : List Instr :=
  [Instr.partitionHalted fn, Instr.checkpointFormation fn, Instr.checkpointLapse fn, Instr.forcedCheckpoint fn,
    Instr.checkpointRequest fn, Instr.sliceEnd fn, Instr.restore fn true]
    ++ (s.launches.filter (fun p => p.2.fn = fn && !p.2.admitted)).map (fun p => Instr.launchAdmission p.1)
    ++ ((nextLaunch s fn).map (fun l => [Instr.workgroupPlacement l])).getD []

/-- The Foreman's own steps. -/
def foremanSteps (s : State) : List Instr :=
  (s.queues.filter (fun p => consuming s p.2)).map (fun p =>
    if p.2.rereads = 0 then Instr.appendConsume p.2.fn p.2.num else Instr.stampReread p.2.fn p.2.num)
    ++ (s.queues.filter (fun p => destroyDue s p.2)).map (fun p => Instr.queueDestroy p.2.fn p.2.num)
    ++ (s.health.filter (fun p => p.2.state = 1)).map (fun p => Instr.selfTestBegin p.1)
    ++ (if s.rbPending.isSome then [Instr.readbackDeliver] else [])
    ++ ((s.spdm.inbox.head?.bind spdmStep).map (fun i => [i])).getD []

/-- All steps that may be due, in the order in which the model tries them. -/
def steps (s : State) : List Instr :=
  let fns := runningFns s
  s.ops.flatMap opSteps ++ fns.flatMap (fillSteps s) ++ fns.flatMap (unitSteps s)
    ++ (liveFns s).flatMap (contextSteps s)
    ++ foremanSteps s
    ++ fns.flatMap (wakeSteps s)
    ++ fns.flatMap (fun fn => (partCores s fn).map (fun i => Instr.regroupBoundary i))

/-- Whether a step goes to another state. -/
def acts (s : State) (i : Instr) : Bool :=
  match exec i { s with issue := [] } with
  | .next t => decide ({ t with issue := [] } ≠ { s with issue := [] })
  | _ => false

/-- The slots of running contexts that have something to do. -/
def issueTurns (s : State) : List Turn :=
  (runningFns s).flatMap (fun fn => (partCores s fn).flatMap (fun i =>
    ((upto 4).filter (fun n => (trapDue s i n).isSome || !(candidates s i n).isEmpty)).map (fun n => .issue i n)))

/-! ### A cycle of a function (R5, R142, R155, R161, R163) -/

/-- Take a slot's turn. -/
def slotTurn (core slot : Nat) (s : State) : State :=
  match issueNext core slot s with
  | .nothing => s
  | .trap s => s
  | .instr i s =>
    match exec i s with
    | .next t => t
    | _ => s

/-- Let a slot try its bundles until one issues or none is left (R163). Each turn takes at least one thread out of
the threads that can be tried, so that as many turns as there are threads are enough. -/
def runSlot (core slot : Nat) : Nat → State → State
  | 0, s => s
  | n + 1, s =>
    if (trapDue s core slot).isSome || !(candidates s core slot).isEmpty then
      runSlot core slot n (slotTurn core slot s)
    else s

/-- A device step as a cycle takes it: bundles split where it has moved threads. -/
def stepIn (s : State) (i : Instr) : State :=
  match exec i { s with issue := [] } with
  | .next t => splitCores t
  | _ => s

/-- A bundle that its slot has not come to in this cycle and whose threads could only wait at their next
instruction begins that wait: no issue is needed for it (R163, R178, R272) (in part DESIGN CHOICE, log 15). -/
def tryBundle (c : Candidate) (s : State) : State :=
  match look (c.here.headD 0) s.threads with
  | none => s
  | some t =>
    if (codeForeign s (c.here.headD 0) t.fn t.pc.toNat).isSome then s
    else
      let (i, u) := fetchBundle t c.here s
      match exec i u with
      | .next u =>
        if c.here.all (fun k => ((look k u.threads).map (fun t => t.polled && (t.stall.map (·.reason)) != some 3)).getD false)
          then { u with issue := [] } else s
      | _ => s

/-- The same for each bundle of a core. -/
def tryRest (core : Nat) (s : State) : State :=
  if ((runningOn s core).map (engineOn s)).getD false then
    ((s.core core).bundles.filterMap (candidateOf s)).foldl (fun s c => tryBundle c s) s
  else s

/-- The rest of a function's cycle: breakpoints fire, every slot that can issue does, bundles that only wait begin
to, then counts are compared with their limits (R155, R163, R187, R358, R362); the undo logs' entries reach their
areas, and what came from outside and waited for their room is tried again (R345, R347, R412). -/
def finishCycle (fn : Nat) (s : State) : State :=
  let cores := partCores s fn
  let s := (cores.map (fun i => Instr.debugBreakpoint i)).foldl stepIn s
  let s := cores.foldl (fun s i => (upto 4).foldl (fun s n => runSlot i n (s.threads.length + 1) s) s) s
  let s := cores.foldl (fun s i => tryRest i s) s
  let s := s.modCtx fn (fun c => { c with cycleOver := true })
  let s := cores.foldl (fun s i => pushMissed i (s.core i).missed s) ((endSteps s fn).foldl stepIn s)
  failLogs fn (postLogs (retryAll s))

/-- What the beginning of a cycle brings: pauses and idling end, bundles form at a boundary, what falls due by a
count of cycles is asked for (R142, R161, R298, R342, R347, R348, R352, R381, R387). -/
def beginCycle (fn : Nat) (s : State) : State :=
  let cores := partCores s fn
  (wakeSteps s fn ++ cores.flatMap (fun i =>
      [Instr.regroupBoundary i, Instr.residueDrain i, Instr.downRequest i])
    ++ [Instr.checkpointRequest fn, Instr.forcedCheckpoint fn, Instr.checkpointLapse fn, Instr.sliceEnd fn]).foldl
    stepIn s

/-- How a thread stood in the cycle that ends: what it waits for, or what its next instruction would come to if
the thread issued it alone now (R163) (in part DEDUCED, log 70). -/
def standOf (s : State) (k : Nat) (t : Thread) : Stand :=
  match t.wait with
  | some w => threadWait s t w
  | none =>
    if t.polled then .held ((t.stall.map (·.reason)).getD 15)
    else if t.trapping.isSome || !mayIssue s k t then .held 15
    else
      let (i, s1) := fetchBundle t [k] s
      match exec i s1 with
      | .next u =>
        match look k u.threads with
        | none => if t.pauseTill.isSome then .held 13 else .ready
        | some v =>
          match v.wait with
          | some (.parked die e) => waitStand (.parked die e)
          | some (.listed die stage page va kind) => waitStand (.listed die stage page va kind)
          | _ =>
            if v.polled && (v.stall.map (·.reason)) != some 3 then .held ((v.stall.map (·.reason)).getD 15)
            else if t.pauseTill.isSome then .held 13
            else .ready
      | _ => .held 15

/-- Some cycles of a function pass. In each, every slot issues that can (in part DESIGN CHOICE, log 15). -/
def passCycles (fn : Nat) : Nat → State → State
  | 0, s => s
  | n + 1, s =>
    let s := finishCycle fn s
    passCycles fn n (beginCycle fn (passCycle fn (standOf s) s))

/-- The running function that has run least: its next cycle passes. -/
def cycleTurn (s : State) : Option Turn :=
  match sortBy (fun f => (s.ctx f).pcycle) (runningFns s) with
  | [] => none
  | f :: _ => some (.cycles f 1)

/-- The turn where the agenda is empty; none where nothing moves (in part DESIGN CHOICE, log 1). -/
def defaultTurn (s : State) : Option Turn :=
  match (steps s).find? (acts s) with
  | some i => some (.event i)
  | none =>
    match issueTurns s with
    | t :: _ => some t
    | [] =>
      match ((runningFns s).flatMap (endSteps s)).find? (acts s) with
      | some i => some (.event i)
      | none => cycleTurn s

/-- After a device step the bundles of the cores split where it has moved threads (R143). -/
def afterStep : Out1 → Out1
  | .next t => .next (splitCores t)
  | o => o

/-- Carry a turn out. A device step has no issuing bundle. -/
def runTurn (t : Turn) (s : State) : Out1 :=
  match t with
  | .event i => afterStep (exec i { s with issue := [] })
  | .cycles fn n => .next (if (s.ctx fn).running then passCycles fn n s else s)
  | .request r => .next (spdmArrive r s)
  | .readAhead k n => .next (readAhead k n s)
  | .issue core slot =>
    match issueNext core slot s with
    | .nothing => .next s
    | .trap s => .next s
    | .instr i s => exec i s

/-- The next turn, and the state in which it is carried out. -/
def nextTurn (s : State) : Option Turn × State :=
  match s.agenda with
  | t :: rest => (some t, { s with agenda := rest })
  | [] => (defaultTurn s, s)

/-- The machine's next move (in part DESIGN CHOICE, log 1). -/
def move (s : State) : Out1 :=
  match nextTurn s with
  | (some t, s) => runTurn t s
  | (none, s) => .next s

end Sys2Proof.Machine
end

