-- ==== Sys2Proof/Machine/Step.lean ====
section
/-! DEFINITION. One step of the machine, and the placement of an instruction where the next step fetches
(DESIGN CHOICE, log 2). -/

namespace Sys2Proof.Machine

/-- One step: the next turn's (DESIGN CHOICE, log 1). -/
def step (s : State) : Host.Outcome State Fault Refusal := move s

/-- A machine whose next step fetches and runs the instruction of `nbits` bits `w`: a thread of a running
context stands at it (`Sys2Proof.Machine.placeWord`) (in part DESIGN CHOICE, log 2). -/
def State.withFetchWord (s : State) (nbits w : Nat) : State := placeWord s nbits w

end Sys2Proof.Machine
end

