-- ==== Sys2Proof/Machine/Forms.lean ====
section
/-! DEFINITION. The form of every instruction of a program: its length, operands and encoding rules (R29,
R34-R51), as its meaning uses it. -/

namespace Sys2Proof.Machine

/-- The form of an instruction; none for a device step, a word that is no instruction, a fetch that fails,
and a pair word one of whose half opcodes is undefined. -/
def programForm : Instr → Option Form
  | .iadd f | .isub f | .imul f => some (intForm f 2 arithTypes true false true)
  | .iaddc f | .isubb f => some (carryForm f)
  | .imulh f => some (intForm f 2 [10, 14, 11, 15] false false true)
  | .imad f => some (intForm f 3 arithTypes true false true)
  | .imadw f => some (formOf f (imadwEnc f) (immOf f 3 64))
  | .idiv f | .irem f => some (intForm f 2 arithTypes false true true)
  | .imin f | .imax f => some (intForm f 2 arithTypes false false true)
  | .iabs f | .ineg f => some (intForm f 1 signedTypes true false false)
  | .and f | .or f | .xor f | .andn f | .orn f => some (bitForm f)
  | .blut f => some (formOf f (blutEnc f) (if mIM f then some (intImm f 3 (blutW f) true) else none))
  | .shl f | .shr f | .sar f => some (shiftForm f)
  | .dsh f => some (dshForm f)
  | .bfx f => some (fieldForm f 2 [14, 10, 15, 11])
  | .bfi f => some (fieldForm f 3 [2, 3])
  | .popc f | .clz f => some (countForm f false)
  | .brev f => some (countForm f true)
  | .prmb f => some (intForm f 3 [2] false false true)
  | .icmp f => some (icmpForm f)
  | .sel f => some (selForm f)
  | .mov f => some (intForm f 1 [2, 3, 4] false false false)
  | .movi f => some (formOf f (moviEnc f))
  | .lea f => some (formOf f (leaEnc f))
  | .movs f => some (movsForm f)
  | .plog f => some (plogForm f)
  | .pget f => some (pgetForm f)
  | .pset f => some (psetForm f)
  | .bra f | .call f => some (formOf f (braEnc f))
  | .brx f | .callx f => some (formOf f (brxEnc f))
  | .ret f =>
    some (formOf f { brxEnc f with sa := if f.sa = 0xF8#8 then .none else .src 2 { g := true, s := true } })
  | .loop f => some (formOf f (loopEnc f))
  | .endl f | .exit f | .nop f | .ocsync f => some (formOf f { modOk := f.mod = 0 })
  | .fgrow f => some (formOf f (fgrowEnc f) none [] (growPred f).toList)
  | .fshrk f => some (formOf f { modOk := f.mod = 0, opOk := frameCountOk f.sc, sc := .raw })
  | .ocfil f | .ocdrop f => some (ocForm f)
  | .fadd f | .fsub f | .fmul f => some (fpForm f 2 [18] true true true false)
  | .ffma f => some (fpForm f 3 [18] true true true false)
  | .fdiv f => some (fpForm f 2 [18, 19] true true true false)
  | .dadd f | .dmul f => some (fpForm f 2 [19] true true true false)
  | .dfma f => some (fpForm f 3 [19] true true true false)
  | .pkadd f | .pkmul f => some (fpForm f 2 [16, 17] true true true true)
  | .pkfma f => some (fpForm f 3 [16, 17] true true true true)
  | .fmin f | .fmax f => some (fpForm f 2 [18, 19] false true true false)
  | .fcmp f => some (fcmpForm f 18)
  | .dcmp f => some (fcmpForm f 19)
  | .fcls f =>
    some (formOf f { fpEnc f 1 [18, 19, 16, 17, 20, 21] false false false with dst := .dst 1 dst2 })
  | .frcp f | .frsq f | .fsqrt f | .frnd f => some (fnForm f [18, 19])
  | .fex2 f | .flg2 f | .fsin f | .fcos f => some (fnForm f [18])
  | .f2i f => some (convForm f false true true)
  | .i2f f => some (convForm f true false false)
  | .f2f f => some (convForm f true true true)
  | .sclq f => some (sclqForm f)
  | .bpack f => some (bpackForm f)
  | .bpext f => some (bpextForm f)
  | .ld f => some (formOf f (ldEnc f))
  | .st f => some (formOf f (stEnc f))
  | .atom f => some (formOf f (atomEnc f))
  | .acas f => some (formOf f (acasEnc f))
  | .red f => some (formOf f (redEnc f))
  | .fence f => some (formOf f { modOk := bits f.mod.toNat 6 0 = 0 && mORD f != 0 })
  | .fenceCode f => some (formOf f { modOk := bits f.mod.toNat 8 0 = 0 })
  | .pref f => some (formOf f (prefEnc f 2 4))
  | .ldem f => some (formOf f (prefEnc f 3 2))
  | .pgrow f => some (formOf f (pgrowEnc f) none [] (growPred f).toList)
  | .pshrk f | .pause f =>
    some (formOf f { modOk := bits f.mod.toNat 9 0 = 0, sa := (countRoles f).1, sb := (countRoles f).2 })
  | .pqry f => some (formOf f { modOk := decide (f.mod.toNat ≤ 3), dst := .dst 1 { g := true } })
  | .rclean f | .rinv f => some (formOf f (regionEnc f))
  | .bar f | .bara f => some (formOf f (barEnc f true))
  | .barw f => some (formOf f (barEnc f false))
  | .pcoll f =>
    some (formOf f (pcollEnc f) (maskImm f) [f.sa.toNat % 8] (if collMode f.mod = 3 then [] else [f.dst.toNat % 8]))
  | .lxch f =>
    some (formOf f (lxchEnc f) (if mIM f then some (wrapNat 32 (sextInt 8 f.sc.toNat)) else none))
  | .matchLanes f => some (formOf f (matchEnc f) (maskImm f))
  | .redh f => some (formOf f (redhEnc f) (if mIM f then some f.sc.toNat else none))
  | .hget f => some (formOf f (hgetEnc f) (if mIM f then some f.sc.toNat else none))
  | .suspend f =>
    some (formOf f { loopEnc f with modOk := bits f.mod.toNat 8 4 = 0 && decide (bits f.mod.toNat 10 9 ≤ 1) })
  | .evadd f => some (formOf f (evaddEnc f))
  | .evget f =>
    some (formOf f { modOk := bits f.mod.toNat 10 4 = 0, dst := .dst 1 { g := true, s := true } })
  | .cdecl f => some (formOf f (cdeclEnc f))
  | .acp f => some (formOf f (acpEnc f) (if mIM f then some f.sc.toNat else none))
  | .tagw f =>
    some (formOf f { modOk := bits f.mod.toNat 9 3 = 0, sa := (countRoles f).1, sb := (countRoles f).2 })
  | .cpy f => some (formOf f (cpyEnc f))
  | .wptr f =>
    some (formOf f { modOk := bits f.mod.toNat 10 3 = 0, dst := .dst 2 { g := true, s := true }, tdOk := false })
  | .scpy f => some (formOf f (mxEnc f 0x288))
  | .mldw f => some (formOf f (mxEnc f 0x289))
  | .mswp f => some (formOf f (mxEnc0 f 0))
  | .mmul f => some (formOf f (mxEnc f 0x28B))
  | .mout f => some (formOf f (mxEnc f 0x28C))
  | .mzero f => some (formOf f (mxEnc0 f 1))
  | .qfence f => some (formOf f { modOk := bits f.mod.toNat 10 6 = 0 && f.mod != 0 })
  | .guard f => some (formOf f { modOk := bits f.mod.toNat 10 4 = 0 })
  | .gres f =>
    some (formOf f { modOk := bits f.mod.toNat 9 4 = 0, sa := (countRoles f).1, sb := (countRoles f).2 })
  | .wait f => some (formOf f (waitEnc f))
  | .tkpush f => some (formOf f (tkpushEnc f) none [] [f.dst.toNat % 8])
  | .tkpop f =>
    some (formOf f { modOk := bits f.mod.toNat 10 7 = 0, sa := .src 1 { g := true, s := true, z := true } })
  | .tkdone f =>
    some (formOf f { modOk := bits f.mod.toNat 10 6 = 0 && bits f.mod.toNat 1 0 = 0 && tailOk f && decide (f.dst.toNat < 8), dst := .raw, tdOk := false } none [] [f.dst.toNat % 8])
  | .sqcfg f | .sqmap f => some (formOf f (sqEnc f true))
  | .sqsig f | .sqcmp f | .sqstep f => some (formOf f (sqEnc f false))
  | .vswpt f => some (formOf f { modOk := bits f.mod.toNat 10 8 = 0 })
  | .trap f | .bkpt f => some (formOf f (trapEnc f))
  | .tret f => some (formOf f { modOk := f.mod = 0, tdOk := false })
  | .ckpt f => some (formOf f (ckptEnc f) none [] (if f.mod.getLsbD 0 then [mD f] else []))
  | .srd f => some (formOf f (srdEnc f))
  | .swr f =>
    some (formOf f (swrEnc f) (if mIM f then some (f.ext1.toNat % 2 ^ (32 * sysRegs (sysNum f))) else none))
  | .tmark f => some (formOf f (tmarkEnc f) (if formExt f.form = 0 then none else some f.ext1.toNat))
  | .csumr f =>
    some (formOf f { modOk := f.mod = 0, dst := .dst 2 { g := true, s := true }, tdOk := false })
  | .idle f =>
    some (formOf f { modOk := bits f.mod.toNat 9 0 = 0, sa := (countRoles f).1, sb := (countRoles f).2, tdOk := false })
  | .nput f | .nget f => some (formOf f (netEnc f false))
  | .nsig f => some (formOf f (netEnc f true))
  | .nwait f => some (formOf f (nwaitEnc f))
  | .pairWord a b =>
    match halfKind a.hop, halfKind b.hop with
    | some ka, some kb => some (pairForm a b ka kb)
    | _, _ => none
  | _ => none

end Sys2Proof.Machine
end

