-- ==== Sys2Proof/Safety.lean ====
section
/-! DEFINITION. The terms that claims use: what holds of every state, what a safe run is, when a thread is
ready to run an instruction of a form, and the states that one instruction leaves: completed, trapped,
stalled or waiting. -/

namespace Sys2Proof.Machine

/-- What every step keeps: device memory is in canonical form, and the boot store counts at most three
failed starts in a row (R421). -/
def State.Inv (s : State) : Prop :=
  Memory.wf s.mem = true ∧ s.boot.fails ≤ 3

/-- A run of `k` steps that neither faults nor is refused. -/
def SafeFor (k : Nat) (s : State) : Prop := ∃ t, Host.Core.run Sys2Proof.core k s = .next t

/-! ### An instruction of one thread -/

/-- Thread `k`, in state `t` and of workgroup `w`, issues alone an instruction of form `F`: the encoding is
legal for its frame (R50), the guard holds (R12), and nothing that the instruction needs is under way: a
predicate of the Task Queue Controller (R320), a load (R123), a fill (R120), an order that a replay asks for
(R370), room in the undo log for its results or in the order log (R347), a bank of the pool (R184), a queue entry or
the room for one (R37, R158). -/
structure Ready (s : State) (F : Form) (k : Nat) (t : Thread) (w : Workgroup) : Prop where
  issues : s.issue = [k]
  thread : look k s.threads = some t
  workgroup : look t.wg s.wgs = some w
  legal : F.check t.fsize = none
  guardKnown : isPendP t F.guard.1 = false
  guardHolds : (predAt t F.guard.1 == F.guard.2) = false
  predicates : (F.predR ++ F.predW).any (isPendP t) = false
  loads : waitsForLoad F t w = false
  fills : waitsForFill F t = false
  order : orderedRegs s k t F = true
  room : frameRoom s k t (frameWrites F t) = true
  logs : logSpent s t.fn = false
  banks : banksBusy s k (operandGrans s k t F) = false
  unheld : t.held = none
  queues : qCheck F s w t = none

/-- The source values of an instruction, in order: registers, then its immediate. -/
def sources (F : Form) (t : Thread) (w : Workgroup) : List Nat := readSources w t [] F.reads ++ F.imm

/-- The workgroup of a compute thread: an apprentice's issues are not in the exit record (R160, R365). -/
def counted (t : Thread) : List Nat := if t.apprentice then [] else [t.wg]

/-- The state after thread `k` has completed an instruction of form `F` with the results `vs`, going on at
`pc`; `s` is the state that the instruction's own effect left. -/
def completed (k : Nat) (t : Thread) (F : Form) (pc : DWord) (vs : List Nat) (s : State) : State :=
  settle [k] [t.wg] (counted t) [k] t.pc t.spord.toNat (complete k t F pc vs s)

/-- The state after the instruction of thread `k` has trapped before its effect. -/
def trapped (k : Nat) (t : Thread) (q : TrapReq) (s : State) : State :=
  settle [k] [t.wg] (counted t) [k] t.pc t.spord.toNat (takeTraps [⟨k, q, t.pc, t.pc⟩] s)

/-- The state after thread `k` has completed an instruction and then trapped (R328). -/
def completedTrapped (k : Nat) (t : Thread) (F : Form) (q : TrapReq) (vs : List Nat) (s : State) : State :=
  settle [k] [t.wg] (counted t) [k] t.pc t.spord.toNat (takeTraps [⟨k, q, t.pc, nextPc t F⟩] (complete k t F (nextPc t F) vs s))

/-- The state after thread `k` has issued an instruction that another step completes. -/
def waiting (k : Nat) (t : Thread) (F : Form) (v : Wait) (s : State) : State :=
  settle [k] [t.wg] (counted t) [k] t.pc t.spord.toNat (beginWaiting k t F v s)

/-- The state after thread `k` could not issue: it keeps its place and tries again. `srcs` are source
values that it keeps (R343). -/
def stalled (k : Nat) (t : Thread) (st : Stall) (held : Option (List Nat)) (s : State) : State :=
  settle [k] [] [] [] t.pc 0 (s.modThread k (stallThread (s.ctx t.fn).clock st held))

/-- The state after the guard of an instruction of thread `k` was false (R12). -/
def skipped (k : Nat) (t : Thread) (F : Form) (s : State) : State :=
  settle [k] [t.wg] (counted t) [k] t.pc t.spord.toNat (s.modThread k (advance (s.ctx t.fn).pcycle (nextPc t F) F.stop))

/-- A result of an instruction: it completes where it raises no enabled exception, else it completes and
traps FP_ENABLED (R11, R125). -/
def fpFinished (k : Nat) (t : Thread) (F : Form) (e : Exc) (vs : List Nat) (s : State) : State :=
  let s := s.modThread k (fun t => { t with fstat := raiseFlags e t.fstat })
  if trapsFp e t.fstat then completedTrapped k t F (trapAfter cFpEnabled) vs s
  else completed k t F (nextPc t F) vs s

/-- The operand cache of a thread agrees with its frame: the frame has a slot for each of the thread's
registers (R6), every entry is of a slot that the frame has, no register has two entries, and a clean entry
holds what its slot holds (R13, R14). -/
structure Thread.OcOk (t : Thread) : Prop where
  sized : t.fsize ≤ t.frame.length
  inFrame : ∀ e ∈ t.oc, e.reg < t.frame.length
  single : (t.oc.map (·.reg)).Nodup
  clean : ∀ e ∈ t.oc, e.dirty = false → frameAt t e.reg = e.val

/-- What a read of gN of a thread returns (R16). -/
def State.regG (s : State) (k n : Nat) : Option Word := (look k s.threads).map (fun t => readG t n)

/-- One issue of one thread: the state before it, the thread and its key, its workgroup, and the form of the
instruction. -/
structure Issue where
  s : State
  k : Nat
  t : Thread
  w : Workgroup
  F : Form

/-- It is an issue of instruction `i` by a thread that is ready for it. -/
def Issue.Of (x : Issue) (i : Instr) : Prop := programForm i = some x.F ∧ Ready x.s x.F x.k x.t x.w

/-- Its source values, and the first three of them. -/
def Issue.src (x : Issue) : List Nat := sources x.F x.t x.w
def Issue.a (x : Issue) : Nat := nth 0 0 x.src
def Issue.b (x : Issue) : Nat := nth 0 1 x.src
def Issue.c (x : Issue) : Nat := nth 0 2 x.src

/-- The core and the function of the issue. -/
def Issue.core (x : Issue) : Nat := coreOf x.k
def Issue.ctx (x : Issue) : Context := x.s.ctx x.t.fn

/-- The state after it: completed with results, gone on elsewhere, trapped, completed and then trapped,
waiting, stalled, or completed as a floating-point instruction. `s` is the state that the instruction's own
effect left. -/
def Issue.done (x : Issue) (vs : List Nat) (s : State) : State := completed x.k x.t x.F (nextPc x.t x.F) vs s
def Issue.jump (x : Issue) (pc : DWord) (s : State) : State := completed x.k x.t x.F pc [] s
def Issue.trap (x : Issue) (q : TrapReq) (s : State) : State := trapped x.k x.t q s
def Issue.after (x : Issue) (q : TrapReq) (vs : List Nat) (s : State) : State :=
  completedTrapped x.k x.t x.F q vs s
def Issue.waits (x : Issue) (v : Wait) (s : State) : State := waiting x.k x.t x.F v s
def Issue.fp (x : Issue) (e : Exc) (vs : List Nat) (s : State) : State := fpFinished x.k x.t x.F e vs s

/-- The state after it where the instruction has ended the thread or given it another place. -/
def Issue.left (x : Issue) (s : State) : State :=
  settle [x.k] [x.t.wg] (counted x.t) [x.k] x.t.pc x.t.spord.toNat s

/-- The state after a stall that keeps no source values. -/
def Issue.stall (x : Issue) (st : Stall) : State := stalled x.k x.t st none x.s

/-- The state after a stall that keeps the source values. -/
def Issue.hold (x : Issue) (st : Stall) : State :=
  stalled x.k x.t st (some x.src) (takeSources x.k x.t x.F x.s)

end Sys2Proof.Machine
end

