-- ==== Sys2Proof/WellFormed.lean ====
section
/-! DEFINITION. Well-formed instructions: those that the decoder can produce (R29, R48), and device steps
that name units which exist (R1, R389, R391, R397, R410). -/

namespace Sys2Proof

/-- Whether a first word is no instruction: its opcode is unassigned or has no such form (R48). -/
def isIllegal (w : DWord) : Bool :=
  w.extractLsb' 62 2 != 0b01#2 &&
    match opRow (w.extractLsb' 52 10).toNat opcodes with
    | none => true
    | some (most, _) => decide (most < formExt (w.extractLsb' 62 2))

/-- Whether the form of a full instruction is one its opcode has, and the words it does not have are 0. -/
def formOk (opc : Nat) (f : Fields) : Bool :=
  f.form != 0b01#2 && (formExt f.form != 0 || f.ext1 = 0) && (formExt f.form = 2 || f.ext2 = 0)
    && match opRow opc opcodes with
      | none => false
      | some (most, _) => decide (formExt f.form ≤ most)

/-- FENCE.code is the FENCE whose scope field is 00 (R234). -/
def fenceOk (i : Instr) (f : Fields) : Bool :=
  match i with
  | .fence _ => f.mod.extractLsb' 9 2 != 0#2
  | .fenceCode _ => f.mod.extractLsb' 9 2 = 0#2
  | _ => true

/-- Whether a device step names units that exist. -/
def eventOk : Instr → Bool
  | .barstallWrite c _ | .poolwaitWrite c _ | .poolcfgWrite c _ | .regroupBoundary c | .poolGrant c
  | .poolWaitTimeout c _ | .downRequest c | .upRequest c | .debugBreakpoint c | .residueDrain c
  | .traceSample c => decide (c < Config.cores)
  | .signingRoundComplete n c | .signingRoundDiscard n c => decide (n < Config.sections) && decide (c < 16)
  | .quadrantTenureGrant n => decide (n < Config.sections)
  | .pageRequestComplete d e => decide (d < 2) && decide (e < Config.pageReqEntries)
  | .barrierStall _ b => decide (b < 16)
  | .cpyCommand _ ch _ => decide (ch < 2)
  | .sliceTagError n _ _ => decide (n < Config.slices)
  | .notifyWrite d n _ => decide (d.fn < Config.functions) && decide (n.slot < 32)
  | .foremanTimer hw => decide (hw < 256)
  | .queueCreate fn q | .queueDestroy fn q | .queueReset fn q | .appendConsume fn q | .stampReread fn q =>
    decide (fn < Config.functions) && decide (q < 2 ^ 16)
  | .contextFault fn code unit => decide (fn < Config.functions) && decide (code < 13) && decide (unit < 2 ^ 16)
  | .vfctlWrite fn _ | .vfbandWrite fn _ | .ckptintWrite fn _ | .tracestatWrite fn _ => decide (fn < Config.functions)
  | .bandwidthWindow c _ => decide (c < 256)
  | .bluordFlit d l _ => decide (d < 2) && decide (l < 184)
  | .firmwareHandoverLoad _ m => m.length = 48
  | _ => true

/-- Well-formedness. -/
def Instr.wellFormed (i : Instr) : Bool :=
  match i with
  | .pairWord _ _ => true
  | .illegalInstruction w => isIllegal w
  | i =>
    match i.code with
    | some (opc, f) => formOk opc f && fenceOk i f
    | none => eventOk i

end Sys2Proof
end

