-- ==== Sys2Proof/Certificates/Slice0/Obligations.lean ====
section
/-! DEFINITION. The statements for the provers. `Issue` (in Safety) is the issue of one instruction by one
thread: `x.s` is the state before it, `x.Of i` says that thread `x.k` issues `i` and is ready for it,
`x.a`, `x.b` and `x.c` are its source values, and `x.done`, `x.jump`, `x.trap`, `x.after` and `x.waits` are
the states that it leaves. -/

open Sys2Proof Sys2Proof.Machine

/-! ### Integer instructions -/

/-- IADD, ISUB, IMUL, IMAD, IMIN, IMAX, IABS, INEG, IMULH and IMADW complete with the exact result of R93 to
R95, clamped with `.sat` and wrapped otherwise (R67). A clamped result reads back as the exact value limited
to the type's range, an unclamped one as the value of the range that is congruent to it modulo 2 to the
width (R66, R67). -/
def Obligations.IntegerArithmetic : Prop :=
  (∀ (f : Fields) (x : Issue),
    let c := mTYPE f
    let a := readInt c x.a
    let b := readInt c x.b
    let r := fun (v : Int) => Host.Outcome.next (x.done [intResult c (mSAT f) v] x.s)
    (x.Of (.iadd f) → exec (.iadd f) x.s = r (a + b)) ∧
    (x.Of (.isub f) → exec (.isub f) x.s = r (a - b)) ∧
    (x.Of (.imul f) → exec (.imul f) x.s = r (a * b)) ∧
    (x.Of (.imad f) → exec (.imad f) x.s = r (a * b + readInt c x.c)) ∧
    (x.Of (.imin f) → exec (.imin f) x.s = r (min a b)) ∧
    (x.Of (.imax f) → exec (.imax f) x.s = r (max a b)) ∧
    (x.Of (.iabs f) → exec (.iabs f) x.s = r |a|) ∧
    (x.Of (.ineg f) → exec (.ineg f) x.s = r (-a)) ∧
    (x.Of (.imulh f) → exec (.imulh f) x.s = r (a * b / (2 ^ typeWidth c : Nat))) ∧
    (x.Of (.imadw f) → exec (.imadw f) x.s = .next (x.done
      [wrapNat 64 (readInt c x.a * readInt c x.b + readInt (c + 1) x.c)] x.s))) ∧
  (∀ (c : Nat) (v : Int), c ∈ arithTypes →
    readInt c (intResult c true v) = max (minInt c) (min (maxInt c) v) ∧
    ((2 ^ typeWidth c : Nat) : Int) ∣ readInt c (intResult c false v) - v ∧
    minInt c ≤ readInt c (intResult c false v) ∧ readInt c (intResult c false v) ≤ maxInt c)

/-- IADD, ISUB and IMUL of 32-bit types, not saturating, leave the two's complement sum, difference and
product of the two source words in a g-register, which is not transient. -/
def Obligations.WordArithmetic : Prop :=
  ∀ (f : Fields) (x : Issue) (A B : Word),
    (mTYPE f = 10 ∨ mTYPE f = 14) → mSAT f = false → regClass f.dst = .g → f.td = false →
    x.t.OcOk → x.a = A.toNat → x.b = B.toNat →
    (x.Of (.iadd f) → ∃ u, exec (.iadd f) x.s = .next u ∧ u.regG x.k f.dst.toNat = some (A + B)) ∧
    (x.Of (.isub f) → ∃ u, exec (.isub f) x.s = .next u ∧ u.regG x.k f.dst.toNat = some (A - B)) ∧
    (x.Of (.imul f) → ∃ u, exec (.imul f) x.s = .next u ∧ u.regG x.k f.dst.toNat = some (A * B))

/-- IADDC adds the carry of the predicate N that RND names and leaves the carry out there; ISUBB does so with a
borrow (R96). IDIV and IREM give the quotient and remainder of R68, or with `.chk` trap DIV_CHECK before any
effect where the divisor is 0 or a signed quotient overflows (R97). -/
def Obligations.CarryAndDivision : Prop :=
  (∀ (f : Fields) (x : Issue),
    let w := typeWidth (mTYPE f)
    let n := mRND f
    let a := x.a % 2 ^ w
    let b := x.b % 2 ^ w
    let p := if predAt x.t n then 1 else 0
    (x.Of (.iaddc f) → exec (.iaddc f) x.s = .next (x.done [(a + b + p) % 2 ^ w]
      (x.s.modThread x.k (setPred n (decide (2 ^ w ≤ a + b + p)))))) ∧
    (x.Of (.isubb f) → exec (.isubb f) x.s = .next (x.done [wrapNat w ((a : Int) - b - p)]
      (x.s.modThread x.k (setPred n (decide (a < b + p))))))) ∧
  (∀ (f : Fields) (x : Issue),
    let c := mTYPE f
    let a := readInt c x.a
    let b := readInt c x.b
    let special := b = 0 ∨ (signedTy c = true ∧ a = minInt c ∧ b = -1)
    ((mFZ f = true ∧ special) →
      (x.Of (.idiv f) → exec (.idiv f) x.s = .next (x.trap (trapBefore cDivCheck) x.s)) ∧
      (x.Of (.irem f) → exec (.irem f) x.s = .next (x.trap (trapBefore cDivCheck) x.s))) ∧
    (¬ (mFZ f = true ∧ special) →
      (x.Of (.idiv f) → exec (.idiv f) x.s = .next (x.done [intResult c false
        (if b = 0 then (if signedTy c then -1 else maxInt c)
         else if signedTy c ∧ a = minInt c ∧ b = -1 then minInt c else a.tdiv b)] x.s)) ∧
      (x.Of (.irem f) → exec (.irem f) x.s = .next (x.done [intResult c false
        (if b = 0 then a else if signedTy c ∧ a = minInt c ∧ b = -1 then 0 else a.tmod b)] x.s))))

/-- AND, OR, XOR, ANDN and ORN work on each bit of the type's width (R98); BLUT looks each bit of its three
sources up in its 8-bit table, source A being the lowest index bit (R99). -/
def Obligations.BitwiseLogic : Prop :=
  ∀ (f : Fields) (x : Issue),
    let c := mTYPE f
    let w := typeWidth c
    let a := x.a % 2 ^ w
    let b := x.b % 2 ^ w
    let r := fun (v : Nat) => Host.Outcome.next (x.done [placeInt c (v % 2 ^ w)] x.s)
    (x.Of (.and f) → exec (.and f) x.s = r (a &&& b)) ∧
    (x.Of (.or f) → exec (.or f) x.s = r (a ||| b)) ∧
    (x.Of (.xor f) → exec (.xor f) x.s = r (a ^^^ b)) ∧
    (x.Of (.andn f) → exec (.andn f) x.s = r (a &&& (2 ^ w - 1 - b))) ∧
    (x.Of (.orn f) → exec (.orn f) x.s = r (a ||| (2 ^ w - 1 - b))) ∧
    (x.Of (.blut f) → ∃ v, exec (.blut f) x.s = .next (x.done [v] x.s) ∧
      ∀ i, v.testBit i = (decide (i < blutW f) && (bits f.mod.toNat 7 0).testBit
        ((x.a.testBit i).toNat + 2 * (x.b.testBit i).toNat + 4 * (x.c.testBit i).toNat)))

/-- The shifts, DSH, the bit-field instructions, POPC, CLZ, BREV and PRMB complete with their results (R100 to
R104). A shift count of the width or more gives 0 from SHL and SHR and copies of the sign bit from SAR;
below it the shifts are those of bit vectors (R69). -/
def Obligations.ShiftsAndFields : Prop :=
  (∀ (f : Fields) (x : Issue),
    let c := mTYPE f
    let w := typeWidth c
    let r := fun (v : Nat) => Host.Outcome.next (x.done [v] x.s)
    (x.Of (.shl f) → exec (.shl f) x.s = r (placeInt c (shiftLeft w x.a x.b))) ∧
    (x.Of (.shr f) → exec (.shr f) x.s = r (placeInt c (shiftRight w x.a x.b))) ∧
    (x.Of (.sar f) → exec (.sar f) x.s = r (placeInt c (shiftArith w x.a x.b))) ∧
    (x.Of (.dsh f) → exec (.dsh f) x.s = r (doubleShift (mRND f = 1) x.a x.b x.c)) ∧
    (x.Of (.bfx f) → exec (.bfx f) x.s = r (fieldExtract c x.a x.b)) ∧
    (x.Of (.bfi f) → exec (.bfi f) x.s = r (fieldInsert w x.a x.b x.c)) ∧
    (x.Of (.popc f) → exec (.popc f) x.s = r (popCount w x.a)) ∧
    (x.Of (.clz f) → exec (.clz f) x.s = r (leadingZeros w x.a)) ∧
    (x.Of (.brev f) → exec (.brev f) x.s = r (reverseBits w x.a)) ∧
    (x.Of (.prmb f) → exec (.prmb f) x.s = r (permByte x.a x.b x.c 0 + permByte x.a x.b x.c 1 * 2 ^ 8
      + permByte x.a x.b x.c 2 * 2 ^ 16 + permByte x.a x.b x.c 3 * 2 ^ 24))) ∧
  (∀ (w : Nat) (v : BitVec w) (n : Nat), 0 < w →
    shiftLeft w v.toNat n = (v <<< n).toNat ∧ shiftRight w v.toNat n = (v >>> n).toNat ∧
    shiftArith w v.toNat n = (v.sshiftRight n).toNat ∧
    (w ≤ n → shiftLeft w v.toNat n = 0 ∧ shiftRight w v.toNat n = 0))

/-- ICMP, SEL, MOV, MOVI, LEA and MOVS (R105 to R109, R112), PLOG, PGET and PSET (R110, R111) complete. -/
def Obligations.ComparesAndMoves : Prop :=
  ∀ (f : Fields) (x : Issue),
    let c := mTYPE f
    (x.Of (.icmp f) → exec (.icmp f) x.s = .next (x.done [] (x.s.modThread x.k (setPred f.dst.toNat
      (compareInt (mRND f) (readInt c x.a) (readInt c x.b)))))) ∧
    (x.Of (.sel f) → exec (.sel f) x.s = .next (x.done
      [if predAt x.t (mRND f) != mSAT f then x.a else x.b] x.s)) ∧
    (x.Of (.mov f) → exec (.mov f) x.s = .next (x.done [x.a] x.s)) ∧
    (x.Of (.movi f) → exec (.movi f) x.s = .next (x.done [moviValue f] x.s)) ∧
    (x.Of (.lea f) → exec (.lea f) x.s = .next (x.done
      [addrOf x.a x.b (bits f.mod.toNat 1 0) (dispOf f)] x.s)) ∧
    (x.Of (.movs f) → exec (.movs f) x.s = .next (x.done
      [movsValue x.s x.k x.t x.w (bits f.mod.toNat 7 0)] x.s)) ∧
    (x.Of (.plog f) → exec (.plog f) x.s = .next (x.done [] (x.s.modThread x.k (setPred f.dst.toNat
      (lut3 (bits f.mod.toNat 7 0) (predAt x.t f.sa.toNat) (predAt x.t f.sb.toNat)
        (predAt x.t f.sc.toNat)))))) ∧
    (x.Of (.pget f) → exec (.pget f) x.s = .next (x.done [x.t.preds.toNat + 128] x.s)) ∧
    (x.Of (.pset f) → exec (.pset f) x.s = .next (x.done []
      (x.s.modThread x.k (setPreds (setBits 7 (bits f.mod.toNat 6 0)) x.a))))

/-! ### Control -/

/-- A branch goes to its target, and CALL and CALLX leave the address of the next instruction in LNK; a
target beyond the address space traps ACCESS_VIOLATION of kind 2, a register target that is not a
multiple of 8 traps MISALIGNED, and nothing else changes then (R43, R114, R115). -/
def Obligations.Branches : Prop :=
  ∀ (f : Fields) (x : Issue) (i : Instr) (a : Nat) (call reg : Bool),
    ((i = .bra f ∧ a = relative x.t.pc (braDisp f) ∧ call = false ∧ reg = false) ∨
     (i = .call f ∧ a = relative x.t.pc (braDisp f) ∧ call = true ∧ reg = false) ∨
     (i = .brx f ∧ a = x.a ∧ call = false ∧ reg = true) ∨
     (i = .callx f ∧ a = x.a ∧ call = true ∧ reg = true) ∨
     (i = .ret f ∧ a = (if f.sa = 0xF8#8 then x.t.lnk.toNat else x.a) ∧ call = false ∧ reg = true)) →
    x.Of i →
    (2 ^ 57 ≤ a → exec i x.s = .next (x.trap (trapBefore cAccessViolation 2) x.s)) ∧
    (a < 2 ^ 57 → reg = true → a % 8 ≠ 0 → exec i x.s = .next (x.trap (trapBefore cMisaligned) x.s)) ∧
    (a < 2 ^ 57 → reg = false ∨ a % 8 = 0 → exec i x.s = .next (x.jump (BitVec.ofNat 64 a)
      (if call then x.s.modThread x.k (fun t => { t with lnk := nextPc t x.F })
       else x.s)))

/-- LOOP pushes an entry, or with a count of 0 goes to its exit; a fifth entry traps. ENDL counts the top
entry down and goes back to the loop's start, or pops the entry and goes on (R116). `loopsBelow` is the
stack without this loop's own entry. Outside trap handlers. -/
def Obligations.Loops : Prop :=
  ∀ (f : Fields) (x : Issue), x.t.tdepth = 0 →
    let exit := relative x.t.pc (loopDisp f)
    let rest := loopsBelow x.t.pc x.t.loops
    (x.Of (.loop f) →
      (2 ^ 57 ≤ exit → exec (.loop f) x.s = .next (x.trap (trapBefore cAccessViolation 2) x.s)) ∧
      (exit < 2 ^ 57 → x.a = 0 → exec (.loop f) x.s = .next (x.jump (BitVec.ofNat 64 exit)
        (x.s.modThread x.k (fun t => { t with loops := rest })))) ∧
      (exit < 2 ^ 57 → x.a ≠ 0 → rest.length = 4 →
        exec (.loop f) x.s = .next (x.trap (trapBefore cIllegalInstruction) x.s)) ∧
      (exit < 2 ^ 57 → x.a ≠ 0 → rest.length ≠ 4 → exec (.loop f) x.s = .next (x.done []
        (x.s.modThread x.k (fun t => { t with
          loops := ⟨t.pc, nextPc t x.F, BitVec.ofNat 32 x.a⟩ :: rest }))))) ∧
    (x.Of (.endl f) →
      (x.t.loops = [] → exec (.endl f) x.s = .next (x.trap (trapBefore cIllegalInstruction) x.s)) ∧
      (∀ e l, x.t.loops = e :: l → e.count = 1 → exec (.endl f) x.s = .next (x.done []
        (x.s.modThread x.k (fun t => { t with loops := l })))) ∧
      (∀ e l, x.t.loops = e :: l → e.count ≠ 1 → exec (.endl f) x.s = .next (x.jump e.start
        (x.s.modThread x.k (fun t => { t with loops := { e with count := e.count - 1 } :: l })))))

/-- NOP, OCFIL, OCDROP and, where the undo log has room for the slots that it writes, OCSYNC complete; FSHRK gives
the frame's top back to the pool, or traps where fewer than 8 registers would be left (R118 to R121, R188, R347). -/
def Obligations.FrameInstructions : Prop :=
  ∀ (f : Fields) (x : Issue),
    (x.Of (.nop f) → exec (.nop f) x.s = .next (x.done [] x.s)) ∧
    (x.Of (.ocfil f) → exec (.ocfil f) x.s = .next (x.done [] (x.s.modThread x.k (fun u =>
      { u with fills := u.fills ++ fillsAsked x.t (ocNamed f) })))) ∧
    (x.Of (.ocdrop f) → exec (.ocdrop f) x.s = .next (x.done [] (x.s.modThread x.k (killG (ocNamed f))))) ∧
    (x.Of (.ocsync f) → frameRoom x.s x.k x.t (ocSync { x.t with wrote := [] }).wrote = true →
      exec (.ocsync f) x.s = .next (x.done [] (x.s.modThread x.k ocSync))) ∧
    (x.Of (.fshrk f) →
      (x.t.fsize < 8 + f.sc.toNat →
        exec (.fshrk f) x.s = .next (x.trap (trapBefore cIllegalOperand) x.s)) ∧
      (8 + f.sc.toNat ≤ x.t.fsize → (∀ n ∈ x.t.pendG, n < x.t.fsize - f.sc.toNat) →
        exec (.fshrk f) x.s = .next (x.done []
          (settlePool x.core (x.s.modThread x.k (shrinkFrame (x.t.fsize - f.sc.toNat)))))))

/-- EXIT ends its thread (R117): the thread is no more; its stores that are on their way to device memory stay, as the
exited thread's own (`deadName`), so that they are still performed. Where its workgroup has no collective and no switch
point open and no checkpoint is asked for, every thread of another workgroup that does not wait for one stays as it
is. -/
def Obligations.ThreadExit : Prop :=
  ∀ (f : Fields) (x : Issue), x.Of (.exit f) →
    exec (.exit f) x.s = .next (x.left (exitThread x.k x.s)) ∧
    ∃ u, exec (.exit f) x.s = .next u ∧ look x.k u.threads = none ∧
      (∀ o ∈ x.s.ops, o.thread = x.k → o.cls = 2 → o.kind ≠ .load → o.aperture = false →
        ∃ p ∈ u.ops, p = { o with thread := deadName x.k x.s.nextId, wg := p.wg }) ∧
      (x.w.colls = [] → x.w.vsw = [] → (∀ fn, (x.s.ctx fn).ckpt = none) → ∀ j z, look j x.s.threads = some z → z.wg ≠ x.t.wg →
        (∀ d, z.wait ≠ some (.ckpt d)) → look j u.threads = some z)

/-! ### Floating point -/

/-- The arithmetic, minimum, maximum and one-operand instructions of class 2 complete with the format's
operation on each element, or complete and trap FP_ENABLED (R125 to R127, R130, R131). `F` is the format
of the type, `m` the rounding mode that RND or FSTAT names. -/
def Obligations.FloatArithmetic : Prop :=
  ∀ (f : Fields) (x : Issue),
    let F := fmtOf (mTYPE f)
    let m := modeOf (mRND f) x.t.fstat
    let z := mFZ f
    let v := fun (n : Nat) => n % 2 ^ F.width
    let r := fun (y : Nat × Exc) => Host.Outcome.next (x.fp y.2 [y.1] x.s)
    (x.Of (.fadd f) → exec (.fadd f) x.s = r (fpAdd F m z (v x.a) (v x.b))) ∧
    (x.Of (.fsub f) → exec (.fsub f) x.s = r (fpSub F m z (v x.a) (v x.b))) ∧
    (x.Of (.fmul f) → exec (.fmul f) x.s = r (fpMul F m z (v x.a) (v x.b))) ∧
    (x.Of (.ffma f) → exec (.ffma f) x.s = r (fpFma F m z (v x.a) (v x.b) (v x.c))) ∧
    (x.Of (.fdiv f) → exec (.fdiv f) x.s = r (fpDiv F m z (v x.a) (v x.b))) ∧
    (x.Of (.dadd f) → exec (.dadd f) x.s = r (fpAdd F m z (v x.a) (v x.b))) ∧
    (x.Of (.dmul f) → exec (.dmul f) x.s = r (fpMul F m z (v x.a) (v x.b))) ∧
    (x.Of (.dfma f) → exec (.dfma f) x.s = r (fpFma F m z (v x.a) (v x.b) (v x.c))) ∧
    (x.Of (.fmin f) → exec (.fmin f) x.s = r (fpMinMax F false z (v x.a) (v x.b))) ∧
    (x.Of (.fmax f) → exec (.fmax f) x.s = r (fpMinMax F true z (v x.a) (v x.b))) ∧
    (x.Of (.frcp f) → exec (.frcp f) x.s = r (fpRcp F m z (v x.a))) ∧
    (x.Of (.frsq f) → exec (.frsq f) x.s = r (fpRsq F m z (v x.a))) ∧
    (x.Of (.fsqrt f) → exec (.fsqrt f) x.s = r (fpSqrt F m z (v x.a))) ∧
    (x.Of (.fex2 f) → exec (.fex2 f) x.s = r (fpEx2 F m z (v x.a))) ∧
    (x.Of (.flg2 f) → exec (.flg2 f) x.s = r (fpLg2 F m z (v x.a))) ∧
    (x.Of (.fsin f) → exec (.fsin f) x.s = r (fpSin F m z (v x.a))) ∧
    (x.Of (.fcos f) → exec (.fcos f) x.s = r (fpCos F m z (v x.a))) ∧
    (x.Of (.frnd f) → exec (.frnd f) x.s = r (fpIntegral F m z (v x.a)))

/-- PKADD, PKMUL and PKFMA do the operation on the two 16-bit elements of their sources, and raise the
exceptions of both (R66, R126). -/
def Obligations.PackedArithmetic : Prop :=
  ∀ (f : Fields) (x : Issue),
    let F := fmtOf (mTYPE f)
    let m := modeOf (mRND f) x.t.fstat
    let z := mFZ f
    let lo := fun (n : Nat) => n % 2 ^ 16
    let hi := fun (n : Nat) => n / 2 ^ 16 % 2 ^ 16
    let r := fun (p q : Nat × Exc) =>
      Host.Outcome.next (x.fp (p.2.or q.2) [p.1 + 2 ^ 16 * q.1] x.s)
    (x.Of (.pkadd f) → exec (.pkadd f) x.s
      = r (fpAdd F m z (lo x.a) (lo x.b)) (fpAdd F m z (hi x.a) (hi x.b))) ∧
    (x.Of (.pkmul f) → exec (.pkmul f) x.s
      = r (fpMul F m z (lo x.a) (lo x.b)) (fpMul F m z (hi x.a) (hi x.b))) ∧
    (x.Of (.pkfma f) → exec (.pkfma f) x.s
      = r (fpFma F m z (lo x.a) (lo x.b) (lo x.c)) (fpFma F m z (hi x.a) (hi x.b) (hi x.c)))

/-- The compares, FCLS, the conversions, SCLQ and the bit-plane instructions complete (R128, R129, R132 to
R138). -/
def Obligations.FloatComparesAndConversions : Prop :=
  ∀ (f : Fields) (x : Issue),
    let F := fmtOf (mTYPE f)
    let S := fmtOf (codeF (mSTY f))
    let D := fmtOf (codeF (mDTY f))
    let m := modeOf (mRND f) x.t.fstat
    let cmp := fpCompare F (mRND f) (mFZ f) (x.a % 2 ^ F.width) (x.b % 2 ^ F.width)
    let r := fun (y : Nat × Exc) => Host.Outcome.next (x.fp y.2 [y.1] x.s)
    (x.Of (.fcmp f) → exec (.fcmp f) x.s
      = .next (x.fp cmp.2 [] (x.s.modThread x.k (setPred f.dst.toNat cmp.1)))) ∧
    (x.Of (.dcmp f) → exec (.dcmp f) x.s
      = .next (x.fp cmp.2 [] (x.s.modThread x.k (setPred f.dst.toNat cmp.1)))) ∧
    (x.Of (.fcls f) → exec (.fcls f) x.s = .next (x.done [fpClass F x.a] x.s)) ∧
    (x.Of (.f2i f) →
      let c := 8 + mDTY f
      let y := fpToInt S m (typeWidth c) (signedTy c) (mSAT f) (mFZ f) (x.a % 2 ^ S.width)
      exec (.f2i f) x.s = .next (x.fp y.2 [placeInt c y.1] x.s)) ∧
    (x.Of (.i2f f) → exec (.i2f f) x.s = r (intToFp D m (mSAT f) (readInt (8 + mSTY f) x.a))) ∧
    (x.Of (.f2f f) → exec (.f2f f) x.s = r (fpToFp S D m (mSAT f) (mFZ f) (x.a % 2 ^ S.width))) ∧
    (x.Of (.sclq f) → exec (.sclq f) x.s
      = r (scaleQuantise (mTYPE f) m (mSAT f) (mFZ f) (x.a % 2 ^ 32) (x.b % 2 ^ 32))) ∧
    (x.Of (.bpack f) → exec (.bpack f) x.s = .next (x.done [planePack x.a x.b] x.s)) ∧
    (x.Of (.bpext f) → exec (.bpext f) x.s = .next (x.done
      [wrapNat 32 (planeExtract (mRND f + 1) (mSAT f) x.a x.b)] x.s))

/-- A pair word whose half opcodes are defined reads both halves' sources, then writes both results, and
raises the exceptions of both (R44, R46, R47). Where both halves trap, the trap frame names the half in bits 31:18: that
is the model's choice (DEDUCED, log 34), which reads R50 and R332 so. -/
def Obligations.PairWords : Prop :=
  ∀ (a b : Half) (ka kb : HalfKind) (x : Issue),
    halfKind a.hop = some ka → halfKind b.hop = some kb → x.Of (.pairWord a b) →
    let rm := fstatRM x.t.fstat
    let va := halfValue a rm (halfArgs ka x.src 0).1 (halfArgs ka x.src 0).2
    let vb := halfValue b rm (halfArgs kb x.src (halfReads ka a).length).1
      (halfArgs kb x.src (halfReads ka a).length).2
    let vs := (if ka = .nop then [] else [va.1]) ++ (if kb = .nop then [] else [vb.1])
    let e := va.2.or vb.2
    let s := x.s.modThread x.k (fun t => { t with fstat := raiseFlags e t.fstat })
    exec (.pairWord a b) x.s = .next
      (if trapsFp e x.t.fstat then x.after ⟨cFpEnabled, 0, 0, true, true, !trapsFp va.2 x.t.fstat⟩ vs s
       else x.done vs s)

/-! ### Memory instructions -/

/-- LD takes its value from the L1 line, from scratchpad, or asks the home slice; either way one operation
of the thread is in flight, `ld` rises and the destination waits (R122, R123, R222 to R224, R250). An L1 line and
scratchpad are read where their bank is free in the cycle (R184), the line where no load or atomic of the thread to the
bytes is on its way (R27, R212). -/
def Obligations.Loads : Prop :=
  ∀ (f : Fields) (x : Issue), x.Of (.ld f) → accessHold x.t 1 = none →
    let n := sizeOf' (mSIZE f)
    let va := addrOf x.a x.b (mSCALE f) (dispOf f)
    let home := mORD f = 1 ∧ mSCOPE f ≠ 0
    let Load := fun (o : MemOp) => o.thread = x.k ∧ o.fn = x.t.fn ∧ o.wg = x.t.wg ∧ o.kind = .load ∧
      o.size = n ∧ o.ty = mSIZE f ∧ o.dst = f.dst.toNat ∧ o.regs = regsOf n ∧ o.transient = f.td ∧ o.cls = 1 ∧
      o.acquire = (if mORD f = 1 then some (mSCOPE f) else none)
    (∀ pa cid, checkAccess x.s x.t.fn x.core x.t.wg .read va n = .dev pa cid →
      let s := tlbTake x.t.fn x.core va x.s
      (∀ line, ¬ home → recMode s x.t.fn = 0 → l1Find (lineOf pa) cid (s.core x.core).l1 = some line →
        lineBusy s x.k pa n = false → banksBusy s x.k [line.way] = false →
        ∃ o, Load o ∧ o.aperture = false ∧ o.addr = pa ∧ o.stage = .performed ∧
          o.value = bytesAt (pa % 128) n line.bytes ∧
          exec (.ld f) x.s = .next (x.done [] (send o x.t
            (l1Hinted x.core pa cid (mHINT f) (useBanks x.k [line.way] s))))) ∧
      (home ∨ recMode s x.t.fn ≠ 0 ∨ l1Find (lineOf pa) cid (s.core x.core).l1 = none →
        ∃ o, Load o ∧ o.aperture = false ∧ o.addr = pa ∧ o.cid = cid ∧ o.stage = .sent ∧
          exec (.ld f) x.s = .next (x.done [] (send o x.t s)))) ∧
    (∀ off, checkAccess x.s x.t.fn x.core x.t.wg .read va n = .pad off →
      let banks := (padGranule x.w off).toList
      (∀ o ∈ x.s.ops, o.stage ≠ .claimed) → padReady x.s x.k x.t off 0 = true → banksBusy x.s x.k banks = false →
        ∃ o, Load o ∧ o.aperture = true ∧ o.addr = off ∧ o.stage = .performed ∧
          o.value = padRead x.w off n ∧
          exec (.ld f) x.s = .next (x.done [] (send o x.t (performPad o (useBanks x.k banks x.s)).1)))

/-- ST to scratchpad is performed at once; to device memory it is performed in the core's L1 and sent to the
home slice, and `st` rises (R122, R123, R199, R225). It waits for a bank that another slot uses (R184) and for room
in the undo log (R347). -/
def Obligations.Stores : Prop :=
  ∀ (f : Fields) (x : Issue), x.Of (.st f) → accessHold x.t 2 = none → mORD f = 0 →
    let n := sizeOf' (mSIZE f)
    let va := addrOf x.a x.b (mSCALE f) (dispOf f)
    let Store := fun (o : MemOp) => o.thread = x.k ∧ o.fn = x.t.fn ∧ o.wg = x.t.wg ∧ o.kind = .store ∧
      o.size = n ∧ o.cls = 2 ∧ toBytes n (o.data.toNat + 2 ^ 64 * o.data2.toNat) = toBytes n x.c
    (∀ off, checkAccess x.s x.t.fn x.core x.t.wg .write va n = .pad off →
      let banks := (padGranule x.w off).toList
      (∀ o ∈ x.s.ops, o.stage ≠ .claimed) → claimedPad x.s x.t.wg off n = false →
      padReady x.s x.k x.t off 1 = true → padFull x.s x.t.fn x.t.wg off = false → banksBusy x.s x.k banks = false →
        ∃ o, Store o ∧ o.aperture = true ∧ o.addr = off ∧
          exec (.st f) x.s = .next (x.done [] (performPad o (useBanks x.k banks x.s)).1)) ∧
    (∀ pa cid, checkAccess x.s x.t.fn x.core x.t.wg .write va n = .dev pa cid →
      let banks := ((l1Find (lineOf pa) cid (x.s.core x.core).l1).map (·.way)).toList
      undoFull x.s x.t.fn pa = false → banksBusy x.s x.k banks = false →
        ∃ o, Store o ∧ o.aperture = false ∧ o.addr = pa ∧ o.cid = cid ∧ o.stage = .sent ∧
          exec (.st f) x.s = .next (x.done [] (send o x.t
            (l1Store x.core cid pa o.bytes (tlbTake x.t.fn x.core va (useBanks x.k banks x.s))))))

/-- ATOM, ACAS and RED to device memory are sent to the home slice, which performs them (R226, R229, R230,
R232). -/
def Obligations.Atomics : Prop :=
  ∀ (f : Fields) (x : Issue) (i : Instr) (kind : OpKind) (va swap cls : Nat) (need : Need),
    ((i = .atom f ∧ kind = atomKind (mOP f) ∧ va = addrOf x.a 0 0 (dispOf f) ∧ swap = 0 ∧ cls = 1 ∧ need = .both) ∨
     (i = .red f ∧ kind = atomKind (mOP f) ∧ va = addrOf x.a 0 0 (dispOf f) ∧ swap = 0 ∧ cls = 2 ∧ need = .write) ∨
     (i = .acas f ∧ kind = .cas ∧
       va = addrOf x.a 0 0 (if formExt f.form = 0 then 0 else sextInt 64 f.ext1.toNat) ∧ swap = x.c ∧ cls = 1 ∧
       need = .both)) →
    x.Of i → mORD f < 2 → accessHold x.t cls = none →
    ∀ pa cid, checkAccess x.s x.t.fn x.core x.t.wg need va (atomWidth (mTY f) / 8) = .dev pa cid →
      undoFull x.s x.t.fn pa = false →
        exec i x.s = .next (x.done [] (send
          { atomOp f x.k x.t kind va x.b swap cls with addr := pa, cid := cid } x.t
          (tlbTake x.t.fn x.core va x.s)))

/-- FENCE and FENCE.code complete once what they wait for is over, an acquire at `.sec` or wider drops the
core's L1 and FENCE.code drops its code (R216, R234, R235). PREF of a line that the L1 holds changes the line's use
and priority, and its priority in the home slice; of another it sends a fill, which the thread does not wait for; LDEM lowers the priority of the line in
the levels that it names; both complete also where they find nothing (R236, R237). RCLEAN and RINV complete where they
have nothing to wait for (R241). -/
def Obligations.FencesAndHints : Prop :=
  ∀ (f : Fields) (x : Issue),
    (x.Of (.fence f) →
      ((2 ≤ mORD f → releaseWait x.s x.k x.t (mSCOPE f) 23 = none) ∧ (mORD f < 2 → x.t.ld = 0)) →
      exec (.fence f) x.s = .next (x.done []
        (if mORD f % 2 = 1 ∧ mSCOPE f ≠ 0 then l1Acquire x.core x.s else x.s))) ∧
    (x.Of (.fenceCode f) → x.t.st = 0 → exec (.fenceCode f) x.s = .next (x.done []
      (x.s.modCore x.core (dropCode (fun _ => false))))) ∧
    (x.Of (.pref f) → accessHold x.t 0 = none →
      quietAccess x.s x.t x.k (addrOf x.a x.b (mSCALE f) (dispOf f)) = none →
      exec (.pref f) x.s = .next (x.done [] x.s)) ∧
    (x.Of (.pref f) → accessHold x.t 0 = none →
      ∀ pa cid, quietAccess x.s x.t x.k (addrOf x.a x.b (mSCALE f) (dispOf f)) = some (pa, cid) →
      let s := tlbTake x.t.fn x.core (addrOf x.a x.b (mSCALE f) (dispOf f)) x.s
      let hit := mSCOPE f = 0 ∧ recMode s x.t.fn = 0 ∧ (l1Find (lineOf pa) cid (s.core x.core).l1).isSome = true
      (hit → exec (.pref f) x.s = .next (x.done [] (l1Hinted x.core pa cid (mHINT f) s))) ∧
      (¬ hit → ∃ o : MemOp, o.kind = .fill ∧ o.thread = x.k ∧ o.core = x.core ∧ o.addr = pa ∧ o.cid = cid ∧
        o.hint = mHINT f ∧ o.bypass = decide (mSCOPE f = 1) ∧ o.stage = .sent ∧ o.cls = 0 ∧
        exec (.pref f) x.s = .next (x.done [] (pushOp o s)))) ∧
    (x.Of (.ldem f) → quietAccess x.s x.t x.k (addrOf x.a x.b (mSCALE f) (dispOf f)) = none →
      exec (.ldem f) x.s = .next (x.done [] x.s)) ∧
    (x.Of (.ldem f) →
      ∀ pa cid, quietAccess x.s x.t x.k (addrOf x.a x.b (mSCALE f) (dispOf f)) = some (pa, cid) →
      let lvl : Prio := if mHINT f = 1 then .first else .normal
      ∃ s, exec (.ldem f) x.s = .next (x.done [] s) ∧ s.mem = x.s.mem ∧ s.threads = x.s.threads ∧
        (mSCOPE f ≠ 2 → ∀ l ∈ (s.core x.core).l1, l.line = lineOf pa → l.cid = cid → l.prio = lvl) ∧
        (mSCOPE f ≠ 1 → ∀ p ∈ (s.slice (sliceOf pa)).lines, p.1 = lineOf pa → p.2.cid = cid → p.2.prio = lvl)) ∧
    (x.Of (.rclean f) → addrOf x.a 0 0 (dispOf f) + x.b ≤ 2 ^ 57 → (∀ o ∈ x.s.ops, o.core ≠ x.core) →
      let a := addrOf x.a 0 0 (dispOf f)
      let n := if inAperture a then 0 else x.b
      exec (.rclean f) x.s = .next (x.done [] (orIntegrity x.t.fn (x.s.coreNo x.t.fn x.core)
        (regionFails x.s x.t.fn x.core (n / 4096 + 2) a n) x.s))) ∧
    (x.Of (.rinv f) → addrOf x.a 0 0 (dispOf f) + x.b ≤ 2 ^ 57 → x.t.ld = 0 →
      let a := addrOf x.a 0 0 (dispOf f)
      let n := if inAperture a then 0 else x.b
      exec (.rinv f) x.s = .next (x.done [] (dropRegion x.t.fn x.core (n / 4096 + 2) a n x.s)))

/-- An access of LD or ST with bits 63:57 set traps ACCESS_VIOLATION of kind 2, below that one at an address
that is no multiple of its size traps MISALIGNED; FADDR is its address (R22, R123, R331). An apprentice
thread may not execute BAR, BARA, BARW, REDH, CDECL, HGET or VSWPT: it traps ILLEGAL_INSTRUCTION (R160, R168, R299). -/
def Obligations.AccessAndApprenticeTraps : Prop :=
  (∀ (f : Fields) (x : Issue) (i : Instr),
    ((i = .ld f ∧ accessHold x.t 1 = none) ∨ (i = .st f ∧ accessHold x.t 2 = none)) → x.Of i →
    let va := addrOf x.a x.b (mSCALE f) (dispOf f)
    (2 ^ 57 ≤ va → exec i x.s
      = .next (x.trap (trapBefore cAccessViolation 2 (BitVec.ofNat 64 va)) x.s)) ∧
    (va < 2 ^ 57 → va % sizeOf' (mSIZE f) ≠ 0 →
      exec i x.s = .next (x.trap (trapBefore cMisaligned 0 (BitVec.ofNat 64 va)) x.s))) ∧
  (∀ (f : Fields) (x : Issue) (i : Instr), x.t.apprentice = true →
    i ∈ [.bar f, .bara f, .barw f, .redh f, .cdecl f, .hget f, .vswpt f] → x.Of i →
    exec i x.s = .next (x.trap (trapBefore cIllegalInstruction) x.s))

/-! ### The pool -/

/-- FGROW and PGROW take effect when nobody waits and the pool can grant what they need; they wait when it
cannot and waiting is allowed; with `.nw` they write the predicate (R119, R186, R187, R189, R238). -/
def Obligations.Grows : Prop :=
  ∀ (f : Fields) (x : Issue) (i : Instr) (scratch : Bool) (n : Nat),
    ((i = .fgrow f ∧ scratch = false ∧ n = f.sc.toNat / 8 ∧ x.t.fsize + f.sc.toNat ≤ x.t.flim) ∨
     (i = .pgrow f ∧ scratch = true ∧ n = countOf f x.src ∧ n ≠ 0 ∧
       x.w.spsize + Config.granuleBytes * n ≤ Config.granuleBytes * Config.growMax)) →
    x.Of i → loggedOutcome x.s x.k x.t.fn 3 = none →
    let need := needOf x.s x.core scratch n
    let limit := growLimit x.s x.t.fn x.k
    let set := fun (v : Bool) (s : State) => match growPred f with
      | some d => s.modThread x.k (setPred d v)
      | none => s
    ((x.s.core x.core).waitList = [] → need ≤ grantable x.s x.core →
      exec i x.s = .next (x.done [] (set true
        (growNow x.k x.t.wg scratch n (noteOutcome x.k x.t.fn 3 0 x.s))))) ∧
    (grantable x.s x.core < need → mNW f = true →
      exec i x.s = .next (x.done [] (set false (noteOutcome x.k x.t.fn 3 2 x.s)))) ∧
    (grantable x.s x.core < need → mNW f = false → limit ≠ 0 → need ≤ Config.growMax →
      exec i x.s = .next (x.waits (.pool scratch n) (x.s.modCore x.core (fun c => { c with
        waitList := c.waitList ++ [⟨x.k, scratch, n, x.ctx.clock⟩] })))) ∧
    (grantable x.s x.core < need → mNW f = false → limit = 0 ∨ Config.growMax < need →
      exec i x.s = .next (x.trap (growTrap scratch true n) (noteOutcome x.k x.t.fn 3 2 x.s)))

/-- PSHRK gives the top of the scratchpad back to the pool and PQRY reads the pool (R188, R239, R240). -/
def Obligations.PoolInstructions : Prop :=
  ∀ (f : Fields) (x : Issue),
    let n := countOf f x.src
    (x.Of (.pshrk f) →
      (x.w.spsize < Config.granuleBytes * n →
        exec (.pshrk f) x.s = .next (x.trap (trapBefore cIllegalOperand) x.s)) ∧
      (n = 0 → exec (.pshrk f) x.s = .next (x.done [] x.s)) ∧
      (n ≠ 0 → Config.granuleBytes * n ≤ x.w.spsize →
        padBusy x.s x.t.wg (x.w.spsize - Config.granuleBytes * n) x.w.spsize = false →
        exec (.pshrk f) x.s = .next (x.done []
          (settlePool x.core (x.s.modWg x.t.wg (padResize (x.w.spsize - Config.granuleBytes * n))))))) ∧
    (x.Of (.pqry f) → loggedOutcome x.s x.k x.t.fn 1 = none →
      let v := pqryValue x.s x.core x.t.wg f.mod.toNat
      exec (.pqry f) x.s = .next (x.done [v] (noteOutcome x.k x.t.fn 1 v x.s)))

/-! ### Synchronisation -/

/-- BAR and BARA arrive, and complete where that completes the generation; else BAR waits and BARA completes
(R170). A thread that has arrived at the open generation waits for it. BARW completes, traps or waits. -/
def Obligations.Barriers : Prop :=
  ∀ (f : Fields) (x : Issue), x.t.apprentice = false →
    let n := mBAR f
    let range := BitVec.ofNat 32 x.a
    (∀ i waits, ((i = .bar f ∧ waits = true) ∨ (i = .bara f ∧ waits = false)) → x.Of i →
      rangeBad x.s x.t x.a = false → releaseWait x.s x.k x.t 0 0 = none →
      (x.t.arrived.getLsbD n = true →
        exec i x.s = .next (x.waits (.barrierAgain n range waits) (beginWait x.t n x.s))) ∧
      (x.t.arrived.getLsbD n = false →
        (∀ s, arrive x.k x.t n range x.s = some (true, s) →
          exec i x.s = .next (x.done [] (arriveWaiting x.t.wg n s))) ∧
        (∀ s, arrive x.k x.t n range x.s = some (false, s) →
          exec i x.s = .next (if waits then x.waits (.barrier n) (beginWait x.t n s) else x.done [] s)) ∧
        (arrive x.k x.t n range x.s = none →
          exec i x.s = .next (x.trap (trapBefore cIllegalOperand) x.s)))) ∧
    (x.Of (.barw f) →
      (x.t.withdrawn.getLsbD n = true → exec (.barw f) x.s = .next (x.trap
        (trapBefore cBarrierStall (stallDetail n 0 0)) (x.s.modThread x.k (fun t => { t with
          withdrawn := t.withdrawn &&& ~~~(barBit n) })))) ∧
      (x.t.withdrawn.getLsbD n = false → x.t.arrived.getLsbD n = true →
        exec (.barw f) x.s = .next (x.waits (.barrier n) (beginWait x.t n x.s))) ∧
      (x.t.withdrawn.getLsbD n = false → x.t.arrived.getLsbD n = false →
        exec (.barw f) x.s = .next (x.done [] x.s)))

/-- PCOLL, LXCH and MATCH: the member that arrives last completes with its result and gives the others
theirs; one that is not the last waits; a thread that its mask leaves out, or whose operation, modifiers or
mask differ from the open instance's, traps (R172 to R176). -/
def Obligations.Collectives : Prop :=
  ∀ (f : Fields) (x : Issue) (i : Instr) (op : Nat) (mask : Word) (value : DWord) (sel : Word),
    ((i = .pcoll f ∧ op = 0x208 ∧ mask = BitVec.ofNat 32 x.a ∧
       value = BitVec.ofNat 64 (if predAt x.t (f.sa.toNat % 8) != f.mod.getLsbD 7 then 1 else 0) ∧
       sel = (if collMode f.mod = 3 then 0 else BitVec.ofNat 32 (f.dst.toNat % 8))) ∨
     (i = .lxch f ∧ op = 0x209 ∧ mask = BitVec.ofNat 32 x.b ∧ value = BitVec.ofNat 64 x.a ∧
       sel = BitVec.ofNat 32 x.c) ∨
     (i = .matchLanes f ∧ op = 0x20A ∧ mask = BitVec.ofNat 32 x.b ∧ value = BitVec.ofNat 64 x.a ∧ sel = 0)) →
    x.Of i →
    let warp := warpOf x.k
    let old := x.w.colls.find? (isColl warp x.t.pc)
    let me : Arrival := ⟨x.k, laneOf x.k, value, sel⟩
    let c : Collective := ⟨warp, x.t.apprentice, x.t.pc, op, f.mod, mask,
      ((old.map (·.here)).getD []) ++ [me], x.ctx.clock⟩
    let legal := (mask = 0 ∨ mask.getLsbD (laneOf x.k) = true) ∧
      ∀ d, old = some d → d.op = op ∧ d.mod = f.mod ∧ d.mask = mask
    (¬ legal → exec i x.s = .next (x.trap (trapBefore cIllegalOperand) x.s)) ∧
    (legal → collFull x.s c = false → exec i x.s = .next (x.waits (.collective x.t.pc)
      (x.s.modWg x.t.wg (putColl warp x.t.pc (some c))))) ∧
    (legal → collFull x.s c = true →
      let s := (c.here.filter (fun a => a.thread != x.k)).foldl (deliver c)
        (x.s.modWg x.t.wg (putColl warp x.t.pc none))
      exec i x.s = .next (if collPred op f.mod then
          x.done [] (s.modThread x.k (setPred sel.toNat (collResult c me != 0)))
        else x.done [collResult c me] s))

/-- REDH opens a reduction or adds its thread's value to the open one of its sequence number, and completes;
HGET of the value whose sequence number it names completes with that value (R177, R178). -/
def Obligations.Harvests : Prop :=
  ∀ (f : Fields) (x : Issue), x.t.apprentice = false →
    (x.Of (.redh f) → rangeBad x.s x.t x.b = false →
      let n := f.dst.toNat - 0xF0
      let new : Harvest := ⟨mHOP f, mTYPE f, mHRM f, BitVec.ofNat 32 x.b, BitVec.ofNat 16 x.c, []⟩
      ∀ h, ((nth none n x.w.harvest = none ∧ h = new) ∨
          (nth none n x.w.harvest = some h ∧ h.op = new.op ∧ h.ty = new.ty ∧ h.rm = new.rm ∧
            h.range = new.range ∧ h.seq = new.seq ∧ look x.t.tlin h.given = none)) →
        exec (.redh f) x.s = .next (x.done [] (settleHarvest x.t.wg n (x.s.modWg x.t.wg (fun w => { w with
          harvest := setNth (some { h with given := put x.t.tlin (BitVec.ofNat 64 x.a) h.given }) n w.harvest
          hlast := setNth x.ctx.clock n w.hlast }))))) ∧
    (x.Of (.hget f) →
      let n := f.sa.toNat - 0xF0
      nth 0 n x.w.hseq = BitVec.ofNat 16 x.b → loggedOutcome x.s x.k x.t.fn 5 = none →
        exec (.hget f) x.s = .next (x.done [(nth 0 n x.w.hval).toNat] (noteOutcome x.k x.t.fn 5 0 x.s)))

/-- PAUSE sets the cycle until which the thread pauses, which lets other bundles of its slot go first; SUSPEND goes on at its continuation where the
counter has reached the target, and else waits with its operand cache and its frame written back; EVADD adds to an event
counter and answers its old value, EVGET reads it (R161, R162, R179 to R181). -/
def Obligations.EventInstructions : Prop :=
  ∀ (f : Fields) (x : Issue),
    let n := mBAR f
    (x.Of (.pause f) → exec (.pause f) x.s = .next (x.done [] (if countOf f x.src = 0 then x.s
      else x.s.modThread x.k (fun u => { u with pauseTill := some (x.ctx.pcycle + countOf f x.src) })))) ∧
    (x.Of (.suspend f) → relative x.t.pc (loopDisp f) < 2 ^ 57 →
      let cont := BitVec.ofNat 64 (relative x.t.pc (loopDisp f))
      let tq := decide (bits f.mod.toNat 10 9 = 1)
      let target := BitVec.ofNat 32 x.a
      ∀ v, suspendCounter x.s x.w tq n = some v →
        (reached v target = true → exec (.suspend f) x.s = .next (x.jump cont x.s)) ∧
        (reached v target = false → frameRoom x.s x.k x.t (ocSync { x.t with wrote := [] }).wrote = true →
          exec (.suspend f) x.s = .next (x.waits (.suspended cont tq n target)
            (cleanFrame x.k (x.s.modThread x.k (fun t => { endTrans (ocSync t) with oc := [], fills := [] })))))) ∧
    (x.Of (.evadd f) → eventReady x.s x.k x.t n 2 = true →
      let a : Word := BitVec.ofNat 32 (if mIM f then wrapNat 32 (sextInt 8 f.sb.toNat) else x.a)
      let old := nth 0 n x.w.ev
      let s := eventDone x.k x.t n 2 (x.s.modWg x.t.wg (fun w => { w with ev := setNth (old + a) n w.ev }))
      exec (.evadd f) x.s = .next (x.done [old.toNat]
        (wakeEvents x.t.wg n (if a = 0 then s else wakeIdle x.t.wg s)))) ∧
    (x.Of (.evget f) → eventReady x.s x.k x.t n 0 = true →
      exec (.evget f) x.s = .next (x.done [(nth 0 n x.w.ev).toNat] (eventDone x.k x.t n 0 x.s)))

/-! ### Pushing commands -/

/-- ACP, CPY, TKPOP, TKDONE, NPUT, NGET and NSIG enter one command into their queue where the guard
slot that the command carries is not FREE, its counter is below its ceiling and the queue has room; the
counters of the push rise (R245, R250, R303, R306, R321, R322, R414). -/
def Obligations.CommandPushes : Prop :=
  ∀ (f : Fields) (x : Issue) (i : Instr) (q : QRef) (c : Cmd) (n : Nat) (also : State → State),
    let base := fun op => newCmd f op x.k x.t x.s
    let d := f.dst.toNat % 8
    ((i = .acp f ∧ q = .cp1 x.t.wg ∧
        (let src := wrapNat 64 ((x.a : Nat) + ext1Disp f)
         src < 2 ^ 57 ∧ inAperture src = false ∧ inAperture x.b = true ∧ src % 4 = 0 ∧
           x.b % acpLen f.mod = 0 ∧ x.c ≤ acpLen f.mod) ∧
        c = { base 0x280 with va := BitVec.ofNat 64 x.a, vb := BitVec.ofNat 64 x.b, vc := BitVec.ofNat 64 x.c } ∧
        n = max x.t.cp (nth 0 (mTAGN f) x.t.tags) ∧
        also = fun s => s.modThread x.k (fun t => { t with
          cp := t.cp + 1, tags := setNth (nth 0 (mTAGN f) t.tags + 1) (mTAGN f) t.tags })) ∨
     (i = .cpy f ∧ q = (if f.mod.getLsbD 1 then .cp1 x.t.wg else .cp0 x.t.wg) ∧
        c = { base 0x282 with va := BitVec.ofNat 64 x.a } ∧ n = x.t.cp ∧
        also = fun s => s.modThread x.k (fun t => { t with cp := t.cp + 1 })) ∨
     (∃ key, i = .tkpop f ∧ q = .tk x.t.wg ∧ boundQueue x.w (mBAR f) = some key ∧
        c = { base 0x299 with va := BitVec.ofNat 64 x.a, vb := BitVec.ofNat 64 key } ∧ n = 0 ∧ also = id) ∨
     (i = .tkdone f ∧ q = .tk x.t.wg ∧ c = { base 0x29A with fate := fateOf x.s x.k x.t.fn } ∧ n = 0 ∧
        also = statusDue x.k x.t.fn d) ∨
     (i = .nput f ∧ q = .ne x.t.wg ∧
        c = { base 0x310 with va := BitVec.ofNat 64 x.a, vb := BitVec.ofNat 64 x.b } ∧ n = 0 ∧ also = id) ∨
     (i = .nget f ∧ q = .ne x.t.wg ∧
        c = { base 0x311 with va := BitVec.ofNat 64 x.a, vb := BitVec.ofNat 64 x.b } ∧ n = 0 ∧ also = id) ∨
     (i = .nsig f ∧ q = .ne x.t.wg ∧
        c = { base 0x312 with va := BitVec.ofNat 64 x.a, vb := BitVec.ofNat 64 x.b } ∧ n = 0 ∧ also = id)) →
    x.Of i →
    (∀ m, c.slot = some m → slotState x.s (queueCohort x.s q) m ≠ 0) → n < 63 →
    queueFull x.s q = false →
      exec i x.s = .next (x.done [] (also (enqueue q c x.s)))

/-- TKPUSH reads its record when it issues, and pushes it with its status predicate pending and its outcome's place in
the order log taken (R319, R320, R368): here of a record in scratchpad with no reserved control bit set. SQCFG, SQSIG, SQCMP, SQMAP and SQSTEP of a
cohort that holds its section's quadrant enter their command into SQ, and `tl` rises (R250, R270, R288,
R323). -/
def Obligations.TaskAndSequencerPushes : Prop :=
  (∀ (f : Fields) (x : Issue) (key off : Nat), x.Of (.tkpush f) →
    boundQueue x.w (mBAR f) = some key → accessHold x.t 0 = none →
    checkAccess x.s x.t.fn x.core x.t.wg .read (wrapNat 64 ((x.a : Nat) + sextInt 8 f.sc.toNat)) 64 = .pad off →
    (∀ o ∈ x.s.ops, o.thread ≠ x.k) → recordBad (padRead x.w off 64) = false → padReady x.s x.k x.t off 0 = true →
    queueFull x.s (.tk x.t.wg) = false →
      let s := loadDone x.k x.t (.pad off) x.s
      exec (.tkpush f) x.s = .next (x.done [] (statusDue x.k x.t.fn (f.dst.toNat % 8) (enqueue (.tk x.t.wg)
        { newCmd f 0x298 x.k x.t s with
          data := padRead x.w off 64, vb := BitVec.ofNat 64 key, fate := fateOf s x.k x.t.fn } s)))) ∧
  (∀ (f : Fields) (x : Issue) (i : Instr) (op : Nat) (s : State),
    ((i = .sqcfg f ∧ op = 0x2A0) ∨ (i = .sqsig f ∧ op = 0x2A1) ∨ (i = .sqcmp f ∧ op = 0x2A2) ∨
     (i = .sqmap f ∧ op = 0x2A3) ∨ (i = .sqstep f ∧ op = 0x2A4)) → x.Of i →
    let q := QRef.sq x.w.cohort
    let c := { newCmd f op x.k x.t s with va := BitVec.ofNat 64 x.a }
    takeTenure x.s x.w.cohort = some s →
    (∀ m, c.slot = some m → slotState s (queueCohort s q) m ≠ 0) → x.t.tl < 63 →
    queueFull s q = false →
      exec i x.s = .next (x.done [] ((enqueue q c s).modThread x.k (fun t => { t with tl := t.tl + 1 }))))

/-- CDECL declares or releases a convergence register that has no open round (R182). -/
def Obligations.ConvergenceDeclaration : Prop :=
  ∀ (f : Fields) (x : Issue) (s : State), x.Of (.cdecl f) → x.t.apprentice = false →
    let n := mBAR f
    let rel := f.mod.getLsbD 4
    let range : Word := BitVec.ofNat 32 (if formExt f.form = 0 then x.a else f.ext1.toNat)
    let c := x.w.cohort
    let sect := cohortSect x.s c
    (rel = true ∨ declBad range.toNat (((look c x.s.cohorts).map (·.csize)).getD 0)
      (cohortSizes x.s c (wgSize x.w)) = false) →
    takeTenure x.s c = some s → earlierDecl s x.k c n x.t = false → (cregOf s sect n).round = none →
      exec (.cdecl f) x.s = .next (x.done [] (if rel = false ∧ (cregOf s sect n).decl = some range then s
        else setCreg sect n ⟨if rel then none else some range, none⟩ s))

/-- SCPY, MLDW, MSWP, MMUL, MOUT and MZERO sign their convergence register: the first signature opens the
round, a later one that fixes the same command joins it, and `tl` of the signer rises (R271, R308 to R315).
Reserved bits of a parameter word and when the quadrant is taken are DEDUCED (logs 37 and 45). -/
def Obligations.MatrixSignatures : Prop :=
  ∀ (f : Fields) (x : Issue) (i : Instr) (cmd : Cmd) (s : State),
    let n := f.dst.toNat / 16
    let c := x.w.cohort
    let sect := cohortSect x.s c
    let plain := fun op => newCmd f op x.k x.t x.s
    let full := fun op tri => { newCmd f op x.k x.t x.s with
      va := BitVec.ofNat 64 x.a, vb := BitVec.ofNat 64 (mxParam f x.src), vc := BitVec.ofNat 64 tri
      vd := BitVec.ofNat 64 (tri / 2 ^ 64) }
    ((i = .scpy f ∧ cmd = full 0x288 0) ∨ (i = .mldw f ∧ cmd = full 0x289 0) ∨
     (i = .mswp f ∧ cmd = plain 0x28A) ∨ (i = .mmul f ∧ cmd = full 0x28B (mxTri f x.src)) ∨
     (i = .mout f ∧ cmd = full 0x28C 0) ∨ (i = .mzero f ∧ cmd = plain 0x28D)) → x.Of i →
    takeTenure x.s c = some s →
    ∀ range, (cregOf s sect n).decl = some range → x.k ∈ signSet s c range.toNat →
    (∀ m, cmd.slot = some m → slotState s c m ≠ 0) → x.t.tl < 63 →
    ∀ r : Round, (((cregOf s sect n).round = none ∧
          r = ⟨{ cmd with after := [] }, (s.ctx x.t.fn).clock, coreOf x.k, []⟩) ∨
        ((cregOf s sect n).round = some r ∧ x.k ∉ r.cmd.signers ∧ sameSign r.cmd cmd = true)) →
      let cmd' := { r.cmd with signers := r.cmd.signers ++ [x.k], after := r.cmd.after ++ [(x.k, s.nextId)] }
      let r' := { r with origin := (s.ctx x.t.fn).clock, cmd := cmd', places := r.places ++ [signPlace s x.t] }
      exec i x.s = .next (x.done [] (settleRound sect n
        ((setCreg sect n ⟨some range, some r'⟩ s).modThread x.k (fun t => { t with tl := t.tl + 1 }))))

/-- TAGW and WAIT complete once the counters are at or below their bounds and no ACP has failed, WPTR reads a
write pointer, QFENCE enters one entry into each queue it names, GUARD opens a slot and GRES settles an OPEN
one (R250, R253, R254, R257, R304, R305, R307, R316 to R318). -/
def Obligations.QueueControl : Prop :=
  ∀ (f : Fields) (x : Issue),
    let n := mBAR f
    let c := x.w.cohort
    (x.Of (.tagw f) → nth 0 (bits f.mod.toNat 2 0) x.t.tags ≤ min (countOf f x.src) 63 → x.t.latch = none →
      exec (.tagw f) x.s = .next (x.done [] (l1Acquire x.core x.s))) ∧
    (x.Of (.wait f) → x.t.ld ≤ f.dst.toNat → x.t.st ≤ f.sa.toNat → x.t.cp ≤ f.sb.toNat → x.t.tl ≤ f.sc.toNat →
      x.t.latch = none → exec (.wait f) x.s = .next (x.done []
        (if f.sb = 0 ∨ f.sc = 0 then l1Acquire x.core x.s else x.s))) ∧
    (x.Of (.wptr f) → recMode x.s x.t.fn = 0 → exec (.wptr f) x.s = .next (x.done
      [(nth 0 (f.mod.toNat % 8) x.w.wptr).toNat] (l1Acquire x.core x.s))) ∧
    (x.Of (.qfence f) → (∀ q ∈ fenceQueues f x.t.wg x.w, queueFull x.s q = false) →
      exec (.qfence f) x.s = .next (x.done [] ((fenceQueues f x.t.wg x.w).foldl (fun s q =>
        enqueue q { newCmd f 0x290 x.k x.t s with fence := some x.s.nextId } s) x.s.fresh.2))) ∧
    (x.Of (.guard f) →
      (slotState x.s c n < 2 ∨ ∀ y ∈ standing (cohortCmds x.s c), y.slot ≠ some n) →
      exec (.guard f) x.s = .next (x.done [] (setSlot c n 1 x.s))) ∧
    (x.Of (.gres f) →
      (slotState x.s c n ≠ 1 → exec (.gres f) x.s = .next (x.trap (trapBefore cIllegalOperand) x.s)) ∧
      (slotState x.s c n = 1 → exec (.gres f) x.s = .next (x.done []
        (setSlot c n (if countOf f x.src = 0 then 3 else 2) x.s))))

/-! ### System -/

/-- TRAP and BKPT complete and trap with their 16-bit code as the detail word (R373). TRET traps
ILLEGAL_INSTRUCTION outside a handler; in one, an unsound trap frame raises CORRUPT_TRAP_STATE and a sound
one is left: predicates, FSTAT, LNK and loop stack are restored, the depth falls and the thread goes on at
the saved address (R334, R335, R374). What FSTAT takes of a saved word with a reserved rounding mode is the model's choice
(`writeFstat`: DEDUCED, log 32). -/
def Obligations.TrapsAndReturn : Prop :=
  (∀ (f : Fields) (x : Issue),
    let code := f.sb.toNat * 2 ^ 8 + f.sc.toNat
    (x.Of (.trap f) → exec (.trap f) x.s = .next (x.after ⟨cTrap, code, 0, true, false, false⟩ [] x.s)) ∧
    (x.Of (.bkpt f) → exec (.bkpt f) x.s = .next (x.after ⟨cBkpt, code, 0, true, false, false⟩ [] x.s))) ∧
  (∀ (f : Fields) (x : Issue), x.Of (.tret f) →
    let frame := curFrame x.t
    (x.t.tdepth = 0 → exec (.tret f) x.s = .next (x.trap (trapBefore cIllegalInstruction) x.s)) ∧
    (x.t.tdepth ≠ 0 → frameSound x.t frame = false → exec (.tret f) x.s
      = .next (x.left (coreFault x.k fCorruptTrapState x.s))) ∧
    (x.t.tdepth ≠ 0 → frameSound x.t frame = true → exec (.tret f) x.s
      = .next (x.jump frame.rpc (x.s.modThread x.k (fun t =>
        { leaveTrap t with fstat := writeFstat t.fstat frame.fstat })))) ∧
    (leaveTrap x.t).preds = frame.ssw.setWidth 7 ∧ (leaveTrap x.t).lnk = frame.lnk ∧
    (leaveTrap x.t).tdepth = x.t.tdepth - 1 ∧ (leaveTrap x.t).pc = frame.rpc)

/-- CKPT asks for a checkpoint, with `.w` waiting for it; SRD reads and SWR writes a system register, or
traps on a view of a trap frame outside a handler (a write of one needs room in the undo log, R347); TMARK writes its record if the ring takes it; CSUMR reads
the last checksum; IDLE waits so many cycles (R333, R375 to R377, R379 to R381). -/
def Obligations.SystemInstructions : Prop :=
  ∀ (f : Fields) (x : Issue),
    let n := (f.sb.toNat * 2 ^ 8 + f.sc.toNat) % 2 ^ 12
    let view := 0x010 ≤ n ∧ n ≤ 0x019
    (x.Of (.ckpt f) → exec (.ckpt f) x.s = .next (if f.mod.getLsbD 0
      then x.waits (.ckpt (mD f)) (requestCkpt x.t.fn 4 x.s) else x.done [] (requestCkpt x.t.fn 4 x.s))) ∧
    (x.Of (.srd f) →
      (view ∧ x.t.tdepth = 0 → exec (.srd f) x.s = .next (x.trap (trapBefore cIllegalOperand) x.s)) ∧
      (¬ (view ∧ x.t.tdepth = 0) →
        exec (.srd f) x.s = .next (x.done [sysRead x.s x.t x.core n] x.s))) ∧
    (x.Of (.swr f) →
      (view ∧ x.t.tdepth = 0 → exec (.swr f) x.s = .next (x.trap (trapBefore cIllegalOperand) x.s)) ∧
      (¬ (view ∧ x.t.tdepth = 0) → (view → frameRoom x.s x.k x.t [trapFieldLine x.t n] = true) →
        exec (.swr f) x.s = .next (x.done [] (sysWrite x.k x.t n x.a x.s)))) ∧
    (x.Of (.tmark f) → exec (.tmark f) x.s = .next (x.done []
      (if x.ctx.tracectl.getLsbD 0 ∧ x.ctx.tracectl.getLsbD 2 then
        traceRecord x.t.fn x.core (tmarkRecord x.s x.k x.t (code16 f) x.a) x.s else x.s))) ∧
    (x.Of (.csumr f) → exec (.csumr f) x.s = .next (x.done
      [if recMode x.s x.t.fn = 0 then 0 else x.w.csum.toNat] x.s)) ∧
    (x.Of (.idle f) → exec (.idle f) x.s = .next (if countOf f x.src = 0 then x.done [] x.s
      else x.waits (.idle (x.ctx.pcycle + countOf f x.src)) x.s))

/-- NWAIT completes with the word once it is no less than the operand, compared modulo 2^64, and acquires, where what its
core has sent to the home slice before it has been served (R212, R409); a word that
a write brought there while it waited counts though it has changed since (R416). VSWPT of a workgroup whose other threads
have not all arrived waits; of one whose others have, it lets everybody go on where the switch condition gives no target,
and else, once the workgroup's loads are in, nothing still writes the scratchpad that is given up and the undo log has
room for the new frames, the workgroup is in the target variant and no switch point of it is open (R299, R324, R347); a descriptor or a switch map that fails its integrity
check is a context fault (R402). That only compute threads arrive, and which of them takes the switch, is the model's
choice (DEDUCED, log 55), and so is how the descriptor and the map are read (DESIGN CHOICE, log 79). -/
def Obligations.WaitsForMemoryAndSwitches : Prop :=
  ∀ (f : Fields) (x : Issue),
    (x.Of (.nwait f) → accessHold x.t 0 = none → x.a < 2 ^ 57 → inAperture x.a = false →
      ∀ pa cid, checkAccess x.s x.t.fn x.core x.t.wg .read x.a 8 = .dev pa cid → foreign x.s cid pa = false →
      nwaitServed x.s x.t x.core pa = true → recMode x.s x.t.fn = 0 →
      let v : DWord := BitVec.ofNat 64 (ofBytes (memRead x.s.mem pa 8))
      let done := fun (n : Nat) => Host.Outcome.next
        (x.done [n] (l1Acquire x.core (forgetNotice x.k (tlbTake x.t.fn x.core x.a x.s))))
      (∀ n, look x.k x.s.noticed = some n → exec (.nwait f) x.s = done n) ∧
      (look x.k x.s.noticed = none → (v - BitVec.ofNat 64 x.b).msb = false → exec (.nwait f) x.s = done v.toNat)) ∧
    (x.Of (.vswpt f) → x.t.apprentice = false → x.t.loops = [] →
      let id := f.mod.toNat
      let old := x.w.vsw.find? (fun p => p.id = id)
      let here := (old.map (·.here)).getD []
      let y := switchIntegrity x.t.wg x.w id x.s
      let s := y.2
      ((∀ p ∈ x.s.computeOf x.t.wg, p.1 = x.k ∨ p.1 ∈ here) → ∀ z, y.1 = some z →
        exec (.vswpt f) x.s = .next (x.left (coreIntegrity x.k z s))) ∧
      ((∃ p ∈ x.s.computeOf x.t.wg, p.1 ≠ x.k ∧ p.1 ∉ here) → exec (.vswpt f) x.s
        = .next (x.waits (.vswpt id)
          (x.s.modWg x.t.wg (putSwitch ⟨id, here ++ [x.k], x.ctx.clock, none, [], 0⟩)))) ∧
      ((∀ p ∈ x.s.computeOf x.t.wg, p.1 = x.k ∨ p.1 ∈ here) → y.1 = none → old.bind (·.target) = none →
        switchTarget s x.t.wg x.w id = none →
        exec (.vswpt f) x.s = .next (x.done [] (closeSwitch x.t.wg id here s))) ∧
      ((∀ p ∈ x.s.computeOf x.t.wg, p.1 = x.k ∨ p.1 ∈ here) → y.1 = none → old.bind (·.target) = none →
        ∀ p b kn r, switchTarget s x.t.wg x.w id = some p → p.target = some b →
        kernelAt s x.t.fn x.w.kernel = some kn → switchRec s x.t.fn x.w.core kn.variants.length id 257 kn.switchMap = some r →
        (∀ q ∈ s.threadsOf x.t.wg, q.2.ld = 0) →
        ((kn.variant b).pool < x.w.spsize → padBusy s x.t.wg (kn.variant b).pool x.w.spsize = false) →
        switchHasRoom s x.t.wg x.t.fn (kn.variant b) = true →
        exec (.vswpt f) x.s = .next (x.left (doSwitch x.t.wg x.w kn r b x.k f.stop p.spots s))))

/-! ### Device steps: memory, the pool and synchronisation -/

/-- A load is performed at its home slice with the bytes that memory holds there, or with those of the fill that its
core's stores are merged into, and memory keeps every byte (R203, R212); the data return writes its destination where
the undo log has room for the slots that it writes, and `ld` falls (R123, R216, R347). A store is performed at its
home slice: memory takes its bytes there and keeps every other byte; where the line has no undo entry of the
epoch it waits for one, and is performed once the entry is in the undo area, or raises UNDO_FAIL (R203, R345). Its
acknowledgement lowers `st` (R225). Of a store to a signature that a step sequencer works on, each bit of memory comes
to be the old one or the store's (R289; which, is free: log 81). -/
def Obligations.MemorySteps : Prop :=
  (∀ (s : State) (o : MemOp), findOp s o.id = some o → o.kind = .load → o.cls = 1 →
    (o.stage = .sent → o.aperture = false → homeReady s o = true → foreign s o.cid o.addr = false →
      o.addr % 128 + o.size ≤ 128 →
      ∃ t p, exec (.homeSliceAccess o.id) s = .next t ∧ findOp t o.id = some p ∧ p.stage = .performed ∧
        p.value = (if o.bypass = false ∧ recMode s o.fn = 0 then fillValue s o else memRead s.mem o.addr o.size) ∧
        (coreStores s o.core (lineOf o.addr) = [] → p.value = memRead s.mem o.addr o.size) ∧
        t.mem = s.mem ∧ t.threads = s.threads ∧ t.wgs = s.wgs) ∧
    (o.stage = .performed → (look o.thread s.threads).isSome = true → (s.ctx o.fn).halt = none →
      landRoom s o = true →
      exec (.loadDataReturn o.id) s = .next
        (loadOver o (match o.acquire with
          | some (_ + 1) => l1Acquire o.core (landed o (dropOp o.id s))
          | _ => landed o (dropOp o.id s))))) ∧
  (∀ (s : State) (o : MemOp), findOp s o.id = some o → o.kind = .store → o.cls = 2 → o.tag = false →
    o.aperture = false → s.Inv →
    let old := ofBytes (memRead s.mem o.addr o.size)
    let new := ofBytes (toBytes o.size (o.data.toNat + 2 ^ 64 * o.data2.toNat))
    let Stored := fun (t : State) (Else : Nat → Prop) =>
      (∀ a, (a < o.addr ∨ o.addr + o.size ≤ a) → Else a → memByte t.mem a = memByte s.mem a) ∧
      (∀ i, let b := (ofBytes (memRead t.mem o.addr o.size)).testBit i
        b = new.testBit i ∨ (signatureRace s o = true ∧ b = old.testBit i)) ∧
      t.threads = s.threads ∧ t.wgs = s.wgs
    let area := (s.ctx o.fn).undoArea.toNat
    (o.stage = .sent → homeReady s o = true →
      (needsUndo s o.fn o.addr = true → exec (.homeSliceAccess o.id) s
        = .next (modOp o.id (fun o => { o with stage := .logging }) s)) ∧
      (needsUndo s o.fn o.addr = false → foreign s o.cid o.addr = false →
        ∃ t, exec (.homeSliceAccess o.id) s = .next t ∧ Stored t (fun _ => True))) ∧
    (o.stage = .logging → foreign s o.cid o.addr = false →
      (logSound s o.fn = true → (area + (s.ctx o.fn).undoSize.toNat + 144 ≤ o.addr ∨ o.addr + 128 ≤ area) →
        ∃ t, exec (.undoEntryAccepted o.id true) s = .next t ∧
        Stored t (fun a => a < area ∨ area + (s.ctx o.fn).undoSize.toNat + 144 ≤ a)) ∧
      exec (.undoEntryAccepted o.id false) s
        = .next (raiseHalt o.fn fUndoFail (s.coreNo o.fn o.core) [] s)) ∧
    (o.stage = .performed → exec (.storeAcknowledge o.id) s = .next (endLaunches o.fn
      ((dropOp o.id s).modThread o.thread (fun t => { t with st := t.st - 1 })))))

/-- An access that a claim holds is performed in the pool once no claim covers it and the undo log has room, a fill
that OCFIL asked for makes its register resident, and a regroup boundary forms a core's bundles again in a cycle that
is a multiple of 4 (R14, R142, R198, R347). A word that is no instruction traps the thread that issues it alone with
ILLEGAL_INSTRUCTION, and the address of what follows it is reported (R49, R51); a fetch of a thread that issues alone
traps ACCESS_VIOLATION with the address of its first byte where it fails, or parks the thread where the page is only not
there (R26, R209).
That a fill is a step of its own is DEDUCED (log 5). -/
def Obligations.CoreSteps : Prop :=
  (∀ (s : State),
    (∀ o : MemOp, findOp s o.id = some o → o.stage = .claimed → claimFree s o = true →
      padFull s o.fn o.wg o.addr = false →
      exec (.claimRelease o.id) s = .next (modOp o.id
        (fun p => { p with stage := .performed, value := (performPad o s).2 }) (performPad o s).1)) ∧
    (∀ k n t, look k s.threads = some t → n ∈ t.fills →
      frameRoom s k t (fillG n { t with wrote := [] }).wrote = true → frameForeign s k t [n / 32] = none →
      ∃ u z, exec (.operandCacheFill k n) s = .next u ∧ look k u.threads = some z ∧
        z.fills = t.fills.filter (· != n) ∧ z.oc = (fillG n t).oc ∧ z.frame = (fillG n t).frame ∧
        (∀ j, j ≠ k → look j u.threads = look j s.threads) ∧ u.mem = s.mem ∧ u.wgs = s.wgs) ∧
    (∀ core fn, runningOn s core = some fn → (s.ctx fn).pcycle % 4 = 0 →
      (s.core core).regroupAt ≠ some (s.ctx fn).pcycle →
      exec (.regroupBoundary core) s = .next (s.modCore core (regrouped s core (s.ctx fn).pcycle)) ∧
      (regrouped s core (s.ctx fn).pcycle (s.core core)).bundles = regroup s core)) ∧
  (∀ (s : State) (k : Nat) (t : Thread) (word : DWord) (first kind : Nat),
    s.issue = [k] → look k s.threads = some t →
    exec (.illegalInstruction word) s
      = .next (trapped k t (trapBefore cIllegalInstruction) (s.modThread k (reportNext (wordLength word)))) ∧
    exec (.fetchFault first false kind) s
      = .next (trapped k t (trapBefore cAccessViolation (kind + 8) (BitVec.ofNat 64 first)) s) ∧
    exec (.fetchFault first true kind) s
      = .next (settle [k] [] [] [] 0 0 (parkThread k t.fn (kind / 2 ^ 52) (kind % 2 ^ 52) first 3 s)))

/-- Waits end: a pause at a regroup boundary once its cycles have passed, IDLE once its cycles have, and a
barrier, a collective, HGET and VSWPT with BARRIER_STALL once BARSTALL cycles have passed and the cycle's arrivals
and exits are over: those who wait take the trap, and the arrivals of a barrier's generation are withdrawn (R155,
R161, R173, R178, R324, R381).
Which participants the detail word counts is DEDUCED (log 39). -/
def Obligations.WaitEnds : Prop :=
  ∀ (s : State) (k : Nat) (t : Thread), look k s.threads = some t →
    (∀ c, t.pauseTill = some c → c ≤ (s.ctx t.fn).pcycle → (s.ctx t.fn).pcycle % 4 = 0 →
      exec (.pauseExpiry k) s = .next (s.modThread k (fun t => { t with pauseTill := none }))) ∧
    (∀ c, t.wait = some (.idle c) → c ≤ (s.ctx t.fn).pcycle →
      exec (.idleWake k) s = .next (s.modThread k (goOn (s.ctx t.fn).pcycle))) ∧
    (∀ n since w, t.stall = some ⟨11, 3, n⟩ → t.stallFrom = some since → look t.wg s.wgs = some w →
      stallDue s t.fn (coreOf k) (max since (nth 0 n w.hlast)) = true →
      hgetWaits w n ((hgetMates s t).map (·.2)) = true →
      exec (.hgetStall k) s = .next (stallTrap ((hgetMates s t).map (·.1)) (stallDetail (0x80 + n) 0 0) s)) ∧
    (∀ g w c, look g s.wgs = some w → w.colls.find? (isColl c.warp c.pc) = some c →
      stallDue s w.fn w.core c.origin = true →
      exec (.collectiveStall g c.warp c.pc) s = .next (stallTrap (c.here.map (·.thread))
        (stallDetail 0x40 c.here.length (members s c.warp c.mask).length)
        (s.modWg g (putColl c.warp c.pc none)))) ∧
    (∀ g w p, look g s.wgs = some w → w.vsw = [p] → p.target = none → p.here ≠ [] →
      stallDue s w.fn w.core p.origin = true →
      exec (.vswptStall g) s = .next (stallTrap p.here
        (stallDetail 0x41 p.here.length (s.computeOf g).length) (s.modWg g (fun w =>
          { w with vsw := w.vsw.filter (fun q => q.id != p.id) })))) ∧
    (∀ g w n, look g s.wgs = some w → t.wg = g → waitsAt n t = true → t.apprentice = false →
      stallDue s w.fn w.core (s.bar g n).origin = true → n < 16 → w.bars.length = 16 →
      let waiters := (sortBy (fun p => p.2.tlin) ((s.computeOf g).filter (fun p => waitsAt n p.2))).map (·.1)
      ∃ v, exec (.barrierStall g n) s = .next (stallTrap waiters
          (stallDetail n (s.bar g n).arrivals (namedThreads s g (s.bar g n).range.toNat).length) v) ∧
        (v.bar g n).arrivals = 0 ∧ (∀ p ∈ v.threads, p.2.wg = g → p.2.arrived.getLsbD n = false) ∧ v.mem = s.mem)

/-- The pool: the oldest request is granted once it can be had, a request that has waited POOLWAIT cycles
fails unless it can be had in that cycle, residue drains a granule at a time, and POOLCFG and POOLWAIT are written (R187, R190, R191, R378,
R387). That a request that can be had in the cycle of its limit does not fail is a DESIGN CHOICE (log 15), and the order in
which residue drains is DEDUCED (log 73). -/
def Obligations.PoolSteps : Prop :=
  ∀ (s : State) (core : Nat) (value : Word),
    (∀ r rest t, (s.core core).waitList = r :: rest → look r.thread s.threads = some t →
      (s.ctx t.fn).ckpt = none → (s.ctx t.fn).clock ≤ r.since + poolLimit s t.fn core →
      needOf s core r.scratch r.asked ≤ grantable s core →
      exec (.poolGrant core) s = .next
        ((growNow r.thread t.wg r.scratch r.asked (noteOutcome r.thread t.fn 3 1
          (s.setCore core { s.core core with waitList := rest }))).modThread r.thread
            (goOn (((growNow r.thread t.wg r.scratch r.asked (noteOutcome r.thread t.fn 3 1
          (s.setCore core { s.core core with waitList := rest }))).ctx t.fn).pcycle)))) ∧
    (∀ r t, (s.core core).waitList.find? (fun q => q.thread = r.thread) = some r →
      look r.thread s.threads = some t → (s.ctx t.fn).ckpt = none →
      r.since + poolLimit s t.fn core ≤ (s.ctx t.fn).clock → grantDue s core t r = false →
      exec (.poolWaitTimeout core r.thread) s = .next (takeTraps
        [⟨r.thread, growTrap r.scratch false r.asked, t.pc, t.pc⟩] (noteOutcome r.thread t.fn 3 2
          (s.modCore core (fun c => { c with
            waitList := c.waitList.filter (fun q => q.thread != r.thread) }))))) ∧
    (∀ fn, runningOn s core = some fn → (s.core core).residue ≠ [] →
      (s.core core).drainAt ≤ (s.ctx fn).pcycle →
      exec (.residueDrain core) s = .next ((drainOne core s).modCore core (fun c => { c with
        drainAt := c.drainAt + Config.drainPeriod }))) ∧
    (mgmtUp s = true → ∃ u, exec (.poolwaitWrite core value) s = .next u ∧ (u.core core).poolwait = value ∧
      u.threads = s.threads ∧ u.wgs = s.wgs ∧ u.mem = s.mem) ∧
    (mgmtUp s = true → ∃ u, exec (.poolcfgWrite core value) s = .next u ∧ u.threads = s.threads ∧ u.mem = s.mem ∧
      (∀ g w, look g s.wgs = some w → ∃ v, look g u.wgs = some v ∧ v.spsize = w.spsize ∧ v.pad = w.pad) ∧
      (32 ≤ value.toNat % 2 ^ 10 → value.toNat % 2 ^ 10 ≤ 512 → l1Max (u.core core) = value.toNat % 2 ^ 10) ∧
      (value.toNat % 2 ^ 10 < 32 ∨ 512 < value.toNat % 2 ^ 10 →
        l1Max (u.core core) = l1Max (s.core core)) ∧
      (u.core core).poolcfg.getLsbD 10 = value.getLsbD 10)

/-! ### Device steps: engines -/

/-- The head command of a queue begins once it may and no OPEN guard slot holds it, and runs as its
opcode says; one whose slot is FALSE or whose guard is gone ends DISCARDED, and the first of a context waits until its
section's unit has come into the context's hands (R246, R352, R254, R256, R258, R263,
R264, R276 to R282, R289 to R294, R415).
That a command runs whole in one step is a DESIGN CHOICE (log 12). -/
def Obligations.EngineCommands : Prop :=
  ∀ (s : State) (g : Nat) (i : Instr) (q : QRef) (op : Nat) (run : Cmd → State → State) (after : State → State),
    ((i = .acpCommand g ∧ q = .cp1 g ∧ op = 0x280 ∧ run = runAcp g ∧ after = id) ∨
     (∃ ch n, i = .cpyCommand g ch n ∧ q = (if ch = 0 then .cp0 g else .cp1 g) ∧ op = 0x282 ∧
       run = (fun c s => if c.data.isEmpty then cpyBegin q g c s else s) ∧ after = cpySteps q g n) ∨
     (i = .scpyCommand g ∧ q = .mx g ∧ op = 0x288 ∧ run = runScpy g ∧ after = id) ∨
     (i = .mldwCommand g ∧ q = .mx g ∧ op = 0x289 ∧
       run = (fun c s => if c.fused then s else runMldw g c ⟨g, c⟩ s) ∧ after = id) ∨
     (i = .mswpCommand g ∧ q = .mx g ∧ op = 0x28A ∧ run = (fun c s => if c.fused then s else runMswp g c s) ∧
       after = id) ∨
     (i = .mmulCommand g ∧ q = .mx g ∧ op = 0x28B ∧
       run = (fun c s => if c.fused then s else runMmul g c ⟨g, c⟩ s) ∧ after = id) ∨
     (i = .moutCommand g ∧ q = .mx g ∧ op = 0x28C ∧ run = runMout g ∧ after = id) ∨
     (i = .mzeroCommand g ∧ q = .mx g ∧ op = 0x28D ∧ run = runMzero g ∧ after = id) ∨
     (i = .sqcfgCommand g ∧ q = .sq g ∧ op = 0x2A0 ∧ run = runSqcfg g ∧ after = id) ∨
     (i = .sqsigCommand g ∧ q = .sq g ∧ op = 0x2A1 ∧ run = runSqsig g ∧ after = id) ∨
     (i = .sqcmpCommand g ∧ q = .sq g ∧ op = 0x2A2 ∧ run = runSqcmp g ∧ after = id) ∨
     (i = .sqmapCommand g ∧ q = .sq g ∧ op = 0x2A3 ∧ run = runSqmap g ∧ after = id) ∨
     (i = .sqstepCommand g ∧ q = .sq g ∧ op = 0x2A4 ∧ run = (fun c s => if c.va = 0 then beginSqstep g c s else s) ∧
       after = sqSteps g 4097) ∨
     (i = .tkpushCommand g ∧ q = .tk g ∧ op = 0x298 ∧ run = runTkpush g ∧ after = id) ∨
     (i = .tkpopCommand g ∧ q = .tk g ∧ op = 0x299 ∧ run = runTkpop g ∧ after = id) ∨
     (i = .tkdoneCommand g ∧ q = .tk g ∧ op = 0x29A ∧ run = (fun c s => if c.vc = 0 then beginTkdone g c s else s) ∧
       after = finishTkdone g) ∨
     (i = .nputCommand g ∧ q = .ne g ∧ op = 0x310 ∧ run = runNput g (2 ^ 30) ∧ after = id) ∨
     (i = .ngetCommand g ∧ q = .ne g ∧ op = 0x311 ∧ run = runNget g ∧ after = ngetFinish g (2 ^ 30)) ∨
     (i = .nsigCommand g ∧ q = .ne g ∧ op = 0x312 ∧ run = runNsig g ∧ after = id)) →
    ∀ c rest, queueOf s q = c :: rest → c.op = op → mayBegin s q c = true → guardHeld s q c = false →
      exec i s = .next (after (if discarded s q c then doneHead q 1 0 s
        else if unitReady s q then run c s else claimHead q s))

/-- A fused command, where a forming checkpoint lets it begin (R343), joins its partners' once all of them are at the
heads of their queues: they run together
where they agree, end BADDESC where they differ, and all that are there end BADDESC where a partner's quadrant is not
held when the command comes to its head (R283). A command that is done leaves its queue with its completion word, its counters fall and an
ACP that failed sets its latch, while its completion queue has room; fence entries leave together (R246 to
R248, R250, R253, R304). -/
def Obligations.FusedAndDoneCommands : Prop :=
  (∀ (s : State) (g : Nat) (c : Cmd), (queueOf s (.mx g)).head? = some c →
    (readyFused s g c.fuse).isSome = true → guardHeld s (.mx g) c = false → discarded s (.mx g) c = false →
    engineOn s (queueFn s (.mx g)) = true → (c.begun = true ∨ ckptLets s (.mx g) c = true) →
    let n := (partners (cohortSect s g) c.fuse).length
    let held := partnersHeld s g c.fuse
    let t := modHead (.mx g) (fun c => { c with progress := 1 }) s
    let l := readyParts t g c.fuse
    (c.progress = 0 → c.begun = false → held.length < n → exec (.fusedCommandJoin g) s
      = .next ((held.filter (involved s c.fuse)).foldl (fun s x => doneHead (.mx x.2) 5 0 s) (doneHead (.mx g) 5 0 s))) ∧
    (n ≤ held.length → n ≤ l.length → (∀ x ∈ l, unitReady t (.mx x.2.cohort) = true) →
      ((∀ x ∈ l, sameFused x.2.cmd c = true) → exec (.fusedCommandJoin g) s = .next (runAllJoined l t)) ∧
      ((∃ x ∈ l, sameFused x.2.cmd c = false) → exec (.fusedCommandJoin g) s
        = .next (l.foldl (fun s x => doneHead (.mx x.2.cohort) 5 0 s) t)))) ∧
  (∀ (s : State) (q : QRef) (c : Cmd) (rest : List Cmd), queueOf s q = c :: rest →
    engineOn s (queueFn s q) = true →
    (∀ n, c.fence = some n → exec (.commandComplete q) s = .next (reapOwners (.mx (queueCohort s q))
      (leaveFence s n (queuesOfCohort s (queueCohort s q))))) ∧
    (c.fence = none → ∀ status value, c.done = some (status, value) →
      (cqFull s q c = true → exec (.commandComplete q) s = .next s) ∧
      (cqFull s q c = false → exec (.commandComplete q) s = .next (reapOwners q (latchAcp c status
        (leaveCounters c (pushWord q c status value (modQueueOf q (fun _ => rest) (unitMoved q s)))))))))

/-- A quadrant's tenure passes, when it is over, to the cohort that has waited longest, once the undo log has room for
the lines of its unit image, and the quadrant, where its context comes to have it (R402), is at its initial values; a complete signing round enters MX, and one
whose count is out is discarded with a DISCARDED word (R270 to R272, R346).
That a full queue takes a DISCARDED word is DEDUCED (log 44). -/
def Obligations.QuadrantSteps : Prop :=
  ∀ (s : State) (sect n : Nat),
    (tenureOver s sect = true →
      (tenureQueue s sect = [] → exec (.quadrantTenureGrant sect) s
        = .next (s.modSect sect (fun q => { q with holder := none }))) ∧
      (∀ c rest, tenureQueue s sect = c :: rest → tenureRoom s sect c = true →
        exec (.quadrantTenureGrant sect) s = .next (startTenure sect c s) ∧
          (unitOurs (claimUnit (cohortFn s c) sect s) (cohortFn s c) sect = true →
            ((startTenure sect c s).sect sect).holder = some c ∧
            ((startTenure sect c s).sect sect).acc0 = [] ∧ ((startTenure sect c s).sect sect).acc1 = []))) ∧
    (∀ c range r, (s.sect sect).holder = some c → cregOf s sect n = ⟨some range, some r⟩ →
      ((s.ctx (queueFn s (.mx c))).halt = none →
        (∀ k ∈ signSet s c range.toNat, k ∈ r.cmd.signers) → queueFull s (.mx c) = false →
        exec (.signingRoundComplete sect n) s
          = .next (enqueue (.mx c) r.cmd (setCreg sect n ⟨some range, none⟩ s))) ∧
      (stallDue s (queueFn s (.mx c)) r.core r.origin = true → (∀ i ∈ coresOfCohort s c, coreQuiet s i = true) →
        (∀ p ∈ s.threads, p.2.stall ≠ some ⟨12, 5, n⟩) →
        exec (.signingRoundDiscard sect n) s = .next (leaveCounters r.cmd (pushWord (.mx c) r.cmd 1 0
          (setCreg sect n ⟨some range, none⟩ s)))))

/-! ### Device steps: the network -/

/-- A Network Engine operation ends with its answer: an error or an abandoned transfer as FAULT with the bytes
delivered, an acknowledgement as OK; a trimmed packet is sent again, and the bytes that NGET asked for are written as they
come, at most 4,096 to a packet, of an unordered operation in any order (R411, R415). A remote memory access to an endpoint's address, of a job that it accepts,
is refused by another delivery mode and asked for again where its packet was trimmed; with unordered delivery or in its
turn of an ordered flow, once what waited for the undo log before it has been tried again, it is performed in its context and acknowledged, with the bytes
read, or answered with an error where it does not translate; the function's threads, workgroups and cores and the queues
stay as they are (R411, R412). What a range that translates in part meets is DEDUCED (log 58), and how a flow counts its
packets is PRESUMED (log 86). -/
def Obligations.NetworkSteps : Prop :=
  (∀ (s : State) (id : Nat) (o : NetOp), look id s.net = some o → netAwaited s o = true →
    let q := QRef.ne o.wg
    let data := ((queueOf s q).head?.map (·.data)).getD []
    (∀ n, exec (.peerResponse id (.error n)) s = .next (netFail o n (netDrop id s)) ∧
      exec (.transferAbandoned id n) s = .next (netFail o n (netDrop id s)) ∧
      (o.op ≠ 0x311 → netFail o n (netDrop id s) = doneHead q 2 n (netDrop id s))) ∧
    (o.op ≠ 0x311 → exec (.peerResponse id .ack) s
      = .next (doneHead q (if o.short then 2 else 0) o.len (netDrop id s))) ∧
    (∀ c, (queueOf s q).head? = some c → o.op = 0x311 → ∀ off bytes, bytes ≠ [] → bytes.length ≤ 4096 →
      off + bytes.length ≤ o.len → (o.ordered = true → off = answered c) →
      (o.ordered = false → ∀ x ∈ c.answers, off + bytes.length ≤ x.1 ∨ x.1 + x.2.length ≤ off) →
      exec (.peerResponse id (.data off bytes)) s = .next (ngetFinish o.wg (2 ^ 30)
        (modHead q (fun c => { c with answers := c.answers ++ [(off, bytes)] })
          (if answered c + bytes.length = o.len then netDrop id s else s)))) ∧
    (∀ i p, (packets o (if o.op = 0x310 then data else []))[i]? = some p →
      exec (.peerResponse id (.trimmed i)) s = .next { s with out := s.out ++ [p] })) ∧
  (∀ (s : State) (d : EndpointName) (job : Word) (addr : DWord), s.Inv → accepts412 s d.addr d.fn job = true →
    let fn := d.fn
    let core := firstCore s fn
    let s0 := retryInbound fn (postLogs s)
    let s1 := if d.mode = .rod then { s0 with flows := put d.flow (d.seq + 1) s0.flows } else s0
    let Stays := fun (t : State) => t.threads = s0.threads ∧ t.wgs = s0.wgs ∧ t.cores = s0.cores ∧ t.queues = s0.queues
    (∀ bytes, d.mode = .other ∨ 4096 < bytes.length →
      exec (.inboundRmaWrite d job addr bytes) s = .next (refuseInbound fn s)) ∧
    (∀ bytes, d.mode ≠ .other → bytes.length ≤ 4096 → d.trimmed = true →
      exec (.inboundRmaWrite d job addr bytes) s = .next { s with out := s.out ++ [.inboundTrimmed fn] }) ∧
    (d.mode ≠ .other → d.trimmed = false → (d.mode = .rod → d.seq = (look d.flow s0.flows).getD 0) →
      (∀ bytes, bytes.length ≤ 4096 → inboundWaits s1 ⟨d, addr.toNat, .write bytes⟩ = false →
        (inboundOk s1 fn .write addr.toNat bytes.length = true →
          ∀ t, engineWrite fn core (bytes.length / 4096 + 2) addr.toNat bytes s1 = .inr t →
            exec (.inboundRmaWrite d job addr bytes) s = .next { t with out := t.out ++ [.inboundAck fn []] } ∧
            Stays t) ∧
        (inboundOk s1 fn .write addr.toNat bytes.length = false →
          exec (.inboundRmaWrite d job addr bytes) s = .next (refuseInbound fn s1))) ∧
      (∀ len b, inboundWaits s1 ⟨d, addr.toNat, .read len⟩ = false → inboundOk s1 fn .read addr.toNat len = true →
        engineRead s1 fn core (len / 4096 + 2) addr.toNat len = .inr b →
        let t := readNote fn core (len / 4096 + 2) addr.toNat len s1
        exec (.inboundRmaRead d job addr len) s = .next { t with out := t.out ++ readAnswer fn b } ∧
          t.mem = s0.mem ∧ Stays t) ∧
      (∀ (max1 : Bool) (v : DWord) pa cid, inboundWaits s1 ⟨d, addr.toNat, .atomic max1 v⟩ = false →
        addr.toNat % 8 = 0 → inboundOk s1 fn .write addr.toNat 8 = true →
        engineXlat s1 fn core .write addr.toNat 8 = .ok pa cid → foreign s1 cid pa = false →
        let old := ofBytes (memRead s0.mem pa 8)
        ∃ t, exec (.inboundAtomic d job addr max1 v) s = .next t ∧
          t.out = s0.out ++ [.inboundAck fn (toBytes 8 old)] ∧
          ofBytes (memRead t.mem pa 8) = (if max1 then max old v.toNat else (old + v.toNat) % 2 ^ 64) ∧
          (∀ a, (a < pa ∨ pa + 8 ≤ a) → memByte t.mem a = memByte s0.mem a) ∧ Stays t)))

/-! ### Device steps: placement, checkpoints and contexts -/

/-- A launch that an empty partition could hold is admitted, any other ends with status 1; the cohorts of an
admitted launch are placed in order as they fit, those of a co-operative one together (R165 to R167). A descriptor that
fails its integrity check is a context fault (R402). A
request to switch a variant goes to the last placed workgroup that can give, for a variant that gives enough if there
is one, or to the first that can take, pool (R298).
FRAMESTRIDE and what a switch counts are in part DEDUCED (logs 52 and 55). -/
def Obligations.PlacementSteps : Prop :=
  ∀ (s : State) (key : Nat) (l : Launch), look key s.launches = some l →
    let y := launchIntegrity l s
    let u := y.2
    (l.admitted = false → ∀ x, y.1 = some x →
      exec (.launchAdmission key) s = .next (integrityHalt l.fn 0xFFFF x u)) ∧
    (l.admitted = false → y.1 = none → exec (.launchAdmission key) s = .next (if couldFit key l u
      then endLaunches l.fn (u.modLaunch key (fun l => { l with admitted := true }))
      else completeLaunch l 1 { u with launches := drop key u.launches })) ∧
    (l.admitted = true → y.1 = none → dispatching s l.fn = true → nextLaunch s l.fn = some key →
      (∀ t, l.coop = true → placeCoop key l l.left u = some t → exec (.workgroupPlacement key) s
        = .next (t.modLaunch key (fun l => { l with
          left := [], running := (t.wgs.filter (fun p => p.2.launch = key)).length }))) ∧
      (∀ c rest t, l.coop = false → l.left = c :: rest → placeGreedy key l c u = some t →
        exec (.workgroupPlacement key) s = .next (t.modLaunch key (fun l => { l with
          left := rest, running := l.running + (t.wgs.length - u.wgs.length) })))) ∧
    (∀ core r rest t g w k, (s.core core).waitList = r :: rest → look r.thread s.threads = some t →
      r.since + Config.downAge ≤ (s.ctx t.fn).clock →
      ((multiVariant s core).filter (fun x => !(otherNeeds s x.2.1 x.2.2 true).isEmpty)).getLast?
        = some (g, w, k) →
      let helps := fun v => (needAfter s g w (k.variant v) r : Int) ≤ grantable s core - switchGrowth s g w (k.variant v)
      ∃ v, exec (.downRequest core) s = .next (postRequest g v s) ∧
        (v ∈ otherNeeds s w k true ∨ v = (leastNeed s core k).headD 0) ∧
        ((∃ u ∈ otherNeeds s w k true, helps u) → v ∈ otherNeeds s w k true ∧ helps v)) ∧
    (∀ core g w k v rest, (s.core core).waitList = [] → multiVariant s core = (g, w, k) :: rest →
      (otherNeeds s w k false).find? (fun v =>
        decide (switchGrowth s g w (k.variant v) ≤ (grantable s core : Int))) = some v →
      exec (.upRequest core) s = .next (postRequest g v s))

/-- A checkpoint is asked for when its interval is over, when the undo log runs low, at a breakpoint and at
the end of a slice; it forms once every thread has gathered, and lapses if it does not in time (R342, R344,
R347, R348, R352, R358). CKPTINT is written through the management function.
What a lapse and a slice's end leave in part is DEDUCED (logs 59 and 62). -/
def Obligations.CheckpointSteps : Prop :=
  ∀ (s : State) (fn core : Nat) (value : Word),
    (mgmtUp s = true → exec (.ckptintWrite fn value) s = .next (s.modCtx fn (fun c => { c with
      ckptint := value, lapsedAt := 0 }))) ∧
    (ckptDue s fn = true → exec (.checkpointRequest fn) s = .next (requestCkpt fn 1 s)) ∧
    (engineOn s fn = true → asksCkpt s fn 2 = false → undoLow s fn = true →
      exec (.forcedCheckpoint fn) s = .next (requestCkpt fn 2 s)) ∧
    (sliceOver s fn = true → asksCkpt s fn 3 = false →
      exec (.sliceEnd fn) s = .next (requestCkpt fn 3 s)) ∧
    (∀ p, s.threads.find? (fun p => coreOf p.1 = core && atBreakpoint s p.1 p.2 && atRest p.2) = some p → engineOn s p.2.fn = true →
      exec (.debugBreakpoint core) s = .next (requestCkpt p.2.fn 5
        (s.modCore core (fun c => { c with dbgbp := c.dbgbp &&& ~~~(1#64 <<< 63) })))) ∧
    (∀ r made, (s.ctx fn).ckpt = some r → r.why = [(4, made)] →
      (canForm s fn = true → (s.ctx fn).rolledBack = false →
        exec (.checkpointFormation fn) s = .next (chooseObject fn (formCkpt fn s))) ∧
      (made + Config.ckptLapse ≤ (s.ctx fn).pcycle →
        ∃ t, exec (.checkpointLapse fn) s = .next t ∧ (t.ctx fn).ckpt = none ∧ (t.ctx fn).images = (s.ctx fn).images ∧
          t.mem = s.mem))

/-- A context fault raises the halt line, and its partition, once it has stopped, writes its stop records
and reports it (R338); a rollback puts the latest checkpoint back (R351), a restore runs the function whose
turn it is from it, or leaves it CORRUPT where the image is not sound (R353), and recording and replay begin (R367,
R370).
What a checkpoint keeps and a rollback puts back is in part DEDUCED (logs 13, 19, 59 and 62). -/
def Obligations.ContextSteps : Prop :=
  ∀ (s : State) (fn : Nat) (sound : Bool),
    (∀ code unit, (s.ctx fn).live = true → (s.ctx fn).halt = none → ∃ t,
      exec (.contextFault fn code unit) s = .next t ∧ (t.ctx fn).halt = some ⟨code, unit, false, [], []⟩ ∧
        (t.ctx fn).ckpt = none ∧ t.mem = s.mem) ∧
    (∀ h, (s.ctx fn).halt = some h → h.done = false → h.code ≠ 0 → (s.vf fn).closing = false →
      ∃ t, exec (.partitionHalted fn) s = .next t ∧ (t.vf fn).state = 4 ∧ (t.vf fn).code = h.code ∧
        (t.ctx fn).halt.map (·.done) = some true) ∧
    ((s.ctx fn).live = true → (s.ctx fn).halt = none → (s.ctx fn).running = true →
      exec (.rollback ⟨fn, sound⟩) s = .next (rollBack fn sound s)) ∧
    (∀ i rest, (∀ f ∈ tenants s fn, (s.ctx f).running = false) → nextFn s fn = some fn →
      (s.ctx fn).images = i :: rest →
      let u := s.fresh.2
      (imageFault u fn i sound = none → ∃ t, exec (.restore fn sound) s = .next t ∧ (t.ctx fn).running = true ∧
        (t.vf fn).state = 2) ∧
      (∀ code, imageFault u fn i sound = some code → exec (.restore fn sound) s = .next (corrupt fn code u) ∧
        ((corrupt fn code u).vf fn).state = 5 ∧ ((corrupt fn code u).ctx fn).images = [])) ∧
    (∀ area, mgmtUp s = true → exec (.recordStart fn area) s = .next (s.modCtx fn (fun c => { c with
      recctl := (area &&& ~~~0xFFF) ||| 1, orderLog := [], csums := [], replay := none, replayStart := false }))) ∧
    (∀ i rest, mgmtUp s = true → (s.ctx fn).images = i :: rest → exec (.replayStart ⟨fn, sound⟩ false) s
      = .next (returnTo fn i false sound (s.modCtx fn (fun c => { c with
        recctl := (c.recctl &&& ~~~3) ||| 2, replay := some (c.orderLog.filter (fun e => !e.due), c.csums), replayEnd := endsOf s fn
        replayStart := true })))) ∧
    (∀ i j rest, mgmtUp s = true → (s.ctx fn).images = i :: j :: rest → exec (.replayStart ⟨fn, sound⟩ true) s
      = .next (returnTo fn j true sound (s.modCtx fn (fun c => { c with
        recctl := (c.recctl &&& ~~~3) ||| 2, 
        replay := some ((j.log ++ c.orderLog.filter (fun e => !e.carried)).filter (fun e => !e.due), j.csums ++ c.csums)
        replayEnd := endsOf s fn, replayStart := true }))))

/-! ### Device steps: the Foreman and the functions -/

/-- A control write of an enabled function's window, none being in progress, acts and leaves its outcome in
CSTAT: a queue is created, marked for destruction or reset, a context is torn down, rolled back or started,
translations are dropped; while one is in progress the outcome is BUSY (R397).
Tear-down and second start, and which entries an invalidation drops, are DEDUCED (logs 66 and 69). -/
def Obligations.ControlWrites : Prop :=
  ∀ (s : State) (fn q : Nat), enabled s fn = true →
    let Control := fun i act =>
      ((s.vf fn).cstat.getLsbD 8 = true → exec i s = .next (setStat fn 0x101 s)) ∧
      ((s.vf fn).cstat.getLsbD 8 = false → exec i s = .next (act s))
    let live := (s.ctx fn).live
    Control (.queueCreate fn q) (createQueue fn q) ∧ Control (.queueReset fn q) (resetQueue fn q) ∧
    (look (queueKey fn q) s.queues = none → Control (.queueDestroy fn q) (setStat fn 2)) ∧
    (∀ v, look (queueKey fn q) s.queues = some v →
      (destroyDue s v = false → Control (.queueDestroy fn q) (fun s => setStat fn 0x100
        (s.modQueue (queueKey fn q) (fun v => { v with destroying := true })))) ∧
      (destroyDue s v = true → exec (.queueDestroy fn q) s
        = .next (setStat fn 0 (dropQueue (queueKey fn q) s)))) ∧
    (live = true → Control (.contextTearDown fn) (fun s => setStat fn 0 (tearDown fn s)) ∧
      Control (.contextStart fn) (setStat fn 1) ∧
      ((s.ctx fn).halt = none → (s.ctx fn).running = true → ∀ sound, Control (.contextRollBack ⟨fn, sound⟩)
        (fun s => setStat fn 0 (rollBack fn sound s)))) ∧
    (live = false → Control (.contextStart fn) (fun s => setStat fn 0 (startContext fn s))) ∧
    Control (.tlbinvPage fn q) (fun s => setStat fn 0 (dropTlb fn (fun e => e.page = q * 4096 / 2 ^ e.bits) s)) ∧
    Control (.tlbinvAll fn) (fun s => setStat fn 0 (dropTlb fn (fun _ => true) s)) ∧
    (∀ page all, mgmtUp s = true → exec (.hypTlbinv fn page all) s = .next (dropTlb fn (fun _ => true) s))

/-- A notify write of an ordered flow, in its turn, gives the queue of its slot a new producer index, wakes its thread
where its wait packet names that, and is acknowledged; one of another delivery mode is refused (R389, R397, R411, R412); a
thread consumes a record whose stamp is right, reads one with another stamp again, up to 16 times, and
reports a torn append (R399); a time-out wakes a Foreman thread (R389).
Records that cannot be used and queues that consume nothing are DEDUCED (logs 63 and 64); which events the thread's
wait packet then names is a DESIGN CHOICE (log 84). -/
def Obligations.ForemanSteps : Prop :=
  ∀ (s : State) (fn q : Nat),
    (∀ (d : EndpointName) job slot value key v, accepts412 s d.addr d.fn job = true → slot < 32 →
      (d.mode ≠ .rod → exec (.notifyWrite d ⟨job, slot⟩ value) s = .next (refuseInbound d.fn s)) ∧
      (d.mode = .rod → d.trimmed = false →
        let s0 := retryInbound d.fn (postLogs s)
        let s1 := { s0 with flows := put d.flow (d.seq + 1) s0.flows }
        d.seq = (look d.flow s0.flows).getD 0 → inboundWaits s1 ⟨d, 0, .notify slot value⟩ = false →
        s1.queues.find? (fun p => p.2.fn = d.fn && p.2.notify = slot) = some (key, v) →
        let u := wakeForeman v ((s1.modVf d.fn (fun v => { v with notify := setNth (loWord value) slot v.notify })).modQueue
          key (fun v => { v with producer := loWord value, notified := true }))
        exec (.notifyWrite d ⟨job, slot⟩ value) s = .next { u with out := u.out ++ [.inboundAck d.fn []] })) ∧
    (∀ v, look (queueKey fn q) s.queues = some v → consuming s v = true →
      (v.rereads = 0 → v.sub = 0 ∨ announced v = 0 →
        exec (.appendConsume fn q) s = .next (blockForeman v s)) ∧
      (v.rereads = 0 → v.sub ≠ 0 → 2 ^ v.logSub < announced v →
        exec (.appendConsume fn q) s = .next (queueError v 3 v.consumer s)) ∧
      (∀ r, slotRecord s v v.consumer = some r → valAt 0x30 2 r = stampOf v.consumer →
        (v.rereads = 0 → v.sub ≠ 0 → announced v ≠ 0 → announced v ≤ 2 ^ v.logSub →
          exec (.appendConsume fn q) s = .next (takeRecord v r (slotNote v v.consumer s))) ∧
        (v.rereads ≠ 0 → exec (.stampReread fn q) s = .next (takeRecord v r
          ((slotNote v v.consumer s).modQueue (queueKey fn q) (fun v => { v with rereads := 0 }))))) ∧
      (∀ r, slotRecord s v v.consumer = some r → valAt 0x30 2 r ≠ stampOf v.consumer → v.rereads ≠ 0 →
        (v.rereads < 16 → exec (.stampReread fn q) s = .next ((slotNote v v.consumer s).modQueue (queueKey fn q)
          (fun v => { v with rereads := v.rereads + 1 }))) ∧
        (16 ≤ v.rereads → exec (.stampReread fn q) s
          = .next (queueError v 2 v.consumer (slotNote v v.consumer s)))) ∧
      (∀ r, slotRecord s v v.consumer = some r → valAt 0x30 2 r ≠ stampOf v.consumer → v.rereads = 0 → v.sub ≠ 0 →
        announced v ≠ 0 → announced v ≤ 2 ^ v.logSub → ∃ u, exec (.appendConsume fn q) s = .next u ∧
        (look (queueKey fn q) u.queues).map (·.rereads) = some 1 ∧
        (∀ hw, v.mapped = some hw → (look hw u.foreman).map (·.timer) = some (some 2400)))) ∧
    (∀ hw t, look hw s.foreman = some t → t.timer ≠ none → ∃ u, exec (.foremanTimer hw) s = .next u ∧
      (look hw u.foreman).map (·.running) = some true ∧ (look hw u.foreman).map (·.timer) = some none)

/-- VFCTL enables a function that may be enabled, with its context descriptor, refuses one that may not, and
disables; VFBAND takes a sound setting and notes one that is not; management registers are written (R382, R391, R393,
R401); all of them only while the management function answers (R392, R420). A bandwidth window's grants are recorded.
Settings out of range and the grants of a window are the model's choice (logs 67 and 68). -/
def Obligations.FunctionSteps : Prop :=
  ∀ (s : State) (fn : Nat), fn ≠ 0 → fn < Config.functions →
    (mgmtUp s = true → ∀ value : DWord, enabled s fn = false →
      let d := memRead s.mem (value &&& 0xFFFFFFFFFFFFF000).toNat 128
      let t := s.modVf fn (fun v => { v with ctl := (value &&& 0xFFFFFFFFFFFFF000) ||| (value &&& 0xF0) })
      (value.getLsbD 0 = false → exec (.vfctlWrite fn value) s = .next t) ∧
      (value.getLsbD 0 = true → mayEnable t fn value d = false →
        exec (.vfctlWrite fn value) s = .next (t.modVf fn (fun v => { v with code := 0xF0 }))) ∧
      (value.getLsbD 0 = true → mayEnable t fn value d = true → ∃ u, exec (.vfctlWrite fn value) s = .next u ∧
        enabled u fn = true ∧ (u.vf fn).state = 0 ∧ u.ctx fn = readDescriptor d (s.ctx fn) ∧
        (∀ a, s.Inv → look (lineOf a) s.lineCid = none → memByte u.mem a = memByte s.mem a))) ∧
    (mgmtUp s = true → ∀ value : DWord, enabled s fn = true → value.getLsbD 0 = false → (s.ctx fn).running = false →
      ∃ u, exec (.vfctlWrite fn value) s = .next u ∧ enabled u fn = false ∧ (u.ctx fn).live = false) ∧
    (mgmtUp s = true → ∀ value : Word,
      let v := { s.vf fn with band := value &&& 0x3FFFFFFF }
      (floorOf v ≤ ceilOf v → ceilOf v ≤ 1024 → enabled s fn = true → floorsOk s fn (floorOf v) = true →
        exec (.vfbandWrite fn value) s = .next (s.modVf fn (fun v => { v with
          band := value &&& 0x3FFFFFFF, bandBad := false }))) ∧
      (ceilOf v < floorOf v ∨ 1024 < ceilOf v → exec (.vfbandWrite fn value) s
        = .next (s.modVf fn (fun v => { v with bandBad := true })))) ∧
    (∀ channel demand, ∃ u, exec (.bandwidthWindow channel demand) s = .next u ∧
      ((look channel u.channels).map (·.windows)
        = some ((((look channel s.channels).map (·.windows)).getD 0) + 1)) ∧ u.mem = s.mem ∧ u.vfs = s.vfs ∧
      (∀ c, look channel u.channels = some c → ∀ f, ((windowGrants s channel demand).map (·.1)).Nodup →
        look f c.grants = look f (windowGrants s channel demand))) ∧
    (mgmtUp s = true → ∀ value, exec (.mgmtRegisterWrite 0x300 value) s = .next { s with rbAddr := value }) ∧
    (mgmtUp s = true → ∀ off value, off < 0x20 → exec (.mgmtRegisterWrite (0x8000 + 0x20 * fn + off) value) s
      = .next (s.modVf fn (endpointWrite off value))) ∧
    (mgmtUp s = true → ∀ off value, off < 0x80 → exec (.mgmtRegisterWrite (0x10000 + 0x80 * fn + off) value) s
      = .next (s.modVf fn (blockWrite s off value)))

/-- A page request that the host completes leaves its die's table and no thread is parked on it, where the
retry list of the die is empty; read-back delivers its object or an event alone; the trace takes a sample that is due; a slice with
a tag error in a set of clean lines is scrubbed, and the error is counted against it (R209, R354, R362, R425). TRACESTAT and BARSTALL are written (R361, R378).
That the scrub of a slice follows in either case is DEDUCED (log 22), and so is what an RBCMD does meanwhile
(log 72). While the management function does not answer, a write through it leaves the machine as it is (R392, R420). -/
def Obligations.HostAndTraceSteps : Prop :=
  ∀ (s : State),
    (∀ die entry r, look entry (s.die die).pageReqs = some r → (s.die die).retry = [] → ∃ u,
      exec (.pageRequestComplete die entry) s = .next u ∧ look entry (u.die die).pageReqs = none ∧
        (∀ p ∈ u.threads, p.2.wait ≠ some (.parked die entry)) ∧ u.mem = s.mem) ∧
    (∀ value, mgmtUp s = true → s.rbPending = none → exec (.rbcmdWrite value) s = .next (match objectOwner s value with
      | some fn => { requestCkpt fn 6 s with rbPending := some ⟨s.rbAddr, value, some fn, none⟩ }
      | none => { s with rbPending := some ⟨s.rbAddr, value, none, objectNow s value⟩ })) ∧
    (∀ addr cmd b, s.rbPending = some ⟨addr, cmd, none, some b⟩ → exec .readbackDeliver s = .next (reportEvent 0 7 0
      (rbKind cmd + rbIndex cmd * 2 ^ 16) 0 { s with rbPending := none, out := s.out ++ [.hostWrite addr b] })) ∧
    (∀ core fn, runningOn s core = some fn → sampleDue s fn core = true → coreQuiet s core = true →
      exec (.traceSample core) s
      = .next (traceRecord fn core (traceHeader s fn core 1 1 ++ (upto 4).flatMap (slotSample s core))
        (s.modCore core (fun c => { c with sampledAt := some (s.ctx fn).pcycle })))) ∧
    (∀ slice set lines, ((s.slice slice).lines.filter (fun p => lines.contains p.1)).all (fun p => !p.2.dirty) = true →
      exec (.sliceTagError slice set lines) s
        = .next (countError (sliceUnit slice) true (s.modSlice slice (fun v => { v with lines := [], alloc := [] })))) ∧
    (∀ core value, mgmtUp s = true → ∃ u, exec (.barstallWrite core value) s = .next u ∧ (u.core core).barstall = value ∧
      u.threads = s.threads ∧ u.wgs = s.wgs ∧ u.mem = s.mem) ∧
    (∀ fn value, mgmtUp s = true → ∃ u, exec (.tracestatWrite fn value) s = .next u ∧
      (∀ n < 64, (u.ctx fn).tracestat.getLsbD n = if n = 31 then (s.ctx fn).tracestat.getLsbD n && !value.getLsbD n
        else value.getLsbD n) ∧ u.mem = s.mem ∧ u.threads = s.threads ∧ u.wgs = s.wgs) ∧
    (mgmtUp s = false → ∀ (n off : Nat) (w : Word) (v : DWord) (b : Bool) (r : ImageUse),
      ∀ i ∈ [Instr.barstallWrite n w, .poolwaitWrite n w, .poolcfgWrite n w, .ckptintWrite n w, .tracestatWrite n v,
        .vfctlWrite n v, .vfbandWrite n w, .mgmtRegisterWrite off v, .bootcmdWrite v, .loopSetpointWrite off v,
        .rbcmdWrite v, .hypTlbinv n off b, .recordStart n v, .replayStart r b], exec i s = .next s)

/-! ### Device steps: the package -/

/-- A start resets everything but the boot store, comes up after stage 7 and clears FAILS, or stops and counts a
failure, to three at the most, with its reason first in RC (R420, R421). Errors are counted by unit and make
it SUSPECT, a test begins once no running context uses the unit and ends TRANSIENT or LASTING (R422). A parity error
in a frame line with a duplicate, or clean in the pool, is repaired; any other is REGISTER_PARITY or POOL_PARITY, and
one in an L1 line drops the line (R195). Loop
registers take their setpoints and act where they are enabled, towards the setpoint (R423); on a lane in service a sound
flit is delivered and acknowledged, and one that its lane has spoilt is kept by its sender and replayed (R410).
The outcomes are inputs of the steps (DESIGN CHOICE, log 17); setpoints out of range are stored and how far a loop goes (DEDUCED, log 67), which units every context uses (DEDUCED,
log 24), what a start resets is DEDUCED (log 71), and so is how a flit is answered (log 72). -/
def Obligations.PackageSteps : Prop :=
  (∀ (s : State) (o : StartOutcome),
    (∃ u, exec (.start o) s = .next u ∧ u.mem = [] ∧ u.threads = [] ∧ u.wgs = [] ∧ u.queues = [] ∧
      (stopStage o = none → u.boot.up = true ∧ u.boot.stage = 7 ∧ (s.boot.fails ≠ 3 → u.boot.fails = 0)) ∧
      (∀ k, stopStage o = some k → u.boot.up = false ∧ u.boot.stage = k - 1 ∧
        (o.hangs = false → u.boot.fails = min 3 (s.boot.fails + 1) ∧ u.boot.rc0 = reasonCode k o.reason ∧
          u.boot.rc1 = s.boot.rc0 ∧ u.boot.rc2 = s.boot.rc1))) ∧
    (s.boot.starting = true → exec .startTimeout s = .next { s with boot := failStart 0x7F s.boot }) ∧
    (mgmtUp s = true → exec (.bootcmdWrite 1) s = .next { s with boot := { s.boot with forceFull := true } }) ∧
    (∀ value, value ≠ 1 → exec (.bootcmdWrite value) s = .next s)) ∧
  (∀ (s : State) (u : Nat),
    let h := s.unitHealth u
    (∃ t, exec (.errorDetected u ⟨false, .elsewhere⟩) s = .next t ∧ (t.unitHealth u).errors = h.errors + 1 ∧
      (t.unitHealth u).state = if h.state = 0 then 1 else h.state) ∧
    (∀ c k line z, look k s.threads = some z → (look line z.lines).isSome = true →
      (repairable s k line = true → ∃ t, exec (.errorDetected u ⟨c, .frame k line⟩) s = .next t ∧
        (t.unitHealth u).corrected = h.corrected + 1 ∧ t.threads = s.threads ∧ t.ctxs = s.ctxs) ∧
      (repairable s k line = false → (s.ctx z.fn).halt = none →
        ∃ t, exec (.errorDetected u ⟨c, .frame k line⟩) s = .next t ∧ (t.unitHealth u).errors = h.errors + 1 ∧
        (t.ctx z.fn).halt = some ⟨fRegisterParity, s.coreNo z.fn (coreOf k), false, [], []⟩)) ∧
    (∀ c g w, look g s.wgs = some w → (s.ctx w.fn).halt = none →
      ∃ t, exec (.errorDetected u ⟨c, .scratchpad g⟩) s = .next t ∧
        (t.ctx w.fn).halt = some ⟨fPoolParity, s.coreNo w.fn w.core, false, [], []⟩) ∧
    (∀ c core line, ∃ t, exec (.errorDetected u ⟨c, .l1 core line⟩) s = .next t ∧
      (∀ l, l ∈ (t.core core).l1 ↔ l ∈ (s.core core).l1 ∧ l.line ≠ line) ∧ t.ctxs = s.ctxs ∧ t.mem = s.mem) ∧
    (h.state = 1 → (∀ p ∈ s.vfs, onPartition s p.1 = true → usesUnit p.2 u = false) →
      exec (.selfTestBegin u) s = .next (s.setHealth u { h with state := 2 })) ∧
    (h.state = 2 →
      exec (.selfTestEnd u false) s = .next (s.setHealth u { h with state := 0, outcome := 1 }) ∧
      exec (.selfTestEnd u true) s = .next (retireUnit u (s.setHealth u { h with state := 3, outcome := 2 }))) ∧
    (isLoop u = true → mgmtUp s = true → ∀ value : DWord, ∃ t, exec (.loopSetpointWrite u value) s = .next t ∧
      (t.loop u).set = value.extractLsb' 1 31 ∧ (t.loop u).en = value.getLsbD 0) ∧
    (isLoop u = true → (s.loop u).en = true → 0x1200 ≤ u → ∀ value,
      let cur := (loopCur s u).toNat
      let set := (s.loop u).set.toNat
      let v : Word := BitVec.ofNat 32 (max (min cur set) (min (loWord value).toNat (max cur set)))
      (u < 0x1C00 → exec (.adaptiveLoopAction u value) s = .next (s.setLoop u { s.loop u with cur := v % 64 })) ∧
      (∀ core fn, 0x1C00 ≤ u → core = (if u < 0x2400 then (u - 0x1C00) / 8 else (u - 0x2400) / 8) →
        runningOn s core = some fn → exec (.adaptiveLoopAction u value) s = .next (loopWrite u core fn v s))) ∧
    (∀ die lane (flit : Flit), die < 2 → lane < 184 →
      (lane ∈ (s.die die).lanesLost → exec (.bluordFlit die lane flit) s = .next s) ∧
      (lane ∉ (s.die die).lanesLost →
        (flitOk flit.got = true → exec (.bluordFlit die lane flit) s
          = .next (takeFlit die flit.got (deliverFlit die lane flit.held s))) ∧
        (flitOk flit.got = false → exec (.bluordFlit die lane flit) s = .next (replayFlit die lane flit.held s)))))

/-- An SPDM request is answered with its response where the exchanges before it have been made, else with
ERROR, and the algorithms are ECDSA P-384, SHA-384 and AES-256-GCM; a session opens with FINISH after KEY_EXCHANGE and closes with END_SESSION (R406). Incoming firmware
stands beside the running one until the hand-over commits it; Foreman threads that run then go on under the outgoing one
to their next wait packets (R407).
The response codes are PRESUMED (log 16) and what a second load does is DEDUCED (log 72). -/
def Obligations.SecurityAndFirmware : Prop :=
  ∀ (s : State) (r : List Byte) (rest : List (List Byte)), s.spdm.inbox = r :: rest →
    let Chooses := fun (algs : List SpdmAlg) (i : Instr) (code : Nat) (ok : Bool) (blocks : List (Nat × List Byte))
        (next : Spdm) =>
      exec i s = .next (if ok
        then { s.fresh.2 with spdm := next, out := s.out ++ [.spdm code algs blocks (Config.spdmRest s.nextId)] }
        else { s.fresh.2 with spdm := { s.spdm with inbox := rest }
                              out := s.out ++ [.spdm 0x7F [] [] (Config.spdmRest s.nextId)] })
    let Answers := Chooses []
    let p := { s.spdm with inbox := rest }
    Answers .spdmGetVersion 0x04 true [] { p with phase := 1, session := false, keyExchanged := false } ∧
    Answers .spdmGetCapabilities 0x61 (spdmAt s 1) [] { p with phase := max 2 p.phase } ∧
    Chooses [.ecdsaP384, .sha384, .aes256Gcm] .spdmNegotiateAlgorithms 0x63 (spdmAt s 2) [] { p with phase := 3 } ∧
    Answers .spdmGetDigests 0x01 (spdmAt s 3) [] p ∧ Answers .spdmGetCertificate 0x02 (spdmAt s 3) [] p ∧
    Answers .spdmChallenge 0x03 (spdmAt s 3) [] p ∧
    Answers .spdmGetMeasurements 0x60 (spdmAt s 3) (askedBlocks s.firmware r) p ∧
    Answers .spdmKeyExchange 0x64 (spdmAt s 3) [] { p with keyExchanged := true } ∧
    Answers .spdmFinish 0x65 s.spdm.keyExchanged [] { p with session := true, keyExchanged := false } ∧
    Answers .spdmEndSession 0x6C s.spdm.session [] { p with session := false } ∧
    (∀ v m, exec (.firmwareHandoverLoad v m) s
      = .next { s with firmware := { s.firmware with pending := some (v, m) } }) ∧
    (∀ v m, s.firmware.pending = some (v, m) → exec .firmwareHandoverCommit s
      = .next { s with
          firmware := ⟨v, m, none⟩
          foreman := s.foreman.map (fun t => (t.1, { t.2 with outgoing := t.2.running })) })

/-! ### Every program instruction -/

/-- Of every program instruction: an encoding that is not legal for the thread's frame traps before the
guard is looked at, and the address of the following instruction is reported (R51); one whose guard is false completes with no effect but the program counter and the
safe-point count (R12, R49, R50). -/
def Obligations.GuardAndEncoding : Prop :=
  ∀ (i : Instr) (F : Form) (s : State) (k : Nat) (t : Thread) (w : Workgroup),
    programForm i = some F → s.issue = [k] → look k s.threads = some t → look t.wg s.wgs = some w →
    (∀ q, F.check t.fsize = some q → exec i s = .next (trapped k t q (s.modThread k (reportNext F.len)))) ∧
    (F.check t.fsize = none → isPendP t F.guard.1 = false → predAt t F.guard.1 = F.guard.2 →
      exec i s = .next (skipped k t F s))

/-- What completing an instruction leaves as it was, beside the effect that left `s`: all of memory, every other
thread, every other workgroup, core and context, cohorts, sections but for their
TLBs (R208), queues, launches and functions, and of its thread all
but the program counter, the safe-point count, and the registers that it writes or marks last-use (R13 to R17, R27, R345,
R357); here of a thread whose frame's lines pass their integrity checks when they are filled (R402). -/
def Obligations.CompletionFrame : Prop :=
  ∀ (k : Nat) (t : Thread) (F : Form) (pc : DWord) (vs : List Nat) (s : State) (v : Thread),
    look k s.threads = some v → v.wg = t.wg →
    frameForeign (useBanks k (operandGrans s k t F) s) k t (frameLines F t) = none →
    let u := completed k t F pc vs s
    u.mem = s.mem ∧ u.lineCid = s.lineCid ∧ u.ops = s.ops ∧ u.net = s.net ∧ u.out = s.out ∧
    u.cohorts = s.cohorts ∧ (∀ n, { u.sect n with tlb2 := [] } = { s.sect n with tlb2 := [] }) ∧ u.dies = s.dies ∧ u.vfs = s.vfs ∧
    u.queues = s.queues ∧ u.launches = s.launches ∧ u.foreman = s.foreman ∧ u.boot = s.boot ∧
    (∀ j, j ≠ k → look j u.threads = look j s.threads) ∧
    (∀ g, g ≠ t.wg → look g u.wgs = look g s.wgs) ∧
    (∀ c, c ≠ coreOf k → u.core c = s.core c) ∧ (∀ fn, fn ≠ t.fn → u.ctx fn = s.ctx fn) ∧
    ∃ z, look k u.threads = some z ∧ z.pc = pc ∧ z.spord = (if F.stop then v.spord + 1 else v.spord) ∧
      z.preds = v.preds ∧ z.fstat = v.fstat ∧ z.lnk = v.lnk ∧ z.loops = v.loops ∧ z.tdepth = v.tdepth ∧
      z.frame1 = v.frame1 ∧ z.frame2 = v.frame2 ∧ z.fsize = v.fsize ∧ z.ld = v.ld ∧ z.st = v.st ∧
      z.cp = v.cp ∧ z.tl = v.tl ∧ z.tags = v.tags ∧ z.latch = v.latch ∧ z.arrived = v.arrived ∧ z.wait = v.wait ∧
      (v.OcOk → ∀ n, n < v.frame.length → transient? v n = none → n ∉ F.marks →
        (∀ d ∈ F.writes, regClass d.1 = .g → n < d.1.toNat ∨ d.1.toNat + d.2.1 ≤ n) →
        readG z n = readG v n)

/-- A register reads as what was written last, and the operand cache is not to be seen: fills, touches and
write-backs change no register's value (R13 to R16); a dead register reads 0 (R17); zr reads 0 and discards
writes (R6); p7 is true and discards writes (R6). -/
def Obligations.RegisterValues : Prop :=
  ∀ (t : Thread) (n : Nat) (v : Word) (named : List Nat), t.OcOk → n < t.frame.length → n < 192 →
    (readG (writeG named n [v] false t) n = v ∧ (writeG named n [v] false t).OcOk ∧
      ∀ m, m ≠ n → transient? t m = none → readG (writeG named n [v] false t) m = readG t m) ∧
    readG (writeG named n [v] true t) n = v ∧
    (∀ m, readG (touchG named n t) m = readG t m ∧ readG (ocSync t) m = readG t m ∧
      readG (fillG n t) m = readG t m) ∧
    (touchG named n t).OcOk ∧
    (transient? t n = none → readG (killG [n] t) n = 0) ∧
    (∀ w pops regs, readReg w t 0xF8 regs pops = 0) ∧
    (∀ k a regs td s, writeReg k named 0xF8 regs a td s = s) ∧
    predAt t 7 = true ∧ (∀ b, setPred 7 b t = t) ∧
    (∀ p b, p < 7 → predAt (setPred p b t) p = b ∧ ∀ q, q ≠ p → predAt (setPred p b t) q = predAt t q)

/-- Taking a trap: the current trap frame of the new depth holds the addresses, the status word with the
predicates, FSTAT, LNK, the cause and its detail; the thread goes on at its handler-table entry, in no wait or stall and
with no transient window open, and keeps its registers, predicates, FSTAT, LNK, loop stack and counters; at depth 2 the
context takes NESTED_TRAP, and an entry that is no handler is UNHANDLED_TRAP (R328 to R332). The undo log has room for the
frame's lines (R347), a replay serves the load of the entry (R370), and the entry's line passes its integrity check
(R402). -/
def Obligations.TrapEntry : Prop :=
  ∀ (s : State) (k : Nat) (t : Thread) (q : TrapReq), look k s.threads = some t → q.cause < 256 →
    let u := trapped k t q s
    let a := checkAccess s t.fn (coreOf k) t.wg .read (handlerSlot s t.fn q.cause) 8
    (t.tdepth < 2 → handlerForeign s t.fn (coreOf k) a = none → ∀ h : DWord,
      handlerAt s t.fn (coreOf k) t.wg a = some h →
      (h ≠ 0 → h.toNat % 8 = 0 → h.toNat < 2 ^ 57 → loadReady s k t a = true →
        frameRoom s k t (trapFrameLines { t with tdepth := t.tdepth + 1 }) = true → u.mem = s.mem ∧
        (∀ j, j ≠ k → look j u.threads = look j s.threads) ∧
        ∃ z, look k u.threads = some z ∧ z.pc = h ∧ z.tdepth = t.tdepth + 1 ∧ z.trans = [] ∧
          z.wait = none ∧ z.stall = none ∧ z.stallFrom = none ∧ z.held = none ∧ z.pending = none ∧ z.trapping = none ∧
          z.preds = t.preds ∧ z.fstat = t.fstat ∧ z.lnk = t.lnk ∧ z.loops = t.loops ∧ z.frame = t.frame ∧
          z.oc = t.oc ∧ z.dead = t.dead ∧ z.fsize = t.fsize ∧ z.spord = t.spord ∧ z.ld = t.ld ∧ z.st = t.st ∧
          z.cp = t.cp ∧ z.tl = t.tl ∧ z.tags = t.tags ∧ z.latch = t.latch ∧ z.arrived = t.arrived ∧
          let f := curFrame z
          f.rpc = t.pc ∧ f.iaddr = t.pc ∧ f.faddr = q.faddr ∧ f.fstat = t.fstat ∧ f.lnk = t.lnk ∧
          f.cause = BitVec.ofNat 32 q.cause ∧ f.detail = BitVec.ofNat 32 q.detail ∧
          f.own = BitVec.ofNat 32 (maskOf [laneOf k]) ∧
          f.ssw.extractLsb' 0 7 = t.preds ∧ bits f.ssw.toNat 8 7 = t.tdepth) ∧
      (h = 0 ∨ h.toNat % 8 ≠ 0 ∨ 2 ^ 57 ≤ h.toNat → (s.ctx t.fn).halt = none →
        (u.ctx t.fn).halt = some ⟨fUnhandledTrap, s.coreNo t.fn (coreOf k), false, [], []⟩)) ∧
    (t.tdepth < 2 → (∃ r, a = .trap r ∧ r.cause < 256) → (s.ctx t.fn).halt = none →
      (u.ctx t.fn).halt = some ⟨fUnhandledTrap, s.coreNo t.fn (coreOf k), false, [], []⟩) ∧
    (t.tdepth < 2 → (∃ x, handlerForeign s t.fn (coreOf k) a = some x) → (s.ctx t.fn).halt = none →
      (u.ctx t.fn).halt = some ⟨fIntegrityFail, s.coreNo t.fn (coreOf k), false, [], []⟩) ∧
    (t.tdepth = 2 → (s.ctx t.fn).halt = none →
      (u.ctx t.fn).halt = some ⟨fNestedTrap, s.coreNo t.fn (coreOf k), false, [], []⟩)

/-! ### Fetching, decoding, stepping -/

/-- A step that an issue turn takes runs, for the threads of the bundle that the slot prefers that receive the same words,
the instruction that these words decode to; a word that neither the fetch path nor the core holds is read from memory,
one that the core holds a line of from that line (R24 to R29, R143, R145). A step of an event turn runs its device step,
and bundles split where it has moved threads.
The agenda and the life of code lines are a DESIGN CHOICE (logs 1 and 7). -/
def Obligations.StepRunsTheInstruction : Prop :=
  (∀ (s : State) (core slot : Nat) (rest : List Turn) (c : Candidate) (k : Nat) (ks : List Nat) (t : Thread),
    s.agenda = .issue core slot :: rest →
    let s0 := { s with agenda := rest }
    trapDue s0 core slot = none → best (candidates s0 core slot) = some c → c.here = k :: ks →
    look k s.threads = some t →
    codeForeign s0 k t.fn t.pc.toNat = none →
    let r := fetchInstr k t.fn t.pc.toNat s0
    let o := fetchOthers t.fn t.pc.toNat r.1 ks r.2
    step s = exec (instrOf r.1) { o.2 with issue := k :: o.1 } ∧
      (∀ l, (pathInstr k t.fn (onStream s0 k t.pc.toNat) t.pc.toNat s0).1 = .inr l →
        instrOf r.1 = decode (nth 0 0 (l.map (·.word))) (nth 0 1 (l.map (·.word))) (nth 0 2 (l.map (·.word))))) ∧
  (∀ (s : State) (k fn pc pa cid : Nat),
    let core := coreOf k
    peek s fn core .exec pc = .ok pa cid → pc % 8 = 0 → pa % 128 = pc % 128 →
    (∀ w, heldWord fn pc (pathWords s k (onStream s k pc)) = some w → wordLength w.word = 8 →
      instrOf (fetchInstr k fn pc s).1 = decode w.word 0 0) ∧
    (heldWord fn pc (pathWords s k (onStream s k pc)) = none →
      (codeFind fn (lineOf pc) (s.core core).icache = none →
        let w : DWord := BitVec.ofNat 64 (ofBytes (memRead s.mem pa 8))
        wordLength w = 8 → instrOf (fetchInstr k fn pc s).1 = decode w 0 0) ∧
      (∀ l, codeFind fn (lineOf pc) (s.core core).icache = some l →
        let w : DWord := BitVec.ofNat 64 (valAt (pc % 128) 8 l.bytes)
        wordLength w = 8 → instrOf (fetchInstr k fn pc s).1 = decode w 0 0))) ∧
  (∀ s i, s.agenda = .event i :: s.agenda.tail →
    step s = afterStep (exec i { s with agenda := s.agenda.tail, issue := [] }))

/-- Words written out field by field from the encoding of R31 and the opcode map of R48 decode to the
instructions that they stand for; a word of an unassigned opcode is no instruction. -/
def Obligations.DecodedWords : Prop :=
  decode 0b00_0000000001_111_0_0_0_0_0_0_00000100_00000101_00000110_11111000_00101000000 0 0
    = .iadd ⟨0, 7, false, false, false, false, false, false, 4, 5, 6, 0xF8, 0b00101000000, 0, 0⟩ ∧
  decode 0b00_0010001100_010_1_1_0_0_0_0_11111000_11111000_11111000_11111000_00000000000 0 0
    = .exit ⟨0, 2, true, true, false, false, false, false, 0xF8, 0xF8, 0xF8, 0xF8, 0, 0, 0⟩ ∧
  decode 0b10_0110000000_111_0_0_1_1_0_0_00001010_00000010_00000100_11111000_00000000010 5 0
    = .ld ⟨2, 7, false, false, true, true, false, false, 10, 2, 4, 0xF8, 2, 5, 0⟩ ∧
  decode 0b00_0110010000_111_0_0_0_0_0_0_11111000_11111000_11111000_11111000_00000000000 0 0
    = .fenceCode ⟨0, 7, false, false, false, false, false, false, 0xF8, 0xF8, 0xF8, 0xF8, 0, 0, 0⟩ ∧
  decode 0b01_0000001_00000010_00000011_0_1_0_00000_0011111_11111000_11111000_0_0_0_00000 0 0
    = .pairWord ⟨1, 2, 3, false, true, false, 0⟩ ⟨31, 0xF8, 0xF8, false, false, false, 0⟩ ∧
  decode 0b00_0000000000_111_0_0_0_0_0_0_00000000_00000000_00000000_00000000_00000000000 0 0
    = .illegalInstruction 0b00_0000000000_111_0_0_0_0_0_0_00000000_00000000_00000000_00000000_00000000000

/-- Decoding and encoding agree: a well-formed instruction that has words decodes from them to itself, every
word decodes to a well-formed instruction, and encodes to the word itself (R29 to R31, R44, R48). -/
def Obligations.DecodeEncode : Prop :=
  (∀ i : Instr, i.wellFormed = true → encode i ≠ [] → decodeWords (encode i) = some i) ∧
  (∀ w e1 e2 : DWord, (decode w e1 e2).wellFormed = true ∧
    encode (decode w e1 e2) = (if decode w e1 e2 = .illegalInstruction w then [w]
      else [w, e1, e2].take (wordLength w / 8)))

/-! ### The machine -/

/-- Every instruction and every device step answers a next state, in every state: none stops the machine. -/
def Obligations.EveryInstructionAnswers : Prop :=
  ∀ (i : Instr) (s : State), ∃ t, exec i s = .next t

/-- Every step keeps device memory in the model's canonical form, which is its own (`Memory.wf`: DESIGN CHOICE, log 3),
and the count of failed starts at three or less (R421). -/
def Obligations.InvariantKept : Prop :=
  ∀ s t : State, s.Inv → step s = .next t → t.Inv

/-- After reset no thread, workgroup or launch exists, no function is enabled, memory lists nothing, and the
registers hold what R156, R190, R191, R329, R342 and R358 give; the invariant holds, and no step leaves it
before a start.
That unlisted memory reads 0 is a DESIGN CHOICE (log 3), and so is that nothing moves before a start (logs 1
and 2). -/
def Obligations.ResetState : Prop :=
  State.reset.Inv ∧ State.reset.threads = [] ∧ State.reset.wgs = [] ∧ State.reset.launches = [] ∧
  State.reset.mem = [] ∧ (∀ a, memByte State.reset.mem a = Memory.blank) ∧
  (∀ fn, enabled State.reset fn = false ∧ (State.reset.ctx fn).live = false ∧
    (State.reset.ctx fn).htbase = 0 ∧ (State.reset.ctx fn).ckptint = 0x00029810 ∧
    (State.reset.ctx fn).tracectl = 0 ∧ (State.reset.ctx fn).recctl = 0) ∧
  (∀ c, (State.reset.core c).barstall = 0x00100000 ∧ (State.reset.core c).poolwait = 0x00004000 ∧
    (State.reset.core c).poolcfg = 0x00000600 ∧ (State.reset.core c).dbgbp = 0) ∧
  step State.reset = .next State.reset
end

