-- ==== Sys2Proof/Laws/Driver.lean ====
section
/-! SUPPORT. What the driver does with the one thread of a bundle, by the outcome of the instruction's
body: everything that a ready instruction can come to, said once. -/

namespace Sys2Proof.Machine

theorem issuePc_of_single {s : State} {k : Nat} {t : Thread} (hi : s.issue = [k])
    (ht : look k s.threads = some t) : issuePc s = t.pc := by
  simp [issuePc, hi, ht]

theorem wgsOf_single {s : State} {k : Nat} {t : Thread} (ht : look k s.threads = some t) :
    wgsOf s [k] = [t.wg] := by
  simp [wgsOf, ht, distinct]

theorem wgsCounted_single {s : State} {k : Nat} {t : Thread} (ht : look k s.threads = some t) :
    wgsCounted s [k] = counted t := by
  cases ha : t.apprentice <;> simp [wgsCounted, wgsOf, ht, counted, ha, distinct]

theorem ordOf_single {s : State} {k : Nat} {t : Thread} (ht : look k s.threads = some t) :
    ordOf s [k] = t.spord.toNat := by
  simp [ordOf, ht]

theorem ordOf_nil (s : State) : ordOf s [] = 0 := rfl
theorem wgsCounted_nil (s : State) : wgsCounted s [] = [] := rfl
theorem wgsOf_nil (s : State) : wgsOf s [] = [] := rfl

theorem takeTraps_nil (s : State) : takeTraps [] s = s := rfl

/-- A ready instruction runs its body on its sources. -/
theorem laneStep_of_ready {s : State} {F : Form} {k : Nat} {t : Thread} {w : Workgroup}
    (h : Ready s F k t w) (body : Body) :
    laneStep F body ⟨s, [], [], []⟩ k
      = Run.take ⟨s, [], [], []⟩ k t F (sources F t w) (body k t (sources F t w) s) := by
  have hg : ¬ predAt t F.guard.1 = F.guard.2 := by simpa using h.guardHolds
  have hp := h.predicates
  have hl : Run.lead ⟨s, [], [], []⟩ (F.leadKey t) = .none := rfl
  cases hs : F.scalar <;>
    simp [laneStep, h.thread, h.workgroup, h.legal, h.guardKnown, hg, hp, h.loads, h.fills, h.order,
      h.room, h.logs, h.banks, h.unheld, h.queues, sources, hl]

/-- The answer of an instruction of a ready thread, by the outcome of its body. -/
theorem answer_of_ready {s : State} {F : Form} {k : Nat} {t : Thread} {w : Workgroup}
    (h : Ready s F k t w) (body : Body) :
    answer F body s =
      let r := Run.take ⟨s, [], [], []⟩ k t F (sources F t w) (body k t (sources F t w) s)
      .next (settle [k] (wgsOf s r.issued) (wgsCounted s r.issued) r.issued t.pc (ordOf s r.issued)
        (takeTraps r.traps r.s)) := by
  simp [answer, runLanes, h.issues, laneStep_of_ready h, issuePc_of_single h.issues h.thread]

variable {s : State} {F : Form} {k : Nat} {t : Thread} {w : Workgroup} {body : Body}

theorem answer_done (h : Ready s F k t w) {vs : List Nat} {s' : State}
    (hb : body k t (sources F t w) s = .done vs s') :
    answer F body s = .next (completed k t F (nextPc t F) vs s') := by
  simp [answer_of_ready h, hb, Run.take, completed, nextPc, wgsOf_single h.thread, wgsCounted_single h.thread, ordOf_single h.thread, takeTraps_nil]

theorem answer_jump (h : Ready s F k t w) {pc : DWord} {s' : State}
    (hb : body k t (sources F t w) s = .jump pc s') :
    answer F body s = .next (completed k t F pc [] s') := by
  simp [answer_of_ready h, hb, Run.take, completed, wgsOf_single h.thread, wgsCounted_single h.thread, ordOf_single h.thread, takeTraps_nil]

theorem answer_trap (h : Ready s F k t w) {q : TrapReq}
    (hb : body k t (sources F t w) s = .trap q) : answer F body s = .next (trapped k t q s) := by
  simp [answer_of_ready h, hb, Run.take, Run.trap, trapped, wgsOf_single h.thread, wgsCounted_single h.thread, ordOf_single h.thread]

theorem answer_fail (h : Ready s F k t w) {q : TrapReq} {s' : State}
    (hb : body k t (sources F t w) s = .fail q s') :
    answer F body s = .next (trapped k t q s') := by
  simp [answer_of_ready h, hb, Run.take, Run.trap, trapped, wgsOf_single h.thread, wgsCounted_single h.thread, ordOf_single h.thread]

theorem answer_after (h : Ready s F k t w) {q : TrapReq} {vs : List Nat} {s' : State}
    (hb : body k t (sources F t w) s = .after q vs s') :
    answer F body s = .next (completedTrapped k t F q vs s') := by
  simp [answer_of_ready h, hb, Run.take, completedTrapped, nextPc, wgsOf_single h.thread, wgsCounted_single h.thread, ordOf_single h.thread]

theorem answer_wait (h : Ready s F k t w) {v : Wait} {s' : State}
    (hb : body k t (sources F t w) s = .wait v s') :
    answer F body s = .next (waiting k t F v s') := by
  simp [answer_of_ready h, hb, Run.take, waiting, wgsOf_single h.thread, wgsCounted_single h.thread, ordOf_single h.thread, takeTraps_nil]

theorem answer_gone (h : Ready s F k t w) {s' : State}
    (hb : body k t (sources F t w) s = .gone s') :
    answer F body s = .next (settle [k] [t.wg] (counted t) [k] t.pc t.spord.toNat s') := by
  simp [answer_of_ready h, hb, Run.take, wgsOf_single h.thread, wgsCounted_single h.thread, ordOf_single h.thread, takeTraps_nil]

theorem answer_stall (h : Ready s F k t w) {st : Stall}
    (hb : body k t (sources F t w) s = .stall st false) :
    answer F body s = .next (stalled k t st none s) := by
  simp [answer_of_ready h, hb, Run.take, Run.hold, stalled, wgsOf_nil, wgsCounted_nil, ordOf_nil, takeTraps_nil, h.unheld]

theorem answer_hold (h : Ready s F k t w) {st : Stall}
    (hb : body k t (sources F t w) s = .stall st true) :
    answer F body s = .next (stalled k t st (some (sources F t w)) (takeSources k t F s)) := by
  simp [answer_of_ready h, hb, Run.take, Run.hold, stalled, wgsOf_nil, wgsCounted_nil, ordOf_nil, takeTraps_nil]

theorem answer_keep (h : Ready s F k t w) {st : Stall} {s' : State}
    (hb : body k t (sources F t w) s = .keep st s') :
    answer F body s = .next (stalled k t st none s') := by
  simp [answer_of_ready h, hb, Run.take, Run.stall, Run.hold, stalled, wgsOf_nil, wgsCounted_nil, ordOf_nil, takeTraps_nil, h.unheld]

theorem answer_park (h : Ready s F k t w) {stage page va kind : Nat}
    (hb : body k t (sources F t w) s = .park stage page va kind) :
    answer F body s = .next (settle [k] [] [] [] t.pc 0 (parkThread k t.fn stage page va kind s)) := by
  simp [answer_of_ready h, hb, Run.take, wgsOf_nil, wgsCounted_nil, ordOf_nil, takeTraps_nil]

theorem answer_fp (h : Ready s F k t w) {e : Exc} {vs : List Nat} {s' : State}
    (hb : body k t (sources F t w) s = fpDone k t e vs s') :
    answer F body s = .next (fpFinished k t F e vs s') := by
  unfold fpDone at hb
  unfold fpFinished
  split at hb <;> rename_i hc <;> simp only [hc, if_true, if_false, Bool.false_eq_true]
  · exact answer_after h hb
  · exact answer_done h hb

/-- A thread whose guard is false steps over the instruction (R12). -/
theorem answer_skip (hi : s.issue = [k]) (ht : look k s.threads = some t)
    (hw : look t.wg s.wgs = some w) (hl : F.check t.fsize = none)
    (hk : isPendP t F.guard.1 = false) (hg : predAt t F.guard.1 = F.guard.2) :
    answer F body s = .next (skipped k t F s) := by
  simp [answer, runLanes, hi, laneStep, ht, hw, hl, hk, hg, skipped, nextPc, wgsOf_single ht, wgsCounted_single ht, ordOf_single ht,
    takeTraps_nil, issuePc_of_single hi ht]

/-- An illegal encoding traps, whatever the guard (R49, R50), and the next instruction's address is reported (R51). -/
theorem answer_illegal (hi : s.issue = [k]) (ht : look k s.threads = some t)
    (hw : look t.wg s.wgs = some w) {q : TrapReq} (hl : F.check t.fsize = some q) :
    answer F body s = .next (trapped k t q (s.modThread k (reportNext F.len))) := by
  simp [answer, runLanes, hi, laneStep, ht, hw, hl, Run.trap, trapped, wgsOf_single ht, wgsCounted_single ht, ordOf_single ht,
    issuePc_of_single hi ht]

/-! ### The same for an issue of an instruction -/

section
@[simp] theorem Issue.nth_zero (x : Issue) : nth 0 0 x.src = x.a := rfl
@[simp] theorem Issue.nth_one (x : Issue) : nth 0 1 x.src = x.b := rfl
@[simp] theorem Issue.nth_two (x : Issue) : nth 0 2 x.src = x.c := rfl

/-- Reading through a function that keeps the default. -/
theorem nth_map {α β : Type} {d : α} {e : β} {g : α → β} (h : g d = e) :
    ∀ (n : Nat) (l : List α), nth e n (l.map g) = g (nth d n l)
  | n, [] => by cases n <;> simp [nth, h]
  | 0, _ :: _ => rfl
  | n + 1, _ :: l => nth_map h n l

@[simp] theorem readInt_zero (c : Nat) : readInt c 0 = 0 := by
  unfold readInt; split <;> simp [sextInt]

/-- The sources read as a type. -/
@[simp] theorem nth_map_readInt (c n : Nat) (l : List Nat) :
    nth 0 n (l.map (readInt c)) = readInt c (nth 0 n l) := nth_map (readInt_zero c) n l

/-- The sources cut to a width. -/
@[simp] theorem nth_map_mod (m n : Nat) (l : List Nat) : nth 0 n (l.map (· % m)) = nth 0 n l % m :=
  nth_map (g := (· % m)) (Nat.zero_mod m) n l

variable {x : Issue} {i : Instr} {G : Form} {bd : Body}

theorem Issue.Of.done (h : x.Of i) (hi : programForm i = some G) (he : exec i x.s = answer G bd x.s)
    {vs : List Nat} {s' : State} (hb : bd x.k x.t x.src x.s = .done vs s') :
    exec i x.s = .next (x.done vs s') := by
  obtain rfl : x.F = G := Option.some.inj (h.1.symm.trans hi)
  exact he.trans (answer_done h.2 hb)

theorem Issue.Of.jump (h : x.Of i) (hi : programForm i = some G) (he : exec i x.s = answer G bd x.s)
    {pc : DWord} {s' : State} (hb : bd x.k x.t x.src x.s = .jump pc s') :
    exec i x.s = .next (x.jump pc s') := by
  obtain rfl : x.F = G := Option.some.inj (h.1.symm.trans hi)
  exact he.trans (answer_jump h.2 hb)

theorem Issue.Of.trap (h : x.Of i) (hi : programForm i = some G) (he : exec i x.s = answer G bd x.s)
    {q : TrapReq} (hb : bd x.k x.t x.src x.s = .trap q) :
    exec i x.s = .next (x.trap q x.s) := by
  obtain rfl : x.F = G := Option.some.inj (h.1.symm.trans hi)
  exact he.trans (answer_trap h.2 hb)

theorem Issue.Of.fail (h : x.Of i) (hi : programForm i = some G) (he : exec i x.s = answer G bd x.s)
    {q : TrapReq} {s' : State} (hb : bd x.k x.t x.src x.s = .fail q s') :
    exec i x.s = .next (x.trap q s') := by
  obtain rfl : x.F = G := Option.some.inj (h.1.symm.trans hi)
  exact he.trans (answer_fail h.2 hb)

theorem Issue.Of.after (h : x.Of i) (hi : programForm i = some G) (he : exec i x.s = answer G bd x.s)
    {q : TrapReq} {vs : List Nat} {s' : State} (hb : bd x.k x.t x.src x.s = .after q vs s') :
    exec i x.s = .next (x.after q vs s') := by
  obtain rfl : x.F = G := Option.some.inj (h.1.symm.trans hi)
  exact he.trans (answer_after h.2 hb)

theorem Issue.Of.waits (h : x.Of i) (hi : programForm i = some G) (he : exec i x.s = answer G bd x.s)
    {v : Wait} {s' : State} (hb : bd x.k x.t x.src x.s = .wait v s') :
    exec i x.s = .next (x.waits v s') := by
  obtain rfl : x.F = G := Option.some.inj (h.1.symm.trans hi)
  exact he.trans (answer_wait h.2 hb)

theorem Issue.Of.stall (h : x.Of i) (hi : programForm i = some G) (he : exec i x.s = answer G bd x.s)
    {st : Stall} (hb : bd x.k x.t x.src x.s = .stall st false) :
    exec i x.s = .next (x.stall st) := by
  obtain rfl : x.F = G := Option.some.inj (h.1.symm.trans hi)
  exact he.trans (answer_stall h.2 hb)

theorem Issue.Of.hold (h : x.Of i) (hi : programForm i = some G) (he : exec i x.s = answer G bd x.s)
    {st : Stall} (hb : bd x.k x.t x.src x.s = .stall st true) :
    exec i x.s = .next (x.hold st) := by
  obtain rfl : x.F = G := Option.some.inj (h.1.symm.trans hi)
  exact he.trans (answer_hold h.2 hb)

theorem Issue.Of.fp (h : x.Of i) (hi : programForm i = some G) (he : exec i x.s = answer G bd x.s)
    {e : Exc} {vs : List Nat} {s' : State}
    (hb : bd x.k x.t x.src x.s = fpDone x.k x.t e vs s') :
    exec i x.s = .next (x.fp e vs s') := by
  obtain rfl : x.F = G := Option.some.inj (h.1.symm.trans hi)
  exact he.trans (answer_fp h.2 hb)

theorem Issue.Of.gone (h : x.Of i) (hi : programForm i = some G) (he : exec i x.s = answer G bd x.s)
    {s' : State} (hb : bd x.k x.t x.src x.s = .gone s') :
    exec i x.s = .next (x.left s') := by
  obtain rfl : x.F = G := Option.some.inj (h.1.symm.trans hi)
  exact he.trans (answer_gone h.2 hb)

end

end Sys2Proof.Machine
end

