-- ==== Sys2Proof/Laws/Memory.lean ====
section
/-! SUPPORT. The laws of byte memory: what a read after a write gives, and that every operation keeps the
canonical form. -/

namespace Sys2Proof.Machine

/-! ### One byte -/

@[simp] theorem memByte_nil (a : Nat) : memByte [] a = Memory.blank := rfl

/-- A canonical list whose addresses begin above an address does not list it. -/
theorem memByte_below {m : List Host.Cell} {lo a : Nat} (h : Memory.wfFrom lo m = true) (ha : a < lo) :
    memByte m a = Memory.blank := by
  induction m generalizing lo with
  | nil => rfl
  | cons c m ih =>
    obtain ⟨a', b⟩ := c
    simp only [Memory.wfFrom, Bool.and_eq_true, decide_eq_true_eq] at h
    have hne : a' ≠ a := by omega
    simp only [memByte, hne, if_false]
    exact ih h.2 (by omega)

/-- The bound of a canonical list may be lowered. -/
theorem wfFrom_mono {m : List Host.Cell} {lo lo' : Nat} (h : Memory.wfFrom lo m = true) (hl : lo' ≤ lo) :
    Memory.wfFrom lo' m = true := by
  cases m with
  | nil => rfl
  | cons c m =>
    simp only [Memory.wfFrom, Bool.and_eq_true, decide_eq_true_eq] at h ⊢
    exact ⟨⟨by omega, h.1.2⟩, h.2⟩

theorem wfFrom_memPut {m : List Host.Cell} {lo a : Nat} {b : Byte} (h : Memory.wfFrom lo m = true)
    (ha : lo ≤ a) : Memory.wfFrom lo (memPut m a b) = true := by
  induction m generalizing lo with
  | nil => by_cases hb : b = Memory.blank <;> simp [memPut, Memory.wfFrom, hb, ha]
  | cons c m ih =>
    obtain ⟨a', b'⟩ := c
    simp only [Memory.wfFrom, Bool.and_eq_true, decide_eq_true_eq] at h
    obtain ⟨⟨h1, h2⟩, h3⟩ := h
    unfold memPut
    split
    · split
      · simp [Memory.wfFrom, h1, h2, h3]
      · rename_i hlt hb
        simp only [Memory.wfFrom, Bool.and_eq_true, decide_eq_true_eq, bne_iff_ne]
        exact ⟨⟨ha, hb⟩, ⟨⟨by omega, by simpa using h2⟩, h3⟩⟩
    · split
      · rename_i hlt heq
        subst heq
        split
        · exact wfFrom_mono h3 (by omega)
        · rename_i hb
          simp only [Memory.wfFrom, Bool.and_eq_true, decide_eq_true_eq, bne_iff_ne]
          exact ⟨⟨ha, hb⟩, h3⟩
      · simp only [Memory.wfFrom, Bool.and_eq_true, decide_eq_true_eq]
        exact ⟨⟨h1, h2⟩, ih h3 (by omega)⟩

/-- Writing a byte keeps the canonical form. -/
theorem wf_memPut {m : List Host.Cell} (h : Memory.wf m = true) (a : Nat) (b : Byte) :
    Memory.wf (memPut m a b) = true := wfFrom_memPut h (Nat.zero_le a)

theorem memByte_memPut_from {m : List Host.Cell} {lo : Nat} (h : Memory.wfFrom lo m = true) (a x : Nat)
    (b : Byte) : memByte (memPut m a b) x = if x = a then b else memByte m x := by
  induction m generalizing lo with
  | nil =>
    by_cases hb : b = Memory.blank <;> by_cases hx : a = x <;> simp [memPut, memByte, hb, hx, eq_comm]
  | cons c m ih =>
    obtain ⟨a', b'⟩ := c
    simp only [Memory.wfFrom, Bool.and_eq_true, decide_eq_true_eq] at h
    obtain ⟨⟨h1, h2⟩, h3⟩ := h
    have hlow : ∀ y, y < a' + 1 → memByte m y = Memory.blank := fun y hy => memByte_below h3 hy
    unfold memPut
    split
    · rename_i hlt
      by_cases hxa : x = a
      · subst hxa
        have hne : ¬ a' = x := by omega
        have hm : memByte m x = Memory.blank := hlow x (by omega)
        by_cases hb : b = Memory.blank <;> simp [memByte, hb, hne, hm]
      · have hne : ¬ a = x := fun e => hxa e.symm
        by_cases hb : b = Memory.blank <;> simp [memByte, hb, hne, hxa]
    · split
      · rename_i hlt heq
        subst heq
        by_cases hxa : x = a
        · subst hxa
          have hm : memByte m x = Memory.blank := hlow x (by omega)
          by_cases hb : b = Memory.blank <;> simp [memByte, hb, hm]
        · have hne : ¬ a = x := fun e => hxa e.symm
          by_cases hb : b = Memory.blank <;> simp [memByte, hb, hne, hxa]
      · rename_i hlt heq
        by_cases hx : a' = x
        · subst hx
          have hne : ¬ a' = a := fun e => heq e.symm
          simp [memByte, hne]
        · simp only [memByte, hx, if_false]
          exact ih h3

/-- What a byte reads after a byte is written. -/
theorem memByte_memPut {m : List Host.Cell} (h : Memory.wf m = true) (a x : Nat) (b : Byte) :
    memByte (memPut m a b) x = if x = a then b else memByte m x := memByte_memPut_from h a x b

/-! ### Several bytes -/

/-- Writing bytes keeps the canonical form. -/
theorem wf_memWrite {m : List Host.Cell} (h : Memory.wf m = true) (a : Nat) (l : List Byte) :
    Memory.wf (memWrite m a l) = true := by
  induction l generalizing m a with
  | nil => exact h
  | cons b l ih => exact ih (wf_memPut h a b) (a + 1)

/-- What a byte reads after bytes are written: the byte written to it, else what it read before. -/
theorem memByte_memWrite {m : List Host.Cell} (h : Memory.wf m = true) (a x : Nat) (l : List Byte) :
    memByte (memWrite m a l) x =
      if a ≤ x ∧ x < a + l.length then l.getD (x - a) Memory.blank else memByte m x := by
  induction l generalizing m a with
  | nil =>
    simp [memWrite]
  | cons b l ih =>
    rw [memWrite, ih (wf_memPut h a b), memByte_memPut h]
    by_cases hx : x = a
    · subst hx
      simp
    · by_cases hin : a + 1 ≤ x ∧ x < a + 1 + l.length
      · have h2 : a ≤ x ∧ x < a + (b :: l).length := by simp; omega
        have h3 : x - a = (x - (a + 1)) + 1 := by omega
        rw [if_pos hin, if_pos h2, h3, List.getD_cons_succ]
      · have h2 : ¬ (a ≤ x ∧ x < a + (b :: l).length) := by simp; omega
        rw [if_neg hin, if_neg h2, if_neg hx]

/-- A write leaves every byte outside its range. -/
theorem memByte_memWrite_of_outside {m : List Host.Cell} (h : Memory.wf m = true) {a x : Nat}
    {l : List Byte} (hx : x < a ∨ a + l.length ≤ x) : memByte (memWrite m a l) x = memByte m x := by
  rw [memByte_memWrite h, if_neg (by omega)]

@[simp] theorem memRead_length (m : List Host.Cell) (a n : Nat) : (memRead m a n).length = n := by
  induction n generalizing a with
  | zero => rfl
  | succ n ih => simp [memRead, ih]

/-- A read of the range just written gives what was written. -/
theorem memRead_memWrite {m : List Host.Cell} (h : Memory.wf m = true) (a : Nat) (l : List Byte) :
    memRead (memWrite m a l) a l.length = l := by
  induction l generalizing m a with
  | nil => rfl
  | cons b l ih =>
    have hb : memByte (memWrite m a (b :: l)) a = b := by
      rw [memByte_memWrite h]
      simp
    simp only [List.length_cons, memRead, hb]
    rw [memWrite, ih (wf_memPut h a b)]

/-- A read outside the range of a write gives what it gave before. -/
theorem memRead_memWrite_of_outside {m : List Host.Cell} (h : Memory.wf m = true) {a x n : Nat}
    {l : List Byte} (hx : x + n ≤ a ∨ a + l.length ≤ x) :
    memRead (memWrite m a l) x n = memRead m x n := by
  induction n generalizing x with
  | zero => rfl
  | succ n ih =>
    simp only [memRead]
    rw [memByte_memWrite_of_outside h (by omega), ih (by omega)]

end Sys2Proof.Machine
end

