-- ==== Sys2Proof/Laws/State.lean ====
section
/-! SUPPORT. What each update of the state leaves in each field, and what the tables of the state read as
after a change. -/

namespace Sys2Proof.Machine

/-! ### Tables -/

theorem look_change_same {α : Type} (k : Nat) (f : α → α) (t : Tbl α) : look k (change k f t) = (look k t).map f := by
  induction t with
  | nil => rfl
  | cons p t ih =>
    obtain ⟨j, v⟩ := p
    by_cases h : j = k
    · subst h; simp [change, look]
    · simp only [change, List.map_cons, h, if_false, look] at ih ⊢; exact ih

theorem look_change_other {α : Type} {j k : Nat} (h : j ≠ k) (f : α → α) (t : Tbl α) :
    look j (change k f t) = look j t := by
  induction t with
  | nil => rfl
  | cons p t ih =>
    obtain ⟨i, v⟩ := p
    by_cases hk : i = k
    · subst hk; simp only [change, List.map_cons, if_true, look, h.symm, if_false] at ih ⊢; exact ih
    · simp only [change, List.map_cons, hk, if_false, look] at ih ⊢; rw [ih]

@[simp] theorem look_change {α : Type} (j k : Nat) (f : α → α) (t : Tbl α) :
    look j (change k f t) = if j = k then (look k t).map f else look j t := by
  by_cases h : j = k
  · subst h; simp [look_change_same]
  · simp [look_change_other h, h]

@[simp] theorem look_put {α : Type} (j k : Nat) (v : α) (t : Tbl α) :
    look j (put k v t) = if j = k then some v else look j t := by
  induction t with
  | nil => by_cases h : j = k <;> simp [put, look, h, eq_comm]
  | cons p t ih =>
    obtain ⟨i, w⟩ := p
    simp only [put]
    split
    · by_cases h : j = k
      · subst h; simp [look]
      · simp [look, h, Ne.symm h]
    · split
      · rename_i h; subst h
        by_cases hj : j = k
        · subst hj; simp [look]
        · simp [look, hj, Ne.symm hj]
      · rename_i hne
        by_cases hi : i = j
        · subst hi; simp [look, Ne.symm hne]
        · simp only [look, hi, if_false, ih]

@[simp] theorem look_drop_same {α : Type} (k : Nat) (t : Tbl α) : look k (drop k t) = none := by
  induction t with
  | nil => rfl
  | cons p t ih =>
    obtain ⟨j, v⟩ := p
    by_cases h : j = k <;> simp_all [drop, look]

/-! ### `State.modThread` -/

@[simp] theorem modThread_agenda (s : State) (k : Nat) (f : Thread → Thread) : (s.modThread k f).agenda = s.agenda := rfl
@[simp] theorem modThread_issue (s : State) (k : Nat) (f : Thread → Thread) : (s.modThread k f).issue = s.issue := rfl
@[simp] theorem modThread_nextId (s : State) (k : Nat) (f : Thread → Thread) : (s.modThread k f).nextId = s.nextId := rfl
@[simp] theorem modThread_freeCtr (s : State) (k : Nat) (f : Thread → Thread) : (s.modThread k f).freeCtr = s.freeCtr := rfl
@[simp] theorem modThread_threads (s : State) (k : Nat) (f : Thread → Thread) : (s.modThread k f).threads = change k f s.threads := rfl
@[simp] theorem modThread_wgs (s : State) (k : Nat) (f : Thread → Thread) : (s.modThread k f).wgs = s.wgs := rfl
@[simp] theorem modThread_cohorts (s : State) (k : Nat) (f : Thread → Thread) : (s.modThread k f).cohorts = s.cohorts := rfl
@[simp] theorem modThread_cores (s : State) (k : Nat) (f : Thread → Thread) : (s.modThread k f).cores = s.cores := rfl
@[simp] theorem modThread_sections (s : State) (k : Nat) (f : Thread → Thread) : (s.modThread k f).sections = s.sections := rfl
@[simp] theorem modThread_slices (s : State) (k : Nat) (f : Thread → Thread) : (s.modThread k f).slices = s.slices := rfl
@[simp] theorem modThread_dies (s : State) (k : Nat) (f : Thread → Thread) : (s.modThread k f).dies = s.dies := rfl
@[simp] theorem modThread_ctxs (s : State) (k : Nat) (f : Thread → Thread) : (s.modThread k f).ctxs = s.ctxs := rfl
@[simp] theorem modThread_vfs (s : State) (k : Nat) (f : Thread → Thread) : (s.modThread k f).vfs = s.vfs := rfl
@[simp] theorem modThread_queues (s : State) (k : Nat) (f : Thread → Thread) : (s.modThread k f).queues = s.queues := rfl
@[simp] theorem modThread_foreman (s : State) (k : Nat) (f : Thread → Thread) : (s.modThread k f).foreman = s.foreman := rfl
@[simp] theorem modThread_launches (s : State) (k : Nat) (f : Thread → Thread) : (s.modThread k f).launches = s.launches := rfl
@[simp] theorem modThread_mem (s : State) (k : Nat) (f : Thread → Thread) : (s.modThread k f).mem = s.mem := rfl
@[simp] theorem modThread_lineCid (s : State) (k : Nat) (f : Thread → Thread) : (s.modThread k f).lineCid = s.lineCid := rfl
@[simp] theorem modThread_ops (s : State) (k : Nat) (f : Thread → Thread) : (s.modThread k f).ops = s.ops := rfl
@[simp] theorem modThread_net (s : State) (k : Nat) (f : Thread → Thread) : (s.modThread k f).net = s.net := rfl
@[simp] theorem modThread_inbound (s : State) (k : Nat) (f : Thread → Thread) : (s.modThread k f).inbound = s.inbound := rfl
@[simp] theorem modThread_flows (s : State) (k : Nat) (f : Thread → Thread) : (s.modThread k f).flows = s.flows := rfl
@[simp] theorem modThread_noticed (s : State) (k : Nat) (f : Thread → Thread) : (s.modThread k f).noticed = s.noticed := rfl
@[simp] theorem modThread_out (s : State) (k : Nat) (f : Thread → Thread) : (s.modThread k f).out = s.out := rfl
@[simp] theorem modThread_channels (s : State) (k : Nat) (f : Thread → Thread) : (s.modThread k f).channels = s.channels := rfl
@[simp] theorem modThread_health (s : State) (k : Nat) (f : Thread → Thread) : (s.modThread k f).health = s.health := rfl
@[simp] theorem modThread_loops (s : State) (k : Nat) (f : Thread → Thread) : (s.modThread k f).loops = s.loops := rfl
@[simp] theorem modThread_boot (s : State) (k : Nat) (f : Thread → Thread) : (s.modThread k f).boot = s.boot := rfl
@[simp] theorem modThread_spdm (s : State) (k : Nat) (f : Thread → Thread) : (s.modThread k f).spdm = s.spdm := rfl
@[simp] theorem modThread_firmware (s : State) (k : Nat) (f : Thread → Thread) : (s.modThread k f).firmware = s.firmware := rfl
@[simp] theorem modThread_rbAddr (s : State) (k : Nat) (f : Thread → Thread) : (s.modThread k f).rbAddr = s.rbAddr := rfl
@[simp] theorem modThread_rbPending (s : State) (k : Nat) (f : Thread → Thread) : (s.modThread k f).rbPending = s.rbPending := rfl
@[simp] theorem modThread_at_core (s : State) (k : Nat) (f : Thread → Thread) (n : Nat) : (s.modThread k f).core n = s.core n := rfl
@[simp] theorem modThread_at_sect (s : State) (k : Nat) (f : Thread → Thread) (n : Nat) : (s.modThread k f).sect n = s.sect n := rfl
@[simp] theorem modThread_at_slice (s : State) (k : Nat) (f : Thread → Thread) (n : Nat) : (s.modThread k f).slice n = s.slice n := rfl
@[simp] theorem modThread_at_die (s : State) (k : Nat) (f : Thread → Thread) (n : Nat) : (s.modThread k f).die n = s.die n := rfl
@[simp] theorem modThread_at_ctx (s : State) (k : Nat) (f : Thread → Thread) (n : Nat) : (s.modThread k f).ctx n = s.ctx n := rfl
@[simp] theorem modThread_at_vf (s : State) (k : Nat) (f : Thread → Thread) (n : Nat) : (s.modThread k f).vf n = s.vf n := rfl

/-! ### `State.modWg` -/

@[simp] theorem modWg_agenda (s : State) (k : Nat) (f : Workgroup → Workgroup) : (s.modWg k f).agenda = s.agenda := rfl
@[simp] theorem modWg_issue (s : State) (k : Nat) (f : Workgroup → Workgroup) : (s.modWg k f).issue = s.issue := rfl
@[simp] theorem modWg_nextId (s : State) (k : Nat) (f : Workgroup → Workgroup) : (s.modWg k f).nextId = s.nextId := rfl
@[simp] theorem modWg_freeCtr (s : State) (k : Nat) (f : Workgroup → Workgroup) : (s.modWg k f).freeCtr = s.freeCtr := rfl
@[simp] theorem modWg_threads (s : State) (k : Nat) (f : Workgroup → Workgroup) : (s.modWg k f).threads = s.threads := rfl
@[simp] theorem modWg_wgs (s : State) (k : Nat) (f : Workgroup → Workgroup) : (s.modWg k f).wgs = change k f s.wgs := rfl
@[simp] theorem modWg_cohorts (s : State) (k : Nat) (f : Workgroup → Workgroup) : (s.modWg k f).cohorts = s.cohorts := rfl
@[simp] theorem modWg_cores (s : State) (k : Nat) (f : Workgroup → Workgroup) : (s.modWg k f).cores = s.cores := rfl
@[simp] theorem modWg_sections (s : State) (k : Nat) (f : Workgroup → Workgroup) : (s.modWg k f).sections = s.sections := rfl
@[simp] theorem modWg_slices (s : State) (k : Nat) (f : Workgroup → Workgroup) : (s.modWg k f).slices = s.slices := rfl
@[simp] theorem modWg_dies (s : State) (k : Nat) (f : Workgroup → Workgroup) : (s.modWg k f).dies = s.dies := rfl
@[simp] theorem modWg_ctxs (s : State) (k : Nat) (f : Workgroup → Workgroup) : (s.modWg k f).ctxs = s.ctxs := rfl
@[simp] theorem modWg_vfs (s : State) (k : Nat) (f : Workgroup → Workgroup) : (s.modWg k f).vfs = s.vfs := rfl
@[simp] theorem modWg_queues (s : State) (k : Nat) (f : Workgroup → Workgroup) : (s.modWg k f).queues = s.queues := rfl
@[simp] theorem modWg_foreman (s : State) (k : Nat) (f : Workgroup → Workgroup) : (s.modWg k f).foreman = s.foreman := rfl
@[simp] theorem modWg_launches (s : State) (k : Nat) (f : Workgroup → Workgroup) : (s.modWg k f).launches = s.launches := rfl
@[simp] theorem modWg_mem (s : State) (k : Nat) (f : Workgroup → Workgroup) : (s.modWg k f).mem = s.mem := rfl
@[simp] theorem modWg_lineCid (s : State) (k : Nat) (f : Workgroup → Workgroup) : (s.modWg k f).lineCid = s.lineCid := rfl
@[simp] theorem modWg_ops (s : State) (k : Nat) (f : Workgroup → Workgroup) : (s.modWg k f).ops = s.ops := rfl
@[simp] theorem modWg_net (s : State) (k : Nat) (f : Workgroup → Workgroup) : (s.modWg k f).net = s.net := rfl
@[simp] theorem modWg_inbound (s : State) (k : Nat) (f : Workgroup → Workgroup) : (s.modWg k f).inbound = s.inbound := rfl
@[simp] theorem modWg_flows (s : State) (k : Nat) (f : Workgroup → Workgroup) : (s.modWg k f).flows = s.flows := rfl
@[simp] theorem modWg_noticed (s : State) (k : Nat) (f : Workgroup → Workgroup) : (s.modWg k f).noticed = s.noticed := rfl
@[simp] theorem modWg_out (s : State) (k : Nat) (f : Workgroup → Workgroup) : (s.modWg k f).out = s.out := rfl
@[simp] theorem modWg_channels (s : State) (k : Nat) (f : Workgroup → Workgroup) : (s.modWg k f).channels = s.channels := rfl
@[simp] theorem modWg_health (s : State) (k : Nat) (f : Workgroup → Workgroup) : (s.modWg k f).health = s.health := rfl
@[simp] theorem modWg_loops (s : State) (k : Nat) (f : Workgroup → Workgroup) : (s.modWg k f).loops = s.loops := rfl
@[simp] theorem modWg_boot (s : State) (k : Nat) (f : Workgroup → Workgroup) : (s.modWg k f).boot = s.boot := rfl
@[simp] theorem modWg_spdm (s : State) (k : Nat) (f : Workgroup → Workgroup) : (s.modWg k f).spdm = s.spdm := rfl
@[simp] theorem modWg_firmware (s : State) (k : Nat) (f : Workgroup → Workgroup) : (s.modWg k f).firmware = s.firmware := rfl
@[simp] theorem modWg_rbAddr (s : State) (k : Nat) (f : Workgroup → Workgroup) : (s.modWg k f).rbAddr = s.rbAddr := rfl
@[simp] theorem modWg_rbPending (s : State) (k : Nat) (f : Workgroup → Workgroup) : (s.modWg k f).rbPending = s.rbPending := rfl
@[simp] theorem modWg_at_core (s : State) (k : Nat) (f : Workgroup → Workgroup) (n : Nat) : (s.modWg k f).core n = s.core n := rfl
@[simp] theorem modWg_at_sect (s : State) (k : Nat) (f : Workgroup → Workgroup) (n : Nat) : (s.modWg k f).sect n = s.sect n := rfl
@[simp] theorem modWg_at_slice (s : State) (k : Nat) (f : Workgroup → Workgroup) (n : Nat) : (s.modWg k f).slice n = s.slice n := rfl
@[simp] theorem modWg_at_die (s : State) (k : Nat) (f : Workgroup → Workgroup) (n : Nat) : (s.modWg k f).die n = s.die n := rfl
@[simp] theorem modWg_at_ctx (s : State) (k : Nat) (f : Workgroup → Workgroup) (n : Nat) : (s.modWg k f).ctx n = s.ctx n := rfl
@[simp] theorem modWg_at_vf (s : State) (k : Nat) (f : Workgroup → Workgroup) (n : Nat) : (s.modWg k f).vf n = s.vf n := rfl

/-! ### `State.modCohort` -/

@[simp] theorem modCohort_agenda (s : State) (k : Nat) (f : Cohort → Cohort) : (s.modCohort k f).agenda = s.agenda := rfl
@[simp] theorem modCohort_issue (s : State) (k : Nat) (f : Cohort → Cohort) : (s.modCohort k f).issue = s.issue := rfl
@[simp] theorem modCohort_nextId (s : State) (k : Nat) (f : Cohort → Cohort) : (s.modCohort k f).nextId = s.nextId := rfl
@[simp] theorem modCohort_freeCtr (s : State) (k : Nat) (f : Cohort → Cohort) : (s.modCohort k f).freeCtr = s.freeCtr := rfl
@[simp] theorem modCohort_threads (s : State) (k : Nat) (f : Cohort → Cohort) : (s.modCohort k f).threads = s.threads := rfl
@[simp] theorem modCohort_wgs (s : State) (k : Nat) (f : Cohort → Cohort) : (s.modCohort k f).wgs = s.wgs := rfl
@[simp] theorem modCohort_cohorts (s : State) (k : Nat) (f : Cohort → Cohort) : (s.modCohort k f).cohorts = change k f s.cohorts := rfl
@[simp] theorem modCohort_cores (s : State) (k : Nat) (f : Cohort → Cohort) : (s.modCohort k f).cores = s.cores := rfl
@[simp] theorem modCohort_sections (s : State) (k : Nat) (f : Cohort → Cohort) : (s.modCohort k f).sections = s.sections := rfl
@[simp] theorem modCohort_slices (s : State) (k : Nat) (f : Cohort → Cohort) : (s.modCohort k f).slices = s.slices := rfl
@[simp] theorem modCohort_dies (s : State) (k : Nat) (f : Cohort → Cohort) : (s.modCohort k f).dies = s.dies := rfl
@[simp] theorem modCohort_ctxs (s : State) (k : Nat) (f : Cohort → Cohort) : (s.modCohort k f).ctxs = s.ctxs := rfl
@[simp] theorem modCohort_vfs (s : State) (k : Nat) (f : Cohort → Cohort) : (s.modCohort k f).vfs = s.vfs := rfl
@[simp] theorem modCohort_queues (s : State) (k : Nat) (f : Cohort → Cohort) : (s.modCohort k f).queues = s.queues := rfl
@[simp] theorem modCohort_foreman (s : State) (k : Nat) (f : Cohort → Cohort) : (s.modCohort k f).foreman = s.foreman := rfl
@[simp] theorem modCohort_launches (s : State) (k : Nat) (f : Cohort → Cohort) : (s.modCohort k f).launches = s.launches := rfl
@[simp] theorem modCohort_mem (s : State) (k : Nat) (f : Cohort → Cohort) : (s.modCohort k f).mem = s.mem := rfl
@[simp] theorem modCohort_lineCid (s : State) (k : Nat) (f : Cohort → Cohort) : (s.modCohort k f).lineCid = s.lineCid := rfl
@[simp] theorem modCohort_ops (s : State) (k : Nat) (f : Cohort → Cohort) : (s.modCohort k f).ops = s.ops := rfl
@[simp] theorem modCohort_net (s : State) (k : Nat) (f : Cohort → Cohort) : (s.modCohort k f).net = s.net := rfl
@[simp] theorem modCohort_inbound (s : State) (k : Nat) (f : Cohort → Cohort) : (s.modCohort k f).inbound = s.inbound := rfl
@[simp] theorem modCohort_flows (s : State) (k : Nat) (f : Cohort → Cohort) : (s.modCohort k f).flows = s.flows := rfl
@[simp] theorem modCohort_noticed (s : State) (k : Nat) (f : Cohort → Cohort) : (s.modCohort k f).noticed = s.noticed := rfl
@[simp] theorem modCohort_out (s : State) (k : Nat) (f : Cohort → Cohort) : (s.modCohort k f).out = s.out := rfl
@[simp] theorem modCohort_channels (s : State) (k : Nat) (f : Cohort → Cohort) : (s.modCohort k f).channels = s.channels := rfl
@[simp] theorem modCohort_health (s : State) (k : Nat) (f : Cohort → Cohort) : (s.modCohort k f).health = s.health := rfl
@[simp] theorem modCohort_loops (s : State) (k : Nat) (f : Cohort → Cohort) : (s.modCohort k f).loops = s.loops := rfl
@[simp] theorem modCohort_boot (s : State) (k : Nat) (f : Cohort → Cohort) : (s.modCohort k f).boot = s.boot := rfl
@[simp] theorem modCohort_spdm (s : State) (k : Nat) (f : Cohort → Cohort) : (s.modCohort k f).spdm = s.spdm := rfl
@[simp] theorem modCohort_firmware (s : State) (k : Nat) (f : Cohort → Cohort) : (s.modCohort k f).firmware = s.firmware := rfl
@[simp] theorem modCohort_rbAddr (s : State) (k : Nat) (f : Cohort → Cohort) : (s.modCohort k f).rbAddr = s.rbAddr := rfl
@[simp] theorem modCohort_rbPending (s : State) (k : Nat) (f : Cohort → Cohort) : (s.modCohort k f).rbPending = s.rbPending := rfl
@[simp] theorem modCohort_at_core (s : State) (k : Nat) (f : Cohort → Cohort) (n : Nat) : (s.modCohort k f).core n = s.core n := rfl
@[simp] theorem modCohort_at_sect (s : State) (k : Nat) (f : Cohort → Cohort) (n : Nat) : (s.modCohort k f).sect n = s.sect n := rfl
@[simp] theorem modCohort_at_slice (s : State) (k : Nat) (f : Cohort → Cohort) (n : Nat) : (s.modCohort k f).slice n = s.slice n := rfl
@[simp] theorem modCohort_at_die (s : State) (k : Nat) (f : Cohort → Cohort) (n : Nat) : (s.modCohort k f).die n = s.die n := rfl
@[simp] theorem modCohort_at_ctx (s : State) (k : Nat) (f : Cohort → Cohort) (n : Nat) : (s.modCohort k f).ctx n = s.ctx n := rfl
@[simp] theorem modCohort_at_vf (s : State) (k : Nat) (f : Cohort → Cohort) (n : Nat) : (s.modCohort k f).vf n = s.vf n := rfl

/-! ### `State.modQueue` -/

@[simp] theorem modQueue_agenda (s : State) (k : Nat) (f : Queue → Queue) : (s.modQueue k f).agenda = s.agenda := rfl
@[simp] theorem modQueue_issue (s : State) (k : Nat) (f : Queue → Queue) : (s.modQueue k f).issue = s.issue := rfl
@[simp] theorem modQueue_nextId (s : State) (k : Nat) (f : Queue → Queue) : (s.modQueue k f).nextId = s.nextId := rfl
@[simp] theorem modQueue_freeCtr (s : State) (k : Nat) (f : Queue → Queue) : (s.modQueue k f).freeCtr = s.freeCtr := rfl
@[simp] theorem modQueue_threads (s : State) (k : Nat) (f : Queue → Queue) : (s.modQueue k f).threads = s.threads := rfl
@[simp] theorem modQueue_wgs (s : State) (k : Nat) (f : Queue → Queue) : (s.modQueue k f).wgs = s.wgs := rfl
@[simp] theorem modQueue_cohorts (s : State) (k : Nat) (f : Queue → Queue) : (s.modQueue k f).cohorts = s.cohorts := rfl
@[simp] theorem modQueue_cores (s : State) (k : Nat) (f : Queue → Queue) : (s.modQueue k f).cores = s.cores := rfl
@[simp] theorem modQueue_sections (s : State) (k : Nat) (f : Queue → Queue) : (s.modQueue k f).sections = s.sections := rfl
@[simp] theorem modQueue_slices (s : State) (k : Nat) (f : Queue → Queue) : (s.modQueue k f).slices = s.slices := rfl
@[simp] theorem modQueue_dies (s : State) (k : Nat) (f : Queue → Queue) : (s.modQueue k f).dies = s.dies := rfl
@[simp] theorem modQueue_ctxs (s : State) (k : Nat) (f : Queue → Queue) : (s.modQueue k f).ctxs = s.ctxs := rfl
@[simp] theorem modQueue_vfs (s : State) (k : Nat) (f : Queue → Queue) : (s.modQueue k f).vfs = s.vfs := rfl
@[simp] theorem modQueue_queues (s : State) (k : Nat) (f : Queue → Queue) : (s.modQueue k f).queues = change k f s.queues := rfl
@[simp] theorem modQueue_foreman (s : State) (k : Nat) (f : Queue → Queue) : (s.modQueue k f).foreman = s.foreman := rfl
@[simp] theorem modQueue_launches (s : State) (k : Nat) (f : Queue → Queue) : (s.modQueue k f).launches = s.launches := rfl
@[simp] theorem modQueue_mem (s : State) (k : Nat) (f : Queue → Queue) : (s.modQueue k f).mem = s.mem := rfl
@[simp] theorem modQueue_lineCid (s : State) (k : Nat) (f : Queue → Queue) : (s.modQueue k f).lineCid = s.lineCid := rfl
@[simp] theorem modQueue_ops (s : State) (k : Nat) (f : Queue → Queue) : (s.modQueue k f).ops = s.ops := rfl
@[simp] theorem modQueue_net (s : State) (k : Nat) (f : Queue → Queue) : (s.modQueue k f).net = s.net := rfl
@[simp] theorem modQueue_inbound (s : State) (k : Nat) (f : Queue → Queue) : (s.modQueue k f).inbound = s.inbound := rfl
@[simp] theorem modQueue_flows (s : State) (k : Nat) (f : Queue → Queue) : (s.modQueue k f).flows = s.flows := rfl
@[simp] theorem modQueue_noticed (s : State) (k : Nat) (f : Queue → Queue) : (s.modQueue k f).noticed = s.noticed := rfl
@[simp] theorem modQueue_out (s : State) (k : Nat) (f : Queue → Queue) : (s.modQueue k f).out = s.out := rfl
@[simp] theorem modQueue_channels (s : State) (k : Nat) (f : Queue → Queue) : (s.modQueue k f).channels = s.channels := rfl
@[simp] theorem modQueue_health (s : State) (k : Nat) (f : Queue → Queue) : (s.modQueue k f).health = s.health := rfl
@[simp] theorem modQueue_loops (s : State) (k : Nat) (f : Queue → Queue) : (s.modQueue k f).loops = s.loops := rfl
@[simp] theorem modQueue_boot (s : State) (k : Nat) (f : Queue → Queue) : (s.modQueue k f).boot = s.boot := rfl
@[simp] theorem modQueue_spdm (s : State) (k : Nat) (f : Queue → Queue) : (s.modQueue k f).spdm = s.spdm := rfl
@[simp] theorem modQueue_firmware (s : State) (k : Nat) (f : Queue → Queue) : (s.modQueue k f).firmware = s.firmware := rfl
@[simp] theorem modQueue_rbAddr (s : State) (k : Nat) (f : Queue → Queue) : (s.modQueue k f).rbAddr = s.rbAddr := rfl
@[simp] theorem modQueue_rbPending (s : State) (k : Nat) (f : Queue → Queue) : (s.modQueue k f).rbPending = s.rbPending := rfl
@[simp] theorem modQueue_at_core (s : State) (k : Nat) (f : Queue → Queue) (n : Nat) : (s.modQueue k f).core n = s.core n := rfl
@[simp] theorem modQueue_at_sect (s : State) (k : Nat) (f : Queue → Queue) (n : Nat) : (s.modQueue k f).sect n = s.sect n := rfl
@[simp] theorem modQueue_at_slice (s : State) (k : Nat) (f : Queue → Queue) (n : Nat) : (s.modQueue k f).slice n = s.slice n := rfl
@[simp] theorem modQueue_at_die (s : State) (k : Nat) (f : Queue → Queue) (n : Nat) : (s.modQueue k f).die n = s.die n := rfl
@[simp] theorem modQueue_at_ctx (s : State) (k : Nat) (f : Queue → Queue) (n : Nat) : (s.modQueue k f).ctx n = s.ctx n := rfl
@[simp] theorem modQueue_at_vf (s : State) (k : Nat) (f : Queue → Queue) (n : Nat) : (s.modQueue k f).vf n = s.vf n := rfl

/-! ### `State.modLaunch` -/

@[simp] theorem modLaunch_agenda (s : State) (k : Nat) (f : Launch → Launch) : (s.modLaunch k f).agenda = s.agenda := rfl
@[simp] theorem modLaunch_issue (s : State) (k : Nat) (f : Launch → Launch) : (s.modLaunch k f).issue = s.issue := rfl
@[simp] theorem modLaunch_nextId (s : State) (k : Nat) (f : Launch → Launch) : (s.modLaunch k f).nextId = s.nextId := rfl
@[simp] theorem modLaunch_freeCtr (s : State) (k : Nat) (f : Launch → Launch) : (s.modLaunch k f).freeCtr = s.freeCtr := rfl
@[simp] theorem modLaunch_threads (s : State) (k : Nat) (f : Launch → Launch) : (s.modLaunch k f).threads = s.threads := rfl
@[simp] theorem modLaunch_wgs (s : State) (k : Nat) (f : Launch → Launch) : (s.modLaunch k f).wgs = s.wgs := rfl
@[simp] theorem modLaunch_cohorts (s : State) (k : Nat) (f : Launch → Launch) : (s.modLaunch k f).cohorts = s.cohorts := rfl
@[simp] theorem modLaunch_cores (s : State) (k : Nat) (f : Launch → Launch) : (s.modLaunch k f).cores = s.cores := rfl
@[simp] theorem modLaunch_sections (s : State) (k : Nat) (f : Launch → Launch) : (s.modLaunch k f).sections = s.sections := rfl
@[simp] theorem modLaunch_slices (s : State) (k : Nat) (f : Launch → Launch) : (s.modLaunch k f).slices = s.slices := rfl
@[simp] theorem modLaunch_dies (s : State) (k : Nat) (f : Launch → Launch) : (s.modLaunch k f).dies = s.dies := rfl
@[simp] theorem modLaunch_ctxs (s : State) (k : Nat) (f : Launch → Launch) : (s.modLaunch k f).ctxs = s.ctxs := rfl
@[simp] theorem modLaunch_vfs (s : State) (k : Nat) (f : Launch → Launch) : (s.modLaunch k f).vfs = s.vfs := rfl
@[simp] theorem modLaunch_queues (s : State) (k : Nat) (f : Launch → Launch) : (s.modLaunch k f).queues = s.queues := rfl
@[simp] theorem modLaunch_foreman (s : State) (k : Nat) (f : Launch → Launch) : (s.modLaunch k f).foreman = s.foreman := rfl
@[simp] theorem modLaunch_launches (s : State) (k : Nat) (f : Launch → Launch) : (s.modLaunch k f).launches = change k f s.launches := rfl
@[simp] theorem modLaunch_mem (s : State) (k : Nat) (f : Launch → Launch) : (s.modLaunch k f).mem = s.mem := rfl
@[simp] theorem modLaunch_lineCid (s : State) (k : Nat) (f : Launch → Launch) : (s.modLaunch k f).lineCid = s.lineCid := rfl
@[simp] theorem modLaunch_ops (s : State) (k : Nat) (f : Launch → Launch) : (s.modLaunch k f).ops = s.ops := rfl
@[simp] theorem modLaunch_net (s : State) (k : Nat) (f : Launch → Launch) : (s.modLaunch k f).net = s.net := rfl
@[simp] theorem modLaunch_inbound (s : State) (k : Nat) (f : Launch → Launch) : (s.modLaunch k f).inbound = s.inbound := rfl
@[simp] theorem modLaunch_flows (s : State) (k : Nat) (f : Launch → Launch) : (s.modLaunch k f).flows = s.flows := rfl
@[simp] theorem modLaunch_noticed (s : State) (k : Nat) (f : Launch → Launch) : (s.modLaunch k f).noticed = s.noticed := rfl
@[simp] theorem modLaunch_out (s : State) (k : Nat) (f : Launch → Launch) : (s.modLaunch k f).out = s.out := rfl
@[simp] theorem modLaunch_channels (s : State) (k : Nat) (f : Launch → Launch) : (s.modLaunch k f).channels = s.channels := rfl
@[simp] theorem modLaunch_health (s : State) (k : Nat) (f : Launch → Launch) : (s.modLaunch k f).health = s.health := rfl
@[simp] theorem modLaunch_loops (s : State) (k : Nat) (f : Launch → Launch) : (s.modLaunch k f).loops = s.loops := rfl
@[simp] theorem modLaunch_boot (s : State) (k : Nat) (f : Launch → Launch) : (s.modLaunch k f).boot = s.boot := rfl
@[simp] theorem modLaunch_spdm (s : State) (k : Nat) (f : Launch → Launch) : (s.modLaunch k f).spdm = s.spdm := rfl
@[simp] theorem modLaunch_firmware (s : State) (k : Nat) (f : Launch → Launch) : (s.modLaunch k f).firmware = s.firmware := rfl
@[simp] theorem modLaunch_rbAddr (s : State) (k : Nat) (f : Launch → Launch) : (s.modLaunch k f).rbAddr = s.rbAddr := rfl
@[simp] theorem modLaunch_rbPending (s : State) (k : Nat) (f : Launch → Launch) : (s.modLaunch k f).rbPending = s.rbPending := rfl
@[simp] theorem modLaunch_at_core (s : State) (k : Nat) (f : Launch → Launch) (n : Nat) : (s.modLaunch k f).core n = s.core n := rfl
@[simp] theorem modLaunch_at_sect (s : State) (k : Nat) (f : Launch → Launch) (n : Nat) : (s.modLaunch k f).sect n = s.sect n := rfl
@[simp] theorem modLaunch_at_slice (s : State) (k : Nat) (f : Launch → Launch) (n : Nat) : (s.modLaunch k f).slice n = s.slice n := rfl
@[simp] theorem modLaunch_at_die (s : State) (k : Nat) (f : Launch → Launch) (n : Nat) : (s.modLaunch k f).die n = s.die n := rfl
@[simp] theorem modLaunch_at_ctx (s : State) (k : Nat) (f : Launch → Launch) (n : Nat) : (s.modLaunch k f).ctx n = s.ctx n := rfl
@[simp] theorem modLaunch_at_vf (s : State) (k : Nat) (f : Launch → Launch) (n : Nat) : (s.modLaunch k f).vf n = s.vf n := rfl

/-! ### `State.setCore` -/

@[simp] theorem setCore_agenda (s : State) (k : Nat) (v : Core) : (s.setCore k v).agenda = s.agenda := rfl
@[simp] theorem setCore_issue (s : State) (k : Nat) (v : Core) : (s.setCore k v).issue = s.issue := rfl
@[simp] theorem setCore_nextId (s : State) (k : Nat) (v : Core) : (s.setCore k v).nextId = s.nextId := rfl
@[simp] theorem setCore_freeCtr (s : State) (k : Nat) (v : Core) : (s.setCore k v).freeCtr = s.freeCtr := rfl
@[simp] theorem setCore_threads (s : State) (k : Nat) (v : Core) : (s.setCore k v).threads = s.threads := rfl
@[simp] theorem setCore_wgs (s : State) (k : Nat) (v : Core) : (s.setCore k v).wgs = s.wgs := rfl
@[simp] theorem setCore_cohorts (s : State) (k : Nat) (v : Core) : (s.setCore k v).cohorts = s.cohorts := rfl
@[simp] theorem setCore_cores (s : State) (k : Nat) (v : Core) : (s.setCore k v).cores = put k v s.cores := rfl
@[simp] theorem setCore_sections (s : State) (k : Nat) (v : Core) : (s.setCore k v).sections = s.sections := rfl
@[simp] theorem setCore_slices (s : State) (k : Nat) (v : Core) : (s.setCore k v).slices = s.slices := rfl
@[simp] theorem setCore_dies (s : State) (k : Nat) (v : Core) : (s.setCore k v).dies = s.dies := rfl
@[simp] theorem setCore_ctxs (s : State) (k : Nat) (v : Core) : (s.setCore k v).ctxs = s.ctxs := rfl
@[simp] theorem setCore_vfs (s : State) (k : Nat) (v : Core) : (s.setCore k v).vfs = s.vfs := rfl
@[simp] theorem setCore_queues (s : State) (k : Nat) (v : Core) : (s.setCore k v).queues = s.queues := rfl
@[simp] theorem setCore_foreman (s : State) (k : Nat) (v : Core) : (s.setCore k v).foreman = s.foreman := rfl
@[simp] theorem setCore_launches (s : State) (k : Nat) (v : Core) : (s.setCore k v).launches = s.launches := rfl
@[simp] theorem setCore_mem (s : State) (k : Nat) (v : Core) : (s.setCore k v).mem = s.mem := rfl
@[simp] theorem setCore_lineCid (s : State) (k : Nat) (v : Core) : (s.setCore k v).lineCid = s.lineCid := rfl
@[simp] theorem setCore_ops (s : State) (k : Nat) (v : Core) : (s.setCore k v).ops = s.ops := rfl
@[simp] theorem setCore_net (s : State) (k : Nat) (v : Core) : (s.setCore k v).net = s.net := rfl
@[simp] theorem setCore_inbound (s : State) (k : Nat) (v : Core) : (s.setCore k v).inbound = s.inbound := rfl
@[simp] theorem setCore_flows (s : State) (k : Nat) (v : Core) : (s.setCore k v).flows = s.flows := rfl
@[simp] theorem setCore_noticed (s : State) (k : Nat) (v : Core) : (s.setCore k v).noticed = s.noticed := rfl
@[simp] theorem setCore_out (s : State) (k : Nat) (v : Core) : (s.setCore k v).out = s.out := rfl
@[simp] theorem setCore_channels (s : State) (k : Nat) (v : Core) : (s.setCore k v).channels = s.channels := rfl
@[simp] theorem setCore_health (s : State) (k : Nat) (v : Core) : (s.setCore k v).health = s.health := rfl
@[simp] theorem setCore_loops (s : State) (k : Nat) (v : Core) : (s.setCore k v).loops = s.loops := rfl
@[simp] theorem setCore_boot (s : State) (k : Nat) (v : Core) : (s.setCore k v).boot = s.boot := rfl
@[simp] theorem setCore_spdm (s : State) (k : Nat) (v : Core) : (s.setCore k v).spdm = s.spdm := rfl
@[simp] theorem setCore_firmware (s : State) (k : Nat) (v : Core) : (s.setCore k v).firmware = s.firmware := rfl
@[simp] theorem setCore_rbAddr (s : State) (k : Nat) (v : Core) : (s.setCore k v).rbAddr = s.rbAddr := rfl
@[simp] theorem setCore_rbPending (s : State) (k : Nat) (v : Core) : (s.setCore k v).rbPending = s.rbPending := rfl
@[simp] theorem setCore_at_sect (s : State) (k : Nat) (v : Core) (n : Nat) : (s.setCore k v).sect n = s.sect n := rfl
@[simp] theorem setCore_at_slice (s : State) (k : Nat) (v : Core) (n : Nat) : (s.setCore k v).slice n = s.slice n := rfl
@[simp] theorem setCore_at_die (s : State) (k : Nat) (v : Core) (n : Nat) : (s.setCore k v).die n = s.die n := rfl
@[simp] theorem setCore_at_ctx (s : State) (k : Nat) (v : Core) (n : Nat) : (s.setCore k v).ctx n = s.ctx n := rfl
@[simp] theorem setCore_at_vf (s : State) (k : Nat) (v : Core) (n : Nat) : (s.setCore k v).vf n = s.vf n := rfl

/-! ### `State.modCore` -/

@[simp] theorem modCore_agenda (s : State) (k : Nat) (f : Core → Core) : (s.modCore k f).agenda = s.agenda := rfl
@[simp] theorem modCore_issue (s : State) (k : Nat) (f : Core → Core) : (s.modCore k f).issue = s.issue := rfl
@[simp] theorem modCore_nextId (s : State) (k : Nat) (f : Core → Core) : (s.modCore k f).nextId = s.nextId := rfl
@[simp] theorem modCore_freeCtr (s : State) (k : Nat) (f : Core → Core) : (s.modCore k f).freeCtr = s.freeCtr := rfl
@[simp] theorem modCore_threads (s : State) (k : Nat) (f : Core → Core) : (s.modCore k f).threads = s.threads := rfl
@[simp] theorem modCore_wgs (s : State) (k : Nat) (f : Core → Core) : (s.modCore k f).wgs = s.wgs := rfl
@[simp] theorem modCore_cohorts (s : State) (k : Nat) (f : Core → Core) : (s.modCore k f).cohorts = s.cohorts := rfl
@[simp] theorem modCore_cores (s : State) (k : Nat) (f : Core → Core) : (s.modCore k f).cores = put k (f (s.core k)) s.cores := rfl
@[simp] theorem modCore_sections (s : State) (k : Nat) (f : Core → Core) : (s.modCore k f).sections = s.sections := rfl
@[simp] theorem modCore_slices (s : State) (k : Nat) (f : Core → Core) : (s.modCore k f).slices = s.slices := rfl
@[simp] theorem modCore_dies (s : State) (k : Nat) (f : Core → Core) : (s.modCore k f).dies = s.dies := rfl
@[simp] theorem modCore_ctxs (s : State) (k : Nat) (f : Core → Core) : (s.modCore k f).ctxs = s.ctxs := rfl
@[simp] theorem modCore_vfs (s : State) (k : Nat) (f : Core → Core) : (s.modCore k f).vfs = s.vfs := rfl
@[simp] theorem modCore_queues (s : State) (k : Nat) (f : Core → Core) : (s.modCore k f).queues = s.queues := rfl
@[simp] theorem modCore_foreman (s : State) (k : Nat) (f : Core → Core) : (s.modCore k f).foreman = s.foreman := rfl
@[simp] theorem modCore_launches (s : State) (k : Nat) (f : Core → Core) : (s.modCore k f).launches = s.launches := rfl
@[simp] theorem modCore_mem (s : State) (k : Nat) (f : Core → Core) : (s.modCore k f).mem = s.mem := rfl
@[simp] theorem modCore_lineCid (s : State) (k : Nat) (f : Core → Core) : (s.modCore k f).lineCid = s.lineCid := rfl
@[simp] theorem modCore_ops (s : State) (k : Nat) (f : Core → Core) : (s.modCore k f).ops = s.ops := rfl
@[simp] theorem modCore_net (s : State) (k : Nat) (f : Core → Core) : (s.modCore k f).net = s.net := rfl
@[simp] theorem modCore_inbound (s : State) (k : Nat) (f : Core → Core) : (s.modCore k f).inbound = s.inbound := rfl
@[simp] theorem modCore_flows (s : State) (k : Nat) (f : Core → Core) : (s.modCore k f).flows = s.flows := rfl
@[simp] theorem modCore_noticed (s : State) (k : Nat) (f : Core → Core) : (s.modCore k f).noticed = s.noticed := rfl
@[simp] theorem modCore_out (s : State) (k : Nat) (f : Core → Core) : (s.modCore k f).out = s.out := rfl
@[simp] theorem modCore_channels (s : State) (k : Nat) (f : Core → Core) : (s.modCore k f).channels = s.channels := rfl
@[simp] theorem modCore_health (s : State) (k : Nat) (f : Core → Core) : (s.modCore k f).health = s.health := rfl
@[simp] theorem modCore_loops (s : State) (k : Nat) (f : Core → Core) : (s.modCore k f).loops = s.loops := rfl
@[simp] theorem modCore_boot (s : State) (k : Nat) (f : Core → Core) : (s.modCore k f).boot = s.boot := rfl
@[simp] theorem modCore_spdm (s : State) (k : Nat) (f : Core → Core) : (s.modCore k f).spdm = s.spdm := rfl
@[simp] theorem modCore_firmware (s : State) (k : Nat) (f : Core → Core) : (s.modCore k f).firmware = s.firmware := rfl
@[simp] theorem modCore_rbAddr (s : State) (k : Nat) (f : Core → Core) : (s.modCore k f).rbAddr = s.rbAddr := rfl
@[simp] theorem modCore_rbPending (s : State) (k : Nat) (f : Core → Core) : (s.modCore k f).rbPending = s.rbPending := rfl
@[simp] theorem modCore_at_sect (s : State) (k : Nat) (f : Core → Core) (n : Nat) : (s.modCore k f).sect n = s.sect n := rfl
@[simp] theorem modCore_at_slice (s : State) (k : Nat) (f : Core → Core) (n : Nat) : (s.modCore k f).slice n = s.slice n := rfl
@[simp] theorem modCore_at_die (s : State) (k : Nat) (f : Core → Core) (n : Nat) : (s.modCore k f).die n = s.die n := rfl
@[simp] theorem modCore_at_ctx (s : State) (k : Nat) (f : Core → Core) (n : Nat) : (s.modCore k f).ctx n = s.ctx n := rfl
@[simp] theorem modCore_at_vf (s : State) (k : Nat) (f : Core → Core) (n : Nat) : (s.modCore k f).vf n = s.vf n := rfl

/-! ### `State.setSect` -/

@[simp] theorem setSect_agenda (s : State) (k : Nat) (v : Section) : (s.setSect k v).agenda = s.agenda := rfl
@[simp] theorem setSect_issue (s : State) (k : Nat) (v : Section) : (s.setSect k v).issue = s.issue := rfl
@[simp] theorem setSect_nextId (s : State) (k : Nat) (v : Section) : (s.setSect k v).nextId = s.nextId := rfl
@[simp] theorem setSect_freeCtr (s : State) (k : Nat) (v : Section) : (s.setSect k v).freeCtr = s.freeCtr := rfl
@[simp] theorem setSect_threads (s : State) (k : Nat) (v : Section) : (s.setSect k v).threads = s.threads := rfl
@[simp] theorem setSect_wgs (s : State) (k : Nat) (v : Section) : (s.setSect k v).wgs = s.wgs := rfl
@[simp] theorem setSect_cohorts (s : State) (k : Nat) (v : Section) : (s.setSect k v).cohorts = s.cohorts := rfl
@[simp] theorem setSect_cores (s : State) (k : Nat) (v : Section) : (s.setSect k v).cores = s.cores := rfl
@[simp] theorem setSect_sections (s : State) (k : Nat) (v : Section) : (s.setSect k v).sections = put k v s.sections := rfl
@[simp] theorem setSect_slices (s : State) (k : Nat) (v : Section) : (s.setSect k v).slices = s.slices := rfl
@[simp] theorem setSect_dies (s : State) (k : Nat) (v : Section) : (s.setSect k v).dies = s.dies := rfl
@[simp] theorem setSect_ctxs (s : State) (k : Nat) (v : Section) : (s.setSect k v).ctxs = s.ctxs := rfl
@[simp] theorem setSect_vfs (s : State) (k : Nat) (v : Section) : (s.setSect k v).vfs = s.vfs := rfl
@[simp] theorem setSect_queues (s : State) (k : Nat) (v : Section) : (s.setSect k v).queues = s.queues := rfl
@[simp] theorem setSect_foreman (s : State) (k : Nat) (v : Section) : (s.setSect k v).foreman = s.foreman := rfl
@[simp] theorem setSect_launches (s : State) (k : Nat) (v : Section) : (s.setSect k v).launches = s.launches := rfl
@[simp] theorem setSect_mem (s : State) (k : Nat) (v : Section) : (s.setSect k v).mem = s.mem := rfl
@[simp] theorem setSect_lineCid (s : State) (k : Nat) (v : Section) : (s.setSect k v).lineCid = s.lineCid := rfl
@[simp] theorem setSect_ops (s : State) (k : Nat) (v : Section) : (s.setSect k v).ops = s.ops := rfl
@[simp] theorem setSect_net (s : State) (k : Nat) (v : Section) : (s.setSect k v).net = s.net := rfl
@[simp] theorem setSect_inbound (s : State) (k : Nat) (v : Section) : (s.setSect k v).inbound = s.inbound := rfl
@[simp] theorem setSect_flows (s : State) (k : Nat) (v : Section) : (s.setSect k v).flows = s.flows := rfl
@[simp] theorem setSect_noticed (s : State) (k : Nat) (v : Section) : (s.setSect k v).noticed = s.noticed := rfl
@[simp] theorem setSect_out (s : State) (k : Nat) (v : Section) : (s.setSect k v).out = s.out := rfl
@[simp] theorem setSect_channels (s : State) (k : Nat) (v : Section) : (s.setSect k v).channels = s.channels := rfl
@[simp] theorem setSect_health (s : State) (k : Nat) (v : Section) : (s.setSect k v).health = s.health := rfl
@[simp] theorem setSect_loops (s : State) (k : Nat) (v : Section) : (s.setSect k v).loops = s.loops := rfl
@[simp] theorem setSect_boot (s : State) (k : Nat) (v : Section) : (s.setSect k v).boot = s.boot := rfl
@[simp] theorem setSect_spdm (s : State) (k : Nat) (v : Section) : (s.setSect k v).spdm = s.spdm := rfl
@[simp] theorem setSect_firmware (s : State) (k : Nat) (v : Section) : (s.setSect k v).firmware = s.firmware := rfl
@[simp] theorem setSect_rbAddr (s : State) (k : Nat) (v : Section) : (s.setSect k v).rbAddr = s.rbAddr := rfl
@[simp] theorem setSect_rbPending (s : State) (k : Nat) (v : Section) : (s.setSect k v).rbPending = s.rbPending := rfl
@[simp] theorem setSect_at_core (s : State) (k : Nat) (v : Section) (n : Nat) : (s.setSect k v).core n = s.core n := rfl
@[simp] theorem setSect_at_slice (s : State) (k : Nat) (v : Section) (n : Nat) : (s.setSect k v).slice n = s.slice n := rfl
@[simp] theorem setSect_at_die (s : State) (k : Nat) (v : Section) (n : Nat) : (s.setSect k v).die n = s.die n := rfl
@[simp] theorem setSect_at_ctx (s : State) (k : Nat) (v : Section) (n : Nat) : (s.setSect k v).ctx n = s.ctx n := rfl
@[simp] theorem setSect_at_vf (s : State) (k : Nat) (v : Section) (n : Nat) : (s.setSect k v).vf n = s.vf n := rfl

/-! ### `State.modSect` -/

@[simp] theorem modSect_agenda (s : State) (k : Nat) (f : Section → Section) : (s.modSect k f).agenda = s.agenda := rfl
@[simp] theorem modSect_issue (s : State) (k : Nat) (f : Section → Section) : (s.modSect k f).issue = s.issue := rfl
@[simp] theorem modSect_nextId (s : State) (k : Nat) (f : Section → Section) : (s.modSect k f).nextId = s.nextId := rfl
@[simp] theorem modSect_freeCtr (s : State) (k : Nat) (f : Section → Section) : (s.modSect k f).freeCtr = s.freeCtr := rfl
@[simp] theorem modSect_threads (s : State) (k : Nat) (f : Section → Section) : (s.modSect k f).threads = s.threads := rfl
@[simp] theorem modSect_wgs (s : State) (k : Nat) (f : Section → Section) : (s.modSect k f).wgs = s.wgs := rfl
@[simp] theorem modSect_cohorts (s : State) (k : Nat) (f : Section → Section) : (s.modSect k f).cohorts = s.cohorts := rfl
@[simp] theorem modSect_cores (s : State) (k : Nat) (f : Section → Section) : (s.modSect k f).cores = s.cores := rfl
@[simp] theorem modSect_sections (s : State) (k : Nat) (f : Section → Section) : (s.modSect k f).sections = put k (f (s.sect k)) s.sections := rfl
@[simp] theorem modSect_slices (s : State) (k : Nat) (f : Section → Section) : (s.modSect k f).slices = s.slices := rfl
@[simp] theorem modSect_dies (s : State) (k : Nat) (f : Section → Section) : (s.modSect k f).dies = s.dies := rfl
@[simp] theorem modSect_ctxs (s : State) (k : Nat) (f : Section → Section) : (s.modSect k f).ctxs = s.ctxs := rfl
@[simp] theorem modSect_vfs (s : State) (k : Nat) (f : Section → Section) : (s.modSect k f).vfs = s.vfs := rfl
@[simp] theorem modSect_queues (s : State) (k : Nat) (f : Section → Section) : (s.modSect k f).queues = s.queues := rfl
@[simp] theorem modSect_foreman (s : State) (k : Nat) (f : Section → Section) : (s.modSect k f).foreman = s.foreman := rfl
@[simp] theorem modSect_launches (s : State) (k : Nat) (f : Section → Section) : (s.modSect k f).launches = s.launches := rfl
@[simp] theorem modSect_mem (s : State) (k : Nat) (f : Section → Section) : (s.modSect k f).mem = s.mem := rfl
@[simp] theorem modSect_lineCid (s : State) (k : Nat) (f : Section → Section) : (s.modSect k f).lineCid = s.lineCid := rfl
@[simp] theorem modSect_ops (s : State) (k : Nat) (f : Section → Section) : (s.modSect k f).ops = s.ops := rfl
@[simp] theorem modSect_net (s : State) (k : Nat) (f : Section → Section) : (s.modSect k f).net = s.net := rfl
@[simp] theorem modSect_inbound (s : State) (k : Nat) (f : Section → Section) : (s.modSect k f).inbound = s.inbound := rfl
@[simp] theorem modSect_flows (s : State) (k : Nat) (f : Section → Section) : (s.modSect k f).flows = s.flows := rfl
@[simp] theorem modSect_noticed (s : State) (k : Nat) (f : Section → Section) : (s.modSect k f).noticed = s.noticed := rfl
@[simp] theorem modSect_out (s : State) (k : Nat) (f : Section → Section) : (s.modSect k f).out = s.out := rfl
@[simp] theorem modSect_channels (s : State) (k : Nat) (f : Section → Section) : (s.modSect k f).channels = s.channels := rfl
@[simp] theorem modSect_health (s : State) (k : Nat) (f : Section → Section) : (s.modSect k f).health = s.health := rfl
@[simp] theorem modSect_loops (s : State) (k : Nat) (f : Section → Section) : (s.modSect k f).loops = s.loops := rfl
@[simp] theorem modSect_boot (s : State) (k : Nat) (f : Section → Section) : (s.modSect k f).boot = s.boot := rfl
@[simp] theorem modSect_spdm (s : State) (k : Nat) (f : Section → Section) : (s.modSect k f).spdm = s.spdm := rfl
@[simp] theorem modSect_firmware (s : State) (k : Nat) (f : Section → Section) : (s.modSect k f).firmware = s.firmware := rfl
@[simp] theorem modSect_rbAddr (s : State) (k : Nat) (f : Section → Section) : (s.modSect k f).rbAddr = s.rbAddr := rfl
@[simp] theorem modSect_rbPending (s : State) (k : Nat) (f : Section → Section) : (s.modSect k f).rbPending = s.rbPending := rfl
@[simp] theorem modSect_at_core (s : State) (k : Nat) (f : Section → Section) (n : Nat) : (s.modSect k f).core n = s.core n := rfl
@[simp] theorem modSect_at_slice (s : State) (k : Nat) (f : Section → Section) (n : Nat) : (s.modSect k f).slice n = s.slice n := rfl
@[simp] theorem modSect_at_die (s : State) (k : Nat) (f : Section → Section) (n : Nat) : (s.modSect k f).die n = s.die n := rfl
@[simp] theorem modSect_at_ctx (s : State) (k : Nat) (f : Section → Section) (n : Nat) : (s.modSect k f).ctx n = s.ctx n := rfl
@[simp] theorem modSect_at_vf (s : State) (k : Nat) (f : Section → Section) (n : Nat) : (s.modSect k f).vf n = s.vf n := rfl

/-! ### `State.modSlice` -/

@[simp] theorem modSlice_agenda (s : State) (k : Nat) (f : Slice → Slice) : (s.modSlice k f).agenda = s.agenda := rfl
@[simp] theorem modSlice_issue (s : State) (k : Nat) (f : Slice → Slice) : (s.modSlice k f).issue = s.issue := rfl
@[simp] theorem modSlice_nextId (s : State) (k : Nat) (f : Slice → Slice) : (s.modSlice k f).nextId = s.nextId := rfl
@[simp] theorem modSlice_freeCtr (s : State) (k : Nat) (f : Slice → Slice) : (s.modSlice k f).freeCtr = s.freeCtr := rfl
@[simp] theorem modSlice_threads (s : State) (k : Nat) (f : Slice → Slice) : (s.modSlice k f).threads = s.threads := rfl
@[simp] theorem modSlice_wgs (s : State) (k : Nat) (f : Slice → Slice) : (s.modSlice k f).wgs = s.wgs := rfl
@[simp] theorem modSlice_cohorts (s : State) (k : Nat) (f : Slice → Slice) : (s.modSlice k f).cohorts = s.cohorts := rfl
@[simp] theorem modSlice_cores (s : State) (k : Nat) (f : Slice → Slice) : (s.modSlice k f).cores = s.cores := rfl
@[simp] theorem modSlice_sections (s : State) (k : Nat) (f : Slice → Slice) : (s.modSlice k f).sections = s.sections := rfl
@[simp] theorem modSlice_slices (s : State) (k : Nat) (f : Slice → Slice) : (s.modSlice k f).slices = put k (f (s.slice k)) s.slices := rfl
@[simp] theorem modSlice_dies (s : State) (k : Nat) (f : Slice → Slice) : (s.modSlice k f).dies = s.dies := rfl
@[simp] theorem modSlice_ctxs (s : State) (k : Nat) (f : Slice → Slice) : (s.modSlice k f).ctxs = s.ctxs := rfl
@[simp] theorem modSlice_vfs (s : State) (k : Nat) (f : Slice → Slice) : (s.modSlice k f).vfs = s.vfs := rfl
@[simp] theorem modSlice_queues (s : State) (k : Nat) (f : Slice → Slice) : (s.modSlice k f).queues = s.queues := rfl
@[simp] theorem modSlice_foreman (s : State) (k : Nat) (f : Slice → Slice) : (s.modSlice k f).foreman = s.foreman := rfl
@[simp] theorem modSlice_launches (s : State) (k : Nat) (f : Slice → Slice) : (s.modSlice k f).launches = s.launches := rfl
@[simp] theorem modSlice_mem (s : State) (k : Nat) (f : Slice → Slice) : (s.modSlice k f).mem = s.mem := rfl
@[simp] theorem modSlice_lineCid (s : State) (k : Nat) (f : Slice → Slice) : (s.modSlice k f).lineCid = s.lineCid := rfl
@[simp] theorem modSlice_ops (s : State) (k : Nat) (f : Slice → Slice) : (s.modSlice k f).ops = s.ops := rfl
@[simp] theorem modSlice_net (s : State) (k : Nat) (f : Slice → Slice) : (s.modSlice k f).net = s.net := rfl
@[simp] theorem modSlice_inbound (s : State) (k : Nat) (f : Slice → Slice) : (s.modSlice k f).inbound = s.inbound := rfl
@[simp] theorem modSlice_flows (s : State) (k : Nat) (f : Slice → Slice) : (s.modSlice k f).flows = s.flows := rfl
@[simp] theorem modSlice_noticed (s : State) (k : Nat) (f : Slice → Slice) : (s.modSlice k f).noticed = s.noticed := rfl
@[simp] theorem modSlice_out (s : State) (k : Nat) (f : Slice → Slice) : (s.modSlice k f).out = s.out := rfl
@[simp] theorem modSlice_channels (s : State) (k : Nat) (f : Slice → Slice) : (s.modSlice k f).channels = s.channels := rfl
@[simp] theorem modSlice_health (s : State) (k : Nat) (f : Slice → Slice) : (s.modSlice k f).health = s.health := rfl
@[simp] theorem modSlice_loops (s : State) (k : Nat) (f : Slice → Slice) : (s.modSlice k f).loops = s.loops := rfl
@[simp] theorem modSlice_boot (s : State) (k : Nat) (f : Slice → Slice) : (s.modSlice k f).boot = s.boot := rfl
@[simp] theorem modSlice_spdm (s : State) (k : Nat) (f : Slice → Slice) : (s.modSlice k f).spdm = s.spdm := rfl
@[simp] theorem modSlice_firmware (s : State) (k : Nat) (f : Slice → Slice) : (s.modSlice k f).firmware = s.firmware := rfl
@[simp] theorem modSlice_rbAddr (s : State) (k : Nat) (f : Slice → Slice) : (s.modSlice k f).rbAddr = s.rbAddr := rfl
@[simp] theorem modSlice_rbPending (s : State) (k : Nat) (f : Slice → Slice) : (s.modSlice k f).rbPending = s.rbPending := rfl
@[simp] theorem modSlice_at_core (s : State) (k : Nat) (f : Slice → Slice) (n : Nat) : (s.modSlice k f).core n = s.core n := rfl
@[simp] theorem modSlice_at_sect (s : State) (k : Nat) (f : Slice → Slice) (n : Nat) : (s.modSlice k f).sect n = s.sect n := rfl
@[simp] theorem modSlice_at_die (s : State) (k : Nat) (f : Slice → Slice) (n : Nat) : (s.modSlice k f).die n = s.die n := rfl
@[simp] theorem modSlice_at_ctx (s : State) (k : Nat) (f : Slice → Slice) (n : Nat) : (s.modSlice k f).ctx n = s.ctx n := rfl
@[simp] theorem modSlice_at_vf (s : State) (k : Nat) (f : Slice → Slice) (n : Nat) : (s.modSlice k f).vf n = s.vf n := rfl

/-! ### `State.modDie` -/

@[simp] theorem modDie_agenda (s : State) (k : Nat) (f : Die → Die) : (s.modDie k f).agenda = s.agenda := rfl
@[simp] theorem modDie_issue (s : State) (k : Nat) (f : Die → Die) : (s.modDie k f).issue = s.issue := rfl
@[simp] theorem modDie_nextId (s : State) (k : Nat) (f : Die → Die) : (s.modDie k f).nextId = s.nextId := rfl
@[simp] theorem modDie_freeCtr (s : State) (k : Nat) (f : Die → Die) : (s.modDie k f).freeCtr = s.freeCtr := rfl
@[simp] theorem modDie_threads (s : State) (k : Nat) (f : Die → Die) : (s.modDie k f).threads = s.threads := rfl
@[simp] theorem modDie_wgs (s : State) (k : Nat) (f : Die → Die) : (s.modDie k f).wgs = s.wgs := rfl
@[simp] theorem modDie_cohorts (s : State) (k : Nat) (f : Die → Die) : (s.modDie k f).cohorts = s.cohorts := rfl
@[simp] theorem modDie_cores (s : State) (k : Nat) (f : Die → Die) : (s.modDie k f).cores = s.cores := rfl
@[simp] theorem modDie_sections (s : State) (k : Nat) (f : Die → Die) : (s.modDie k f).sections = s.sections := rfl
@[simp] theorem modDie_slices (s : State) (k : Nat) (f : Die → Die) : (s.modDie k f).slices = s.slices := rfl
@[simp] theorem modDie_dies (s : State) (k : Nat) (f : Die → Die) : (s.modDie k f).dies = put k (f (s.die k)) s.dies := rfl
@[simp] theorem modDie_ctxs (s : State) (k : Nat) (f : Die → Die) : (s.modDie k f).ctxs = s.ctxs := rfl
@[simp] theorem modDie_vfs (s : State) (k : Nat) (f : Die → Die) : (s.modDie k f).vfs = s.vfs := rfl
@[simp] theorem modDie_queues (s : State) (k : Nat) (f : Die → Die) : (s.modDie k f).queues = s.queues := rfl
@[simp] theorem modDie_foreman (s : State) (k : Nat) (f : Die → Die) : (s.modDie k f).foreman = s.foreman := rfl
@[simp] theorem modDie_launches (s : State) (k : Nat) (f : Die → Die) : (s.modDie k f).launches = s.launches := rfl
@[simp] theorem modDie_mem (s : State) (k : Nat) (f : Die → Die) : (s.modDie k f).mem = s.mem := rfl
@[simp] theorem modDie_lineCid (s : State) (k : Nat) (f : Die → Die) : (s.modDie k f).lineCid = s.lineCid := rfl
@[simp] theorem modDie_ops (s : State) (k : Nat) (f : Die → Die) : (s.modDie k f).ops = s.ops := rfl
@[simp] theorem modDie_net (s : State) (k : Nat) (f : Die → Die) : (s.modDie k f).net = s.net := rfl
@[simp] theorem modDie_inbound (s : State) (k : Nat) (f : Die → Die) : (s.modDie k f).inbound = s.inbound := rfl
@[simp] theorem modDie_flows (s : State) (k : Nat) (f : Die → Die) : (s.modDie k f).flows = s.flows := rfl
@[simp] theorem modDie_noticed (s : State) (k : Nat) (f : Die → Die) : (s.modDie k f).noticed = s.noticed := rfl
@[simp] theorem modDie_out (s : State) (k : Nat) (f : Die → Die) : (s.modDie k f).out = s.out := rfl
@[simp] theorem modDie_channels (s : State) (k : Nat) (f : Die → Die) : (s.modDie k f).channels = s.channels := rfl
@[simp] theorem modDie_health (s : State) (k : Nat) (f : Die → Die) : (s.modDie k f).health = s.health := rfl
@[simp] theorem modDie_loops (s : State) (k : Nat) (f : Die → Die) : (s.modDie k f).loops = s.loops := rfl
@[simp] theorem modDie_boot (s : State) (k : Nat) (f : Die → Die) : (s.modDie k f).boot = s.boot := rfl
@[simp] theorem modDie_spdm (s : State) (k : Nat) (f : Die → Die) : (s.modDie k f).spdm = s.spdm := rfl
@[simp] theorem modDie_firmware (s : State) (k : Nat) (f : Die → Die) : (s.modDie k f).firmware = s.firmware := rfl
@[simp] theorem modDie_rbAddr (s : State) (k : Nat) (f : Die → Die) : (s.modDie k f).rbAddr = s.rbAddr := rfl
@[simp] theorem modDie_rbPending (s : State) (k : Nat) (f : Die → Die) : (s.modDie k f).rbPending = s.rbPending := rfl
@[simp] theorem modDie_at_core (s : State) (k : Nat) (f : Die → Die) (n : Nat) : (s.modDie k f).core n = s.core n := rfl
@[simp] theorem modDie_at_sect (s : State) (k : Nat) (f : Die → Die) (n : Nat) : (s.modDie k f).sect n = s.sect n := rfl
@[simp] theorem modDie_at_slice (s : State) (k : Nat) (f : Die → Die) (n : Nat) : (s.modDie k f).slice n = s.slice n := rfl
@[simp] theorem modDie_at_ctx (s : State) (k : Nat) (f : Die → Die) (n : Nat) : (s.modDie k f).ctx n = s.ctx n := rfl
@[simp] theorem modDie_at_vf (s : State) (k : Nat) (f : Die → Die) (n : Nat) : (s.modDie k f).vf n = s.vf n := rfl

/-! ### `State.setCtx` -/

@[simp] theorem setCtx_agenda (s : State) (k : Nat) (v : Context) : (s.setCtx k v).agenda = s.agenda := rfl
@[simp] theorem setCtx_issue (s : State) (k : Nat) (v : Context) : (s.setCtx k v).issue = s.issue := rfl
@[simp] theorem setCtx_nextId (s : State) (k : Nat) (v : Context) : (s.setCtx k v).nextId = s.nextId := rfl
@[simp] theorem setCtx_freeCtr (s : State) (k : Nat) (v : Context) : (s.setCtx k v).freeCtr = s.freeCtr := rfl
@[simp] theorem setCtx_threads (s : State) (k : Nat) (v : Context) : (s.setCtx k v).threads = s.threads := rfl
@[simp] theorem setCtx_wgs (s : State) (k : Nat) (v : Context) : (s.setCtx k v).wgs = s.wgs := rfl
@[simp] theorem setCtx_cohorts (s : State) (k : Nat) (v : Context) : (s.setCtx k v).cohorts = s.cohorts := rfl
@[simp] theorem setCtx_cores (s : State) (k : Nat) (v : Context) : (s.setCtx k v).cores = s.cores := rfl
@[simp] theorem setCtx_sections (s : State) (k : Nat) (v : Context) : (s.setCtx k v).sections = s.sections := rfl
@[simp] theorem setCtx_slices (s : State) (k : Nat) (v : Context) : (s.setCtx k v).slices = s.slices := rfl
@[simp] theorem setCtx_dies (s : State) (k : Nat) (v : Context) : (s.setCtx k v).dies = s.dies := rfl
@[simp] theorem setCtx_ctxs (s : State) (k : Nat) (v : Context) : (s.setCtx k v).ctxs = put k v s.ctxs := rfl
@[simp] theorem setCtx_vfs (s : State) (k : Nat) (v : Context) : (s.setCtx k v).vfs = s.vfs := rfl
@[simp] theorem setCtx_queues (s : State) (k : Nat) (v : Context) : (s.setCtx k v).queues = s.queues := rfl
@[simp] theorem setCtx_foreman (s : State) (k : Nat) (v : Context) : (s.setCtx k v).foreman = s.foreman := rfl
@[simp] theorem setCtx_launches (s : State) (k : Nat) (v : Context) : (s.setCtx k v).launches = s.launches := rfl
@[simp] theorem setCtx_mem (s : State) (k : Nat) (v : Context) : (s.setCtx k v).mem = s.mem := rfl
@[simp] theorem setCtx_lineCid (s : State) (k : Nat) (v : Context) : (s.setCtx k v).lineCid = s.lineCid := rfl
@[simp] theorem setCtx_ops (s : State) (k : Nat) (v : Context) : (s.setCtx k v).ops = s.ops := rfl
@[simp] theorem setCtx_net (s : State) (k : Nat) (v : Context) : (s.setCtx k v).net = s.net := rfl
@[simp] theorem setCtx_inbound (s : State) (k : Nat) (v : Context) : (s.setCtx k v).inbound = s.inbound := rfl
@[simp] theorem setCtx_flows (s : State) (k : Nat) (v : Context) : (s.setCtx k v).flows = s.flows := rfl
@[simp] theorem setCtx_noticed (s : State) (k : Nat) (v : Context) : (s.setCtx k v).noticed = s.noticed := rfl
@[simp] theorem setCtx_out (s : State) (k : Nat) (v : Context) : (s.setCtx k v).out = s.out := rfl
@[simp] theorem setCtx_channels (s : State) (k : Nat) (v : Context) : (s.setCtx k v).channels = s.channels := rfl
@[simp] theorem setCtx_health (s : State) (k : Nat) (v : Context) : (s.setCtx k v).health = s.health := rfl
@[simp] theorem setCtx_loops (s : State) (k : Nat) (v : Context) : (s.setCtx k v).loops = s.loops := rfl
@[simp] theorem setCtx_boot (s : State) (k : Nat) (v : Context) : (s.setCtx k v).boot = s.boot := rfl
@[simp] theorem setCtx_spdm (s : State) (k : Nat) (v : Context) : (s.setCtx k v).spdm = s.spdm := rfl
@[simp] theorem setCtx_firmware (s : State) (k : Nat) (v : Context) : (s.setCtx k v).firmware = s.firmware := rfl
@[simp] theorem setCtx_rbAddr (s : State) (k : Nat) (v : Context) : (s.setCtx k v).rbAddr = s.rbAddr := rfl
@[simp] theorem setCtx_rbPending (s : State) (k : Nat) (v : Context) : (s.setCtx k v).rbPending = s.rbPending := rfl
@[simp] theorem setCtx_at_core (s : State) (k : Nat) (v : Context) (n : Nat) : (s.setCtx k v).core n = s.core n := rfl
@[simp] theorem setCtx_at_sect (s : State) (k : Nat) (v : Context) (n : Nat) : (s.setCtx k v).sect n = s.sect n := rfl
@[simp] theorem setCtx_at_slice (s : State) (k : Nat) (v : Context) (n : Nat) : (s.setCtx k v).slice n = s.slice n := rfl
@[simp] theorem setCtx_at_die (s : State) (k : Nat) (v : Context) (n : Nat) : (s.setCtx k v).die n = s.die n := rfl
@[simp] theorem setCtx_at_vf (s : State) (k : Nat) (v : Context) (n : Nat) : (s.setCtx k v).vf n = s.vf n := rfl

/-! ### `State.modCtx` -/

@[simp] theorem modCtx_agenda (s : State) (k : Nat) (f : Context → Context) : (s.modCtx k f).agenda = s.agenda := rfl
@[simp] theorem modCtx_issue (s : State) (k : Nat) (f : Context → Context) : (s.modCtx k f).issue = s.issue := rfl
@[simp] theorem modCtx_nextId (s : State) (k : Nat) (f : Context → Context) : (s.modCtx k f).nextId = s.nextId := rfl
@[simp] theorem modCtx_freeCtr (s : State) (k : Nat) (f : Context → Context) : (s.modCtx k f).freeCtr = s.freeCtr := rfl
@[simp] theorem modCtx_threads (s : State) (k : Nat) (f : Context → Context) : (s.modCtx k f).threads = s.threads := rfl
@[simp] theorem modCtx_wgs (s : State) (k : Nat) (f : Context → Context) : (s.modCtx k f).wgs = s.wgs := rfl
@[simp] theorem modCtx_cohorts (s : State) (k : Nat) (f : Context → Context) : (s.modCtx k f).cohorts = s.cohorts := rfl
@[simp] theorem modCtx_cores (s : State) (k : Nat) (f : Context → Context) : (s.modCtx k f).cores = s.cores := rfl
@[simp] theorem modCtx_sections (s : State) (k : Nat) (f : Context → Context) : (s.modCtx k f).sections = s.sections := rfl
@[simp] theorem modCtx_slices (s : State) (k : Nat) (f : Context → Context) : (s.modCtx k f).slices = s.slices := rfl
@[simp] theorem modCtx_dies (s : State) (k : Nat) (f : Context → Context) : (s.modCtx k f).dies = s.dies := rfl
@[simp] theorem modCtx_ctxs (s : State) (k : Nat) (f : Context → Context) : (s.modCtx k f).ctxs = put k (f (s.ctx k)) s.ctxs := rfl
@[simp] theorem modCtx_vfs (s : State) (k : Nat) (f : Context → Context) : (s.modCtx k f).vfs = s.vfs := rfl
@[simp] theorem modCtx_queues (s : State) (k : Nat) (f : Context → Context) : (s.modCtx k f).queues = s.queues := rfl
@[simp] theorem modCtx_foreman (s : State) (k : Nat) (f : Context → Context) : (s.modCtx k f).foreman = s.foreman := rfl
@[simp] theorem modCtx_launches (s : State) (k : Nat) (f : Context → Context) : (s.modCtx k f).launches = s.launches := rfl
@[simp] theorem modCtx_mem (s : State) (k : Nat) (f : Context → Context) : (s.modCtx k f).mem = s.mem := rfl
@[simp] theorem modCtx_lineCid (s : State) (k : Nat) (f : Context → Context) : (s.modCtx k f).lineCid = s.lineCid := rfl
@[simp] theorem modCtx_ops (s : State) (k : Nat) (f : Context → Context) : (s.modCtx k f).ops = s.ops := rfl
@[simp] theorem modCtx_net (s : State) (k : Nat) (f : Context → Context) : (s.modCtx k f).net = s.net := rfl
@[simp] theorem modCtx_inbound (s : State) (k : Nat) (f : Context → Context) : (s.modCtx k f).inbound = s.inbound := rfl
@[simp] theorem modCtx_flows (s : State) (k : Nat) (f : Context → Context) : (s.modCtx k f).flows = s.flows := rfl
@[simp] theorem modCtx_noticed (s : State) (k : Nat) (f : Context → Context) : (s.modCtx k f).noticed = s.noticed := rfl
@[simp] theorem modCtx_out (s : State) (k : Nat) (f : Context → Context) : (s.modCtx k f).out = s.out := rfl
@[simp] theorem modCtx_channels (s : State) (k : Nat) (f : Context → Context) : (s.modCtx k f).channels = s.channels := rfl
@[simp] theorem modCtx_health (s : State) (k : Nat) (f : Context → Context) : (s.modCtx k f).health = s.health := rfl
@[simp] theorem modCtx_loops (s : State) (k : Nat) (f : Context → Context) : (s.modCtx k f).loops = s.loops := rfl
@[simp] theorem modCtx_boot (s : State) (k : Nat) (f : Context → Context) : (s.modCtx k f).boot = s.boot := rfl
@[simp] theorem modCtx_spdm (s : State) (k : Nat) (f : Context → Context) : (s.modCtx k f).spdm = s.spdm := rfl
@[simp] theorem modCtx_firmware (s : State) (k : Nat) (f : Context → Context) : (s.modCtx k f).firmware = s.firmware := rfl
@[simp] theorem modCtx_rbAddr (s : State) (k : Nat) (f : Context → Context) : (s.modCtx k f).rbAddr = s.rbAddr := rfl
@[simp] theorem modCtx_rbPending (s : State) (k : Nat) (f : Context → Context) : (s.modCtx k f).rbPending = s.rbPending := rfl
@[simp] theorem modCtx_at_core (s : State) (k : Nat) (f : Context → Context) (n : Nat) : (s.modCtx k f).core n = s.core n := rfl
@[simp] theorem modCtx_at_sect (s : State) (k : Nat) (f : Context → Context) (n : Nat) : (s.modCtx k f).sect n = s.sect n := rfl
@[simp] theorem modCtx_at_slice (s : State) (k : Nat) (f : Context → Context) (n : Nat) : (s.modCtx k f).slice n = s.slice n := rfl
@[simp] theorem modCtx_at_die (s : State) (k : Nat) (f : Context → Context) (n : Nat) : (s.modCtx k f).die n = s.die n := rfl
@[simp] theorem modCtx_at_vf (s : State) (k : Nat) (f : Context → Context) (n : Nat) : (s.modCtx k f).vf n = s.vf n := rfl

/-! ### `State.modVf` -/

@[simp] theorem modVf_agenda (s : State) (k : Nat) (f : VF → VF) : (s.modVf k f).agenda = s.agenda := rfl
@[simp] theorem modVf_issue (s : State) (k : Nat) (f : VF → VF) : (s.modVf k f).issue = s.issue := rfl
@[simp] theorem modVf_nextId (s : State) (k : Nat) (f : VF → VF) : (s.modVf k f).nextId = s.nextId := rfl
@[simp] theorem modVf_freeCtr (s : State) (k : Nat) (f : VF → VF) : (s.modVf k f).freeCtr = s.freeCtr := rfl
@[simp] theorem modVf_threads (s : State) (k : Nat) (f : VF → VF) : (s.modVf k f).threads = s.threads := rfl
@[simp] theorem modVf_wgs (s : State) (k : Nat) (f : VF → VF) : (s.modVf k f).wgs = s.wgs := rfl
@[simp] theorem modVf_cohorts (s : State) (k : Nat) (f : VF → VF) : (s.modVf k f).cohorts = s.cohorts := rfl
@[simp] theorem modVf_cores (s : State) (k : Nat) (f : VF → VF) : (s.modVf k f).cores = s.cores := rfl
@[simp] theorem modVf_sections (s : State) (k : Nat) (f : VF → VF) : (s.modVf k f).sections = s.sections := rfl
@[simp] theorem modVf_slices (s : State) (k : Nat) (f : VF → VF) : (s.modVf k f).slices = s.slices := rfl
@[simp] theorem modVf_dies (s : State) (k : Nat) (f : VF → VF) : (s.modVf k f).dies = s.dies := rfl
@[simp] theorem modVf_ctxs (s : State) (k : Nat) (f : VF → VF) : (s.modVf k f).ctxs = s.ctxs := rfl
@[simp] theorem modVf_vfs (s : State) (k : Nat) (f : VF → VF) : (s.modVf k f).vfs = put k (f (s.vf k)) s.vfs := rfl
@[simp] theorem modVf_queues (s : State) (k : Nat) (f : VF → VF) : (s.modVf k f).queues = s.queues := rfl
@[simp] theorem modVf_foreman (s : State) (k : Nat) (f : VF → VF) : (s.modVf k f).foreman = s.foreman := rfl
@[simp] theorem modVf_launches (s : State) (k : Nat) (f : VF → VF) : (s.modVf k f).launches = s.launches := rfl
@[simp] theorem modVf_mem (s : State) (k : Nat) (f : VF → VF) : (s.modVf k f).mem = s.mem := rfl
@[simp] theorem modVf_lineCid (s : State) (k : Nat) (f : VF → VF) : (s.modVf k f).lineCid = s.lineCid := rfl
@[simp] theorem modVf_ops (s : State) (k : Nat) (f : VF → VF) : (s.modVf k f).ops = s.ops := rfl
@[simp] theorem modVf_net (s : State) (k : Nat) (f : VF → VF) : (s.modVf k f).net = s.net := rfl
@[simp] theorem modVf_inbound (s : State) (k : Nat) (f : VF → VF) : (s.modVf k f).inbound = s.inbound := rfl
@[simp] theorem modVf_flows (s : State) (k : Nat) (f : VF → VF) : (s.modVf k f).flows = s.flows := rfl
@[simp] theorem modVf_noticed (s : State) (k : Nat) (f : VF → VF) : (s.modVf k f).noticed = s.noticed := rfl
@[simp] theorem modVf_out (s : State) (k : Nat) (f : VF → VF) : (s.modVf k f).out = s.out := rfl
@[simp] theorem modVf_channels (s : State) (k : Nat) (f : VF → VF) : (s.modVf k f).channels = s.channels := rfl
@[simp] theorem modVf_health (s : State) (k : Nat) (f : VF → VF) : (s.modVf k f).health = s.health := rfl
@[simp] theorem modVf_loops (s : State) (k : Nat) (f : VF → VF) : (s.modVf k f).loops = s.loops := rfl
@[simp] theorem modVf_boot (s : State) (k : Nat) (f : VF → VF) : (s.modVf k f).boot = s.boot := rfl
@[simp] theorem modVf_spdm (s : State) (k : Nat) (f : VF → VF) : (s.modVf k f).spdm = s.spdm := rfl
@[simp] theorem modVf_firmware (s : State) (k : Nat) (f : VF → VF) : (s.modVf k f).firmware = s.firmware := rfl
@[simp] theorem modVf_rbAddr (s : State) (k : Nat) (f : VF → VF) : (s.modVf k f).rbAddr = s.rbAddr := rfl
@[simp] theorem modVf_rbPending (s : State) (k : Nat) (f : VF → VF) : (s.modVf k f).rbPending = s.rbPending := rfl
@[simp] theorem modVf_at_core (s : State) (k : Nat) (f : VF → VF) (n : Nat) : (s.modVf k f).core n = s.core n := rfl
@[simp] theorem modVf_at_sect (s : State) (k : Nat) (f : VF → VF) (n : Nat) : (s.modVf k f).sect n = s.sect n := rfl
@[simp] theorem modVf_at_slice (s : State) (k : Nat) (f : VF → VF) (n : Nat) : (s.modVf k f).slice n = s.slice n := rfl
@[simp] theorem modVf_at_die (s : State) (k : Nat) (f : VF → VF) (n : Nat) : (s.modVf k f).die n = s.die n := rfl
@[simp] theorem modVf_at_ctx (s : State) (k : Nat) (f : VF → VF) (n : Nat) : (s.modVf k f).ctx n = s.ctx n := rfl

theorem modCore_read (s : State) (k : Nat) (f : Core → Core) (n : Nat) :
    (s.modCore k f).core n = if n = k then f (s.core k) else s.core n := by
  simp only [State.core, modCore_cores, look_put]; split <;> simp_all

theorem modSect_read (s : State) (k : Nat) (f : Section → Section) (n : Nat) :
    (s.modSect k f).sect n = if n = k then f (s.sect k) else s.sect n := by
  simp only [State.sect, modSect_sections, look_put]; split <;> simp_all

theorem modSlice_read (s : State) (k : Nat) (f : Slice → Slice) (n : Nat) :
    (s.modSlice k f).slice n = if n = k then f (s.slice k) else s.slice n := by
  simp only [State.slice, modSlice_slices, look_put]; split <;> simp_all

theorem modDie_read (s : State) (k : Nat) (f : Die → Die) (n : Nat) :
    (s.modDie k f).die n = if n = k then f (s.die k) else s.die n := by
  simp only [State.die, modDie_dies, look_put]; split <;> simp_all

theorem modCtx_read (s : State) (k : Nat) (f : Context → Context) (n : Nat) :
    (s.modCtx k f).ctx n = if n = k then f (s.ctx k) else s.ctx n := by
  simp only [State.ctx, modCtx_ctxs, look_put]; split <;> simp_all

theorem modVf_read (s : State) (k : Nat) (f : VF → VF) (n : Nat) :
    (s.modVf k f).vf n = if n = k then f (s.vf k) else s.vf n := by
  simp only [State.vf, modVf_vfs, look_put]; split <;> simp_all

/-! ### `State.fresh` -/

@[simp] theorem fresh_agenda (s : State) : s.fresh.2.agenda = s.agenda := rfl
@[simp] theorem fresh_issue (s : State) : s.fresh.2.issue = s.issue := rfl
@[simp] theorem fresh_nextId (s : State) : s.fresh.2.nextId = s.nextId + 1 := rfl
@[simp] theorem fresh_freeCtr (s : State) : s.fresh.2.freeCtr = s.freeCtr := rfl
@[simp] theorem fresh_threads (s : State) : s.fresh.2.threads = s.threads := rfl
@[simp] theorem fresh_wgs (s : State) : s.fresh.2.wgs = s.wgs := rfl
@[simp] theorem fresh_cohorts (s : State) : s.fresh.2.cohorts = s.cohorts := rfl
@[simp] theorem fresh_cores (s : State) : s.fresh.2.cores = s.cores := rfl
@[simp] theorem fresh_sections (s : State) : s.fresh.2.sections = s.sections := rfl
@[simp] theorem fresh_slices (s : State) : s.fresh.2.slices = s.slices := rfl
@[simp] theorem fresh_dies (s : State) : s.fresh.2.dies = s.dies := rfl
@[simp] theorem fresh_ctxs (s : State) : s.fresh.2.ctxs = s.ctxs := rfl
@[simp] theorem fresh_vfs (s : State) : s.fresh.2.vfs = s.vfs := rfl
@[simp] theorem fresh_queues (s : State) : s.fresh.2.queues = s.queues := rfl
@[simp] theorem fresh_foreman (s : State) : s.fresh.2.foreman = s.foreman := rfl
@[simp] theorem fresh_launches (s : State) : s.fresh.2.launches = s.launches := rfl
@[simp] theorem fresh_mem (s : State) : s.fresh.2.mem = s.mem := rfl
@[simp] theorem fresh_lineCid (s : State) : s.fresh.2.lineCid = s.lineCid := rfl
@[simp] theorem fresh_ops (s : State) : s.fresh.2.ops = s.ops := rfl
@[simp] theorem fresh_net (s : State) : s.fresh.2.net = s.net := rfl
@[simp] theorem fresh_inbound (s : State) : s.fresh.2.inbound = s.inbound := rfl
@[simp] theorem fresh_flows (s : State) : s.fresh.2.flows = s.flows := rfl
@[simp] theorem fresh_noticed (s : State) : s.fresh.2.noticed = s.noticed := rfl
@[simp] theorem fresh_out (s : State) : s.fresh.2.out = s.out := rfl
@[simp] theorem fresh_channels (s : State) : s.fresh.2.channels = s.channels := rfl
@[simp] theorem fresh_health (s : State) : s.fresh.2.health = s.health := rfl
@[simp] theorem fresh_loops (s : State) : s.fresh.2.loops = s.loops := rfl
@[simp] theorem fresh_boot (s : State) : s.fresh.2.boot = s.boot := rfl
@[simp] theorem fresh_spdm (s : State) : s.fresh.2.spdm = s.spdm := rfl
@[simp] theorem fresh_firmware (s : State) : s.fresh.2.firmware = s.firmware := rfl
@[simp] theorem fresh_rbAddr (s : State) : s.fresh.2.rbAddr = s.rbAddr := rfl
@[simp] theorem fresh_rbPending (s : State) : s.fresh.2.rbPending = s.rbPending := rfl

end Sys2Proof.Machine
end

