-- ==== Sys2Proof/Laws/Frame.lean ====
section
/-! SUPPORT. What the shared operations leave of device memory and of the boot store: most leave both as they
are, and those that write device memory keep its canonical form. -/

namespace Sys2Proof.Machine

theorem foldl_mem {α : Type} {f : State → α → State} (h : ∀ s x, (f s x).mem = s.mem) (l : List α) (s : State) :
    (l.foldl f s).mem = s.mem := by
  induction l generalizing s with
  | nil => rfl
  | cons x l ih => rw [List.foldl_cons, ih, h]
theorem foldl_boot {α : Type} {f : State → α → State} (h : ∀ s x, (f s x).boot = s.boot) (l : List α) (s : State) :
    (l.foldl f s).boot = s.boot := by
  induction l generalizing s with
  | nil => rfl
  | cons x l ih => rw [List.foldl_cons, ih, h]

/-- A fold of steps that keep the memory and the boot store. -/
theorem foldl_kept {α : Type} {f : State → α → State} (hm : ∀ s x, (f s x).mem = s.mem)
    (hb : ∀ s x, (f s x).boot = s.boot) (l : List α) (s : State) :
    (l.foldl f s).mem = s.mem ∧ (l.foldl f s).boot = s.boot := ⟨foldl_mem hm l s, foldl_boot hb l s⟩

/-- What every operation leaves: the boot store as it is, and a memory in canonical form in canonical form. -/
def Keeps (s t : State) : Prop := t.boot = s.boot ∧ (Memory.wf s.mem = true → Memory.wf t.mem = true)

theorem Keeps.refl (s : State) : Keeps s s := ⟨rfl, id⟩
theorem Keeps.trans {s t u : State} (h : Keeps s t) (g : Keeps t u) : Keeps s u :=
  ⟨g.1.trans h.1, fun w => g.2 (h.2 w)⟩
theorem Keeps.of_eq {s t : State} (hm : t.mem = s.mem) (hb : t.boot = s.boot) : Keeps s t :=
  ⟨hb, fun w => by rwa [hm]⟩
theorem keeps_foldl {α : Type} {f : State → α → State} (h : ∀ s x, Keeps s (f s x)) (l : List α) (s : State) :
    Keeps s (l.foldl f s) := by
  induction l generalizing s with
  | nil => exact .refl s
  | cons x l ih => exact (h s x).trans (ih _)

/-! ### Caches, lines, threads -/

@[simp] theorem settlePool_mem (c : Nat) (s : State) : (settlePool c s).mem = s.mem := rfl
@[simp] theorem settlePool_boot (c : Nat) (s : State) : (settlePool c s).boot = s.boot := rfl
@[simp] theorem useBanks_mem (k : Nat) (l : List Nat) (s : State) : (useBanks k l s).mem = s.mem := by
  unfold useBanks; split <;> rfl
@[simp] theorem useBanks_boot (k : Nat) (l : List Nat) (s : State) : (useBanks k l s).boot = s.boot := by
  unfold useBanks; split <;> rfl
@[simp] theorem l1Refill_mem (c line cid hint : Nat) (bytes : List Byte) (s : State) :
    (l1Refill c line cid hint bytes s).mem = s.mem := rfl
@[simp] theorem l1Refill_boot (c line cid hint : Nat) (bytes : List Byte) (s : State) :
    (l1Refill c line cid hint bytes s).boot = s.boot := rfl
@[simp] theorem l1Fill_mem (c line cid hint : Nat) (bytes : List Byte) (s : State) :
    (l1Fill c line cid hint bytes s).mem = s.mem := rfl
@[simp] theorem l1Fill_boot (c line cid hint : Nat) (bytes : List Byte) (s : State) :
    (l1Fill c line cid hint bytes s).boot = s.boot := rfl
@[simp] theorem l1Touch_mem (c line cid hint : Nat) (s : State) :
    (l1Touch c line cid hint s).mem = s.mem := rfl
@[simp] theorem l1Touch_boot (c line cid hint : Nat) (s : State) :
    (l1Touch c line cid hint s).boot = s.boot := rfl
@[simp] theorem l1Store_mem (c cid addr : Nat) (bytes : List Byte) (s : State) :
    (l1Store c cid addr bytes s).mem = s.mem := rfl
@[simp] theorem l1Store_boot (c cid addr : Nat) (bytes : List Byte) (s : State) :
    (l1Store c cid addr bytes s).boot = s.boot := rfl
@[simp] theorem l1Acquire_mem (c : Nat) (s : State) :
    (l1Acquire c s).mem = s.mem := rfl
@[simp] theorem l1Acquire_boot (c : Nat) (s : State) :
    (l1Acquire c s).boot = s.boot := rfl
@[simp] theorem l1Drop_mem (c a n : Nat) (s : State) :
    (l1Drop c a n s).mem = s.mem := rfl
@[simp] theorem l1Drop_boot (c a n : Nat) (s : State) :
    (l1Drop c a n s).boot = s.boot := rfl
@[simp] theorem takeTag_mem (fn d : Nat) (s : State) : (takeTag fn d s).2.mem = s.mem := rfl
@[simp] theorem takeTag_boot (fn d : Nat) (s : State) : (takeTag fn d s).2.boot = s.boot := rfl
@[simp] theorem sliceTouch_mem (fn cid d hint : Nat) (dirty : Bool) (s : State) :
    (sliceTouch fn cid d hint dirty s).mem = s.mem := rfl
@[simp] theorem sliceTouch_boot (fn cid d hint : Nat) (dirty : Bool) (s : State) :
    (sliceTouch fn cid d hint dirty s).boot = s.boot := rfl
@[simp] theorem sliceBring_mem (fn cid d hint : Nat) (dirty : Bool) (v : BitVec 128) (s : State) :
    (sliceBring fn cid d hint dirty v s).mem = s.mem := rfl
@[simp] theorem sliceBring_boot (fn cid d hint : Nat) (dirty : Bool) (v : BitVec 128) (s : State) :
    (sliceBring fn cid d hint dirty v s).boot = s.boot := rfl
@[simp] theorem sliceReads_mem (fn cid pa n : Nat) (s : State) : (sliceReads fn cid pa n s).mem = s.mem :=
  foldl_mem (fun _ _ => sliceTouch_mem ..) _ _
@[simp] theorem sliceReads_boot (fn cid pa n : Nat) (s : State) : (sliceReads fn cid pa n s).boot = s.boot :=
  foldl_boot (fun _ _ => sliceTouch_boot ..) _ _
@[simp] theorem readTables_mem (fn : Nat) (l : List Nat) (s : State) : (readTables fn l s).mem = s.mem :=
  foldl_mem (fun _ _ => sliceTouch_mem ..) _ _
@[simp] theorem readTables_boot (fn : Nat) (l : List Nat) (s : State) : (readTables fn l s).boot = s.boot :=
  foldl_boot (fun _ _ => sliceTouch_boot ..) _ _
@[simp] theorem walkSlices_mem (fn va : Nat) (s : State) : (walkSlices fn va s).mem = s.mem := readTables_mem ..
@[simp] theorem walkSlices_boot (fn va : Nat) (s : State) : (walkSlices fn va s).boot = s.boot := readTables_boot ..
@[simp] theorem sectXlat_mem (fn core va : Nat) (s : State) : (sectXlat fn core va s).2.mem = s.mem := by
  unfold sectXlat; (repeat' split) <;> simp
@[simp] theorem sectXlat_boot (fn core va : Nat) (s : State) : (sectXlat fn core va s).2.boot = s.boot := by
  unfold sectXlat; (repeat' split) <;> simp
@[simp] theorem homeWrite_boot (fn cid d hint : Nat) (bytes : List Byte) (s : State) :
    (homeWrite fn cid d hint bytes s).boot = s.boot := rfl
@[simp] theorem addEntry_mem (fn : Nat) (p : Kept) (cid : Nat) (bytes : List Byte) (s : State) :
    (addEntry fn p cid bytes s).mem = s.mem := rfl
@[simp] theorem addEntry_boot (fn : Nat) (p : Kept) (cid : Nat) (bytes : List Byte) (s : State) :
    (addEntry fn p cid bytes s).boot = s.boot := rfl
@[simp] theorem logPad_mem (fn wg off : Nat) (s : State) : (logPad fn wg off s).mem = s.mem := by
  unfold logPad; (repeat' split) <;> simp
@[simp] theorem logPad_boot (fn wg off : Nat) (s : State) : (logPad fn wg off s).boot = s.boot := by
  unfold logPad; (repeat' split) <;> simp
@[simp] theorem logUndo_mem (fn cid d : Nat) (s : State) :
    (logUndo fn cid d s).mem = s.mem := rfl
@[simp] theorem logUndo_boot (fn cid d : Nat) (s : State) :
    (logUndo fn cid d s).boot = s.boot := rfl
@[simp] theorem tlbTake_mem (fn core va : Nat) (s : State) :
    (tlbTake fn core va s).mem = s.mem := by
  rw [← sectXlat_mem fn core va s]
  unfold tlbTake
  rcases h : sectXlat fn core va s with ⟨_ | e, t⟩ <;> split <;> first | rfl | (rw [← sectXlat_mem fn core va s, h])
@[simp] theorem tlbTake_boot (fn core va : Nat) (s : State) :
    (tlbTake fn core va s).boot = s.boot := by
  rw [← sectXlat_boot fn core va s]
  unfold tlbTake
  rcases h : sectXlat fn core va s with ⟨_ | e, t⟩ <;> split <;> first | rfl | (rw [← sectXlat_boot fn core va s, h])
@[simp] theorem endStopped_mem (fn : Nat) (s : State) :
    (endStopped fn s).mem = s.mem := rfl
@[simp] theorem endStopped_boot (fn : Nat) (s : State) :
    (endStopped fn s).boot = s.boot := rfl
@[simp] theorem endCkptWaits_mem (fn : Nat) (v : Bool) (s : State) :
    (endCkptWaits fn v s).mem = s.mem := rfl
@[simp] theorem endCkptWaits_boot (fn : Nat) (v : Bool) (s : State) :
    (endCkptWaits fn v s).boot = s.boot := rfl
@[simp] theorem abandonCkpt_mem (fn : Nat) (s : State) :
    (abandonCkpt fn s).mem = s.mem := by
  unfold abandonCkpt; split <;> simp
@[simp] theorem abandonCkpt_boot (fn : Nat) (s : State) :
    (abandonCkpt fn s).boot = s.boot := by
  unfold abandonCkpt; split <;> simp
@[simp] theorem raiseHalt_mem (fn code unit : Nat) (note : List Byte) (s : State) :
    (raiseHalt fn code unit note s).mem = s.mem := by
  unfold raiseHalt; split <;> simp
@[simp] theorem raiseHalt_boot (fn code unit : Nat) (note : List Byte) (s : State) :
    (raiseHalt fn code unit note s).boot = s.boot := by
  unfold raiseHalt; split <;> simp
@[simp] theorem coreFault_mem (k code : Nat) (s : State) :
    (coreFault k code s).mem = s.mem := by
  unfold coreFault; split <;> simp
@[simp] theorem coreFault_boot (k code : Nat) (s : State) :
    (coreFault k code s).boot = s.boot := by
  unfold coreFault; split <;> simp

@[simp] theorem integrityHalt_mem (fn unit : Nat) (x : Nat × Nat) (s : State) :
    (integrityHalt fn unit x s).mem = s.mem := (raiseHalt_mem ..).trans (sliceTouch_mem ..)
@[simp] theorem integrityHalt_boot (fn unit : Nat) (x : Nat × Nat) (s : State) :
    (integrityHalt fn unit x s).boot = s.boot := (raiseHalt_boot ..).trans (sliceTouch_boot ..)
@[simp] theorem coreIntegrity_mem (k : Nat) (x : Nat × Nat) (s : State) : (coreIntegrity k x s).mem = s.mem := by
  unfold coreIntegrity; split <;> simp
@[simp] theorem coreIntegrity_boot (k : Nat) (x : Nat × Nat) (s : State) : (coreIntegrity k x s).boot = s.boot := by
  unfold coreIntegrity; split <;> simp
@[simp] theorem orIntegrity_mem (fn unit : Nat) (met : Option (Nat × Nat)) (s : State) :
    (orIntegrity fn unit met s).mem = s.mem := by
  unfold orIntegrity; split <;> simp
@[simp] theorem orIntegrity_boot (fn unit : Nat) (met : Option (Nat × Nat)) (s : State) :
    (orIntegrity fn unit met s).boot = s.boot := by
  unfold orIntegrity; split <;> simp
@[simp] theorem readNote_mem (fn core fuel va n : Nat) (s : State) : (readNote fn core fuel va n s).mem = s.mem := by
  induction fuel generalizing va n s with
  | zero => rfl
  | succ fuel ih => unfold readNote; simp only []; (repeat' split) <;> simp [ih]
@[simp] theorem readNote_boot (fn core fuel va n : Nat) (s : State) : (readNote fn core fuel va n s).boot = s.boot := by
  induction fuel generalizing va n s with
  | zero => rfl
  | succ fuel ih => unfold readNote; simp only []; (repeat' split) <;> simp [ih]
@[simp] theorem readsNote_mem (fn core : Nat) (l : List (Nat × Nat)) (s : State) :
    (readsNote fn core l s).mem = s.mem := foldl_mem (fun _ _ => readNote_mem ..) _ _
@[simp] theorem readsNote_boot (fn core : Nat) (l : List (Nat × Nat)) (s : State) :
    (readsNote fn core l s).boot = s.boot := foldl_boot (fun _ _ => readNote_boot ..) _ _

/-! ### Registers -/

@[simp] theorem writeReg_mem (k : Nat) (named : List Nat) (n : BitVec 8) (regs v : Nat) (td : Bool) (s : State) :
    (writeReg k named n regs v td s).mem = s.mem := by
  unfold writeReg; split <;> first | rfl | (split <;> rfl)
@[simp] theorem writeReg_boot (k : Nat) (named : List Nat) (n : BitVec 8) (regs v : Nat) (td : Bool) (s : State) :
    (writeReg k named n regs v td s).boot = s.boot := by
  unfold writeReg; split <;> first | rfl | (split <;> rfl)
@[simp] theorem writeAll_mem (k : Nat) (F : Form) (vs : List Nat) (s : State) : (writeAll k F vs s).mem = s.mem :=
  foldl_mem (fun _ _ => writeReg_mem ..) _ _
@[simp] theorem writeAll_boot (k : Nat) (F : Form) (vs : List Nat) (s : State) : (writeAll k F vs s).boot = s.boot :=
  foldl_boot (fun _ _ => writeReg_boot ..) _ _

/-! ### Page requests -/

@[simp] theorem takeEntry_mem (die fn stage page va kind : Nat) (s : State) :
    (takeEntry die fn stage page va kind s).2.mem = s.mem := by
  rw [← walkSlices_mem fn va s]
  unfold takeEntry; simp only []; split
  · rfl
  · split <;> rfl
@[simp] theorem takeEntry_boot (die fn stage page va kind : Nat) (s : State) :
    (takeEntry die fn stage page va kind s).2.boot = s.boot := by
  rw [← walkSlices_boot fn va s]
  unfold takeEntry; simp only []; split
  · rfl
  · split <;> rfl
@[simp] theorem parkThread_mem (k fn stage page va kind : Nat) (s : State) :
    (parkThread k fn stage page va kind s).mem = s.mem := by
  rw [← takeEntry_mem (dieOf (coreOf k)) fn stage page va kind s]
  unfold parkThread
  dsimp only
  rcases takeEntry (dieOf (coreOf k)) fn stage page va kind s with ⟨_ | e, t⟩ <;> rfl
@[simp] theorem parkThread_boot (k fn stage page va kind : Nat) (s : State) :
    (parkThread k fn stage page va kind s).boot = s.boot := by
  rw [← takeEntry_boot (dieOf (coreOf k)) fn stage page va kind s]
  unfold parkThread
  dsimp only
  rcases takeEntry (dieOf (coreOf k)) fn stage page va kind s with ⟨_ | e, t⟩ <;> rfl

/-! ### Frames -/

@[simp] theorem logFrame_mem (k : Nat) (old : Thread) (s : State) (n : Nat) : (logFrame k old s n).mem = s.mem := by
  unfold logFrame; (repeat' split) <;> simp
@[simp] theorem logFrame_boot (k : Nat) (old : Thread) (s : State) (n : Nat) : (logFrame k old s n).boot = s.boot := by
  unfold logFrame; (repeat' split) <;> simp
@[simp] theorem accountFrames_mem (k : Nat) (old : Thread) (s : State) : (accountFrames k old s).mem = s.mem := by
  unfold accountFrames
  split
  · rfl
  · split
    · rfl
    · simp only [modThread_mem, modCore_mem]; exact foldl_mem (fun _ _ => logFrame_mem ..) _ _
@[simp] theorem accountFrames_boot (k : Nat) (old : Thread) (s : State) : (accountFrames k old s).boot = s.boot := by
  unfold accountFrames
  split
  · rfl
  · split
    · rfl
    · simp only [modThread_boot, modCore_boot]; exact foldl_boot (fun _ _ => logFrame_boot ..) _ _
@[simp] theorem frameWalk_mem (k : Nat) (t : Thread) (n : Nat) (s : State) : (frameWalk k t n s).mem = s.mem :=
  sectXlat_mem ..
@[simp] theorem frameWalk_boot (k : Nat) (t : Thread) (n : Nat) (s : State) : (frameWalk k t n s).boot = s.boot :=
  sectXlat_boot ..
@[simp] theorem noteMisses_mem (core n : Nat) (s : State) : (noteMisses core n s).mem = s.mem := by
  unfold noteMisses; split <;> rfl
@[simp] theorem noteMisses_boot (core n : Nat) (s : State) : (noteMisses core n s).boot = s.boot := by
  unfold noteMisses; split <;> rfl
@[simp] theorem fillFrames_mem (k : Nat) (t : Thread) (l : List Nat) (s : State) : (fillFrames k t l s).mem = s.mem := by
  unfold fillFrames
  simp only []
  split
  · rfl
  · rw [modThread_mem]; exact (foldl_mem (fun _ _ => by split <;> simp) _ _).trans (noteMisses_mem ..)
@[simp] theorem fillFrames_boot (k : Nat) (t : Thread) (l : List Nat) (s : State) : (fillFrames k t l s).boot = s.boot := by
  unfold fillFrames
  simp only []
  split
  · rfl
  · rw [modThread_boot]; exact (foldl_boot (fun _ _ => by split <;> simp) _ _).trans (noteMisses_boot ..)

@[simp] theorem fillChecked_mem (k : Nat) (t : Thread) (l : List Nat) (s : State) :
    (fillChecked k t l s).mem = s.mem := by
  unfold fillChecked; split <;> simp
@[simp] theorem fillChecked_boot (k : Nat) (t : Thread) (l : List Nat) (s : State) :
    (fillChecked k t l s).boot = s.boot := by
  unfold fillChecked; split <;> simp

@[simp] theorem orderPoint_mem (fn kind point : Nat) (object : DWord) (agent event : Nat) (seq : Option Nat) (s : State) :
    (orderPoint fn kind point object agent event seq s).mem = s.mem := by
  unfold orderPoint; (repeat' split) <;> simp
@[simp] theorem orderPoint_boot (fn kind point : Nat) (object : DWord) (agent event : Nat) (seq : Option Nat) (s : State) :
    (orderPoint fn kind point object agent event seq s).boot = s.boot := by
  unfold orderPoint; (repeat' split) <;> simp
@[simp] theorem loadDone_mem (k : Nat) (t : Thread) (a : Access) (s : State) : (loadDone k t a s).mem = s.mem := by
  unfold loadDone; simp only []; (repeat' split) <;> simp
@[simp] theorem loadDone_boot (k : Nat) (t : Thread) (a : Access) (s : State) : (loadDone k t a s).boot = s.boot := by
  unfold loadDone; simp only []; (repeat' split) <;> simp
@[simp] theorem violationWalk_mem (core fn : Nat) (r : TrapReq) (s : State) :
    (violationWalk core fn r s).mem = s.mem := by
  unfold violationWalk; split <;> simp
@[simp] theorem violationWalk_boot (core fn : Nat) (r : TrapReq) (s : State) :
    (violationWalk core fn r s).boot = s.boot := by
  unfold violationWalk; split <;> simp
@[simp] theorem forgetNotice_mem (k : Nat) (s : State) : (forgetNotice k s).mem = s.mem := rfl
@[simp] theorem forgetNotice_boot (k : Nat) (s : State) : (forgetNotice k s).boot = s.boot := rfl
@[simp] theorem takeTrap_mem (k : Nat) (p : PendingTrap) (s : State) :
    (takeTrap k p s).mem = s.mem := by
  unfold takeTrap; simp only []; (repeat' split) <;> simp
@[simp] theorem takeTrap_boot (k : Nat) (p : PendingTrap) (s : State) :
    (takeTrap k p s).boot = s.boot := by
  unfold takeTrap; simp only []; (repeat' split) <;> simp
@[simp] theorem takeTraps_mem (l : List Trapping) (s : State) :
    (takeTraps l s).mem = s.mem := by
  unfold takeTraps; exact foldl_mem (by intros; simp) _ _
@[simp] theorem takeTraps_boot (l : List Trapping) (s : State) :
    (takeTraps l s).boot = s.boot := by
  unfold takeTraps; exact foldl_boot (by intros; simp) _ _
@[simp] theorem stallTrap_mem (ks : List Nat) (detail : Nat) (s : State) :
    (stallTrap ks detail s).mem = s.mem := by
  unfold stallTrap; simp
@[simp] theorem stallTrap_boot (ks : List Nat) (detail : Nat) (s : State) :
    (stallTrap ks detail s).boot = s.boot := by
  unfold stallTrap; simp
@[simp] theorem traceStop_mem (fn : Nat) (s : State) : (traceStop fn s).mem = s.mem := rfl
@[simp] theorem traceStop_boot (fn : Nat) (s : State) : (traceStop fn s).boot = s.boot := rfl
@[simp] theorem noteOutcome_mem (k fn kind value : Nat) (s : State) :
    (noteOutcome k fn kind value s).mem = s.mem := by
  unfold noteOutcome; simp
@[simp] theorem noteOutcome_boot (k fn kind value : Nat) (s : State) :
    (noteOutcome k fn kind value s).boot = s.boot := by
  unfold noteOutcome; simp

/-! ### Order points and queues of registers -/

@[simp] theorem orderReads_mem (k : Nat) (t : Thread) (F : Form) (s : State) : (orderReads k t F s).mem = s.mem := by
  unfold orderReads; split
  · rfl
  · simp only []
    rw [foldl_mem (fun _ _ => foldl_mem (fun _ _ => orderPoint_mem ..) _ _), foldl_mem (fun _ _ => orderPoint_mem ..)]
@[simp] theorem orderReads_boot (k : Nat) (t : Thread) (F : Form) (s : State) : (orderReads k t F s).boot = s.boot := by
  unfold orderReads; split
  · rfl
  · simp only []
    rw [foldl_boot (fun _ _ => foldl_boot (fun _ _ => orderPoint_boot ..) _ _), foldl_boot (fun _ _ => orderPoint_boot ..)]
@[simp] theorem orderWrites_mem (k : Nat) (t : Thread) (F : Form) (s : State) : (orderWrites k t F s).mem = s.mem := by
  unfold orderWrites; split
  · rfl
  · exact foldl_mem (fun _ _ => orderPoint_mem ..) _ _
@[simp] theorem orderWrites_boot (k : Nat) (t : Thread) (F : Form) (s : State) : (orderWrites k t F s).boot = s.boot := by
  unfold orderWrites; split
  · rfl
  · exact foldl_boot (fun _ _ => orderPoint_boot ..) _ _
@[simp] theorem dropRegion_mem (fn core fuel a n : Nat) (s : State) : (dropRegion fn core fuel a n s).mem = s.mem := by
  induction fuel generalizing a n s with
  | zero => rfl
  | succ fuel ih => unfold dropRegion; split
                    · rfl
                    · simp only [ih]; split <;> simp_all
@[simp] theorem dropRegion_boot (fn core fuel a n : Nat) (s : State) : (dropRegion fn core fuel a n s).boot = s.boot := by
  induction fuel generalizing a n s with
  | zero => rfl
  | succ fuel ih => unfold dropRegion; split
                    · rfl
                    · simp only [ih]; split <;> simp
@[simp] theorem popEffect_mem (t : Thread) (core q : Nat) (word : Word) (s : State) :
    (popEffect t core q word s).mem = s.mem := by
  unfold popEffect
  simp only []
  split
  · split
    · simp
    · split
      · simp
      · split
        · simp only [modCore_mem]; split <;> simp
        · rw [foldl_mem (fun _ _ => dropRegion_mem ..)]; split <;> simp
  · simp
@[simp] theorem popEffect_boot (t : Thread) (core q : Nat) (word : Word) (s : State) :
    (popEffect t core q word s).boot = s.boot := by
  unfold popEffect
  simp only []
  split
  · split
    · simp
    · split
      · simp
      · split
        · simp only [modCore_boot]; split <;> simp
        · rw [foldl_boot (fun _ _ => dropRegion_boot ..)]; split <;> simp
  · simp
@[simp] theorem popQueues_mem (k : Nat) (t : Thread) (reads : List (BitVec 8 × Nat)) (s : State) :
    (popQueues k t reads s).mem = s.mem := by
  refine foldl_mem (fun s q => ?_) _ _
  split
  · rfl
  · split
    · rw [foldl_mem (fun _ _ => popEffect_mem ..)]; rfl
    · rfl
@[simp] theorem popQueues_boot (k : Nat) (t : Thread) (reads : List (BitVec 8 × Nat)) (s : State) :
    (popQueues k t reads s).boot = s.boot := by
  refine foldl_boot (fun s q => ?_) _ _
  split
  · rfl
  · split
    · rw [foldl_boot (fun _ _ => popEffect_boot ..)]; rfl
    · rfl
@[simp] theorem takeSources_mem (k : Nat) (t : Thread) (F : Form) (s : State) : (takeSources k t F s).mem = s.mem := by
  unfold takeSources; split <;> simp
@[simp] theorem takeSources_boot (k : Nat) (t : Thread) (F : Form) (s : State) :
    (takeSources k t F s).boot = s.boot := by
  unfold takeSources; split <;> simp
@[simp] theorem settle_mem (bundle wgs counted issued : List Nat) (pc : DWord) (ord : Nat) (s : State) :
    (settle bundle wgs counted issued pc ord s).mem = s.mem := by
  unfold settle
  split
  · rfl
  · simp only []
    split
    · rfl
    · rw [foldl_mem (fun _ _ => modWg_mem ..)]; rfl
@[simp] theorem settle_boot (bundle wgs counted issued : List Nat) (pc : DWord) (ord : Nat) (s : State) :
    (settle bundle wgs counted issued pc ord s).boot = s.boot := by
  unfold settle
  split
  · rfl
  · simp only []
    split
    · rfl
    · rw [foldl_boot (fun _ _ => modWg_boot ..)]; rfl
@[simp] theorem finishWait_mem (k v : Nat) (s : State) : (finishWait k v s).mem = s.mem := by
  unfold finishWait; split
  · rfl
  · split <;> simp
@[simp] theorem finishWait_boot (k v : Nat) (s : State) : (finishWait k v s).boot = s.boot := by
  unfold finishWait; split
  · rfl
  · split <;> simp

@[simp] theorem complete_mem (k : Nat) (t : Thread) (F : Form) (pc : DWord) (vs : List Nat) (s : State) :
    (complete k t F pc vs s).mem = s.mem := by
  unfold complete; simp
@[simp] theorem beginWaiting_mem (k : Nat) (t : Thread) (F : Form) (v : Wait) (s : State) :
    (beginWaiting k t F v s).mem = s.mem := by
  unfold beginWaiting; simp
@[simp] theorem complete_boot (k : Nat) (t : Thread) (F : Form) (pc : DWord) (vs : List Nat) (s : State) :
    (complete k t F pc vs s).boot = s.boot := by
  unfold complete; simp
@[simp] theorem beginWaiting_boot (k : Nat) (t : Thread) (F : Form) (v : Wait) (s : State) :
    (beginWaiting k t F v s).boot = s.boot := by
  unfold beginWaiting; simp
@[simp] theorem modOp_mem (id : Nat) (f : MemOp → MemOp) (s : State) :
    (modOp id f s).mem = s.mem := rfl
@[simp] theorem modOp_boot (id : Nat) (f : MemOp → MemOp) (s : State) :
    (modOp id f s).boot = s.boot := rfl
@[simp] theorem dropOp_mem (id : Nat) (s : State) :
    (dropOp id s).mem = s.mem := rfl
@[simp] theorem dropOp_boot (id : Nat) (s : State) :
    (dropOp id s).boot = s.boot := rfl
@[simp] theorem pushOp_mem (o : MemOp) (s : State) :
    (pushOp o s).mem = s.mem := rfl
@[simp] theorem pushOp_boot (o : MemOp) (s : State) :
    (pushOp o s).boot = s.boot := rfl
@[simp] theorem refill_mem (o : MemOp) (s : State) :
    (refill o s).mem = s.mem := by
  unfold refill; simp only []; split <;> simp
@[simp] theorem refill_boot (o : MemOp) (s : State) :
    (refill o s).boot = s.boot := by
  unfold refill; simp only []; split <;> simp
@[simp] theorem land_mem (o : MemOp) (s : State) :
    (land o s).mem = s.mem := by
  unfold land; split <;> simp
@[simp] theorem land_boot (o : MemOp) (s : State) :
    (land o s).boot = s.boot := by
  unfold land; split <;> simp
@[simp] theorem landed_mem (o : MemOp) (s : State) : (landed o s).mem = s.mem := by
  unfold landed; split <;> simp
@[simp] theorem landed_boot (o : MemOp) (s : State) : (landed o s).boot = s.boot := by
  unfold landed; split <;> simp
@[simp] theorem dropValue_mem (o : MemOp) (s : State) : (dropValue o s).mem = s.mem := rfl
@[simp] theorem dropValue_boot (o : MemOp) (s : State) : (dropValue o s).boot = s.boot := rfl
@[simp] theorem unpend_mem (o : MemOp) (s : State) :
    (unpend o s).mem = s.mem := rfl
@[simp] theorem unpend_boot (o : MemOp) (s : State) :
    (unpend o s).boot = s.boot := rfl

/-! ### Writes of device memory: the canonical form stays -/

theorem keeps_homeWrite (fn cid d hint : Nat) (bytes : List Byte) (s : State) :
    Keeps s (homeWrite fn cid d hint bytes s) :=
  ⟨rfl, fun w => wf_memWrite w d bytes⟩
theorem keeps_lineWrite (fn cid : Nat) (s : State) (p : Nat × List Byte) : Keeps s (lineWrite fn cid s p) := by
  refine Keeps.trans ?_ (keeps_homeWrite ..)
  split <;> exact .of_eq rfl rfl
theorem keeps_loggedWrite (fn cid d : Nat) (bytes : List Byte) (s : State) :
    Keeps s (loggedWrite fn cid d bytes s) := keeps_foldl (keeps_lineWrite fn cid) _ _
theorem keeps_areaWrite (fn a : Nat) (bytes : List Byte) (s : State) : Keeps s (areaWrite fn a bytes s) :=
  ⟨rfl, fun w => wf_memWrite w a bytes⟩
theorem keeps_postUndo (fn : Nat) (s : State) : Keeps s (postUndo fn s) :=
  (keeps_foldl (fun _ _ => keeps_areaWrite ..) _ s).trans (.of_eq rfl rfl)
theorem keeps_postLogs (s : State) : Keeps s (postLogs s) := keeps_foldl (fun _ _ => keeps_postUndo ..) _ s
theorem keeps_frameBack (k : Nat) (t : Thread) (s : State) (n : Nat) : Keeps s (frameBack k t s n) := by
  unfold frameBack; split
  · exact .of_eq (orIntegrity_mem ..) (orIntegrity_boot ..)
  · exact (Keeps.of_eq (sectXlat_mem ..) (sectXlat_boot ..)).trans (keeps_homeWrite ..)
theorem keeps_cleanFrame (k : Nat) (s : State) : Keeps s (cleanFrame k s) := by
  unfold cleanFrame; split
  · exact .refl s
  · exact (keeps_foldl (fun _ _ => keeps_frameBack ..) _ s).trans (.of_eq rfl rfl)

/-- An engine's write that succeeds. -/
theorem keeps_engineWrite {fn core fuel va : Nat} {l : List Byte} {s t : State}
    (h : engineWrite fn core fuel va l s = .inr t) : Keeps s t := by
  induction fuel generalizing va l s with
  | zero => cases h; exact .refl _
  | succ fuel ih =>
    unfold engineWrite at h
    split at h
    · cases h; exact .refl _
    · simp only [] at h
      split at h
      · split at h
        · cases h
        · exact (Keeps.of_eq (sectXlat_mem fn core va s) (sectXlat_boot fn core va s)).trans
            ((keeps_loggedWrite ..).trans (ih h))
      · cases h

theorem keeps_traceRecord (fn core : Nat) (bytes : List Byte) (s : State) : Keeps s (traceRecord fn core bytes s) := by
  unfold traceRecord
  simp only []
  split
  · exact .refl s
  · split
    · exact .of_eq rfl rfl
    · split
      · exact .of_eq (by simp) (by simp)
      · rename_i s1 h1
        split
        · exact .of_eq (by simp) (by simp)
        · rename_i s2 h2
          exact (keeps_engineWrite h1).trans ((keeps_engineWrite h2).trans (.of_eq rfl rfl))

/-! ### Performing operations and ending launches -/

theorem keeps_performPad (o : MemOp) (s : State) : Keeps s (performPad o s).1 := by
  unfold performPad
  split
  · exact .refl s
  · simp only []
    split <;> exact .of_eq (by simp) (by simp)
theorem keeps_homeLoad (o : MemOp) (s : State) : Keeps s (homeLoad o s) := by
  unfold homeLoad; simp only []
  split <;> exact .of_eq (by simp) (by simp)
@[simp] theorem l1Atomic_mem (o : MemOp) (v : Nat) (s : State) : (l1Atomic o v s).mem = s.mem :=
  (foldl_mem (fun _ _ => l1Store_mem ..) _ _).trans (l1Store_mem ..)
@[simp] theorem l1Atomic_boot (o : MemOp) (v : Nat) (s : State) : (l1Atomic o v s).boot = s.boot :=
  (foldl_boot (fun _ _ => l1Store_boot ..) _ _).trans (l1Store_boot ..)
theorem keeps_homeStore (o : MemOp) (old v : Nat) (s : State) : Keeps s (homeStore o old v s) := by
  unfold homeStore; simp only []
  have h : ∀ w, Keeps s (homeWrite o.fn o.cid o.addr 0 (toBytes o.size w)
      (if signatureRace s o then { s with freeCtr := s.freeCtr + 1 } else s)) := fun w =>
    Keeps.trans (by split <;> exact .of_eq rfl rfl) (keeps_homeWrite ..)
  split
  · exact h _
  · exact (h _).trans (.of_eq (l1Atomic_mem ..) (l1Atomic_boot ..))
theorem keeps_homeUpdate (o : MemOp) (s : State) : Keeps s (homeUpdate o s) := by
  unfold homeUpdate; dsimp only
  split
  · split <;> exact .of_eq (by simp) (by simp)
  · refine Keeps.trans ?_ (keeps_homeStore ..)
    split <;> exact .of_eq (by simp) (by simp)
theorem keeps_performHome (o : MemOp) (s : State) : Keeps s (performHome o s) := by
  unfold performHome; split
  · exact .of_eq (integrityHalt_mem ..) (integrityHalt_boot ..)
  · split
    · exact keeps_homeUpdate o s
    · exact keeps_homeLoad o s
theorem keeps_completeLaunch (l : Launch) (status : Nat) (s : State) : Keeps s (completeLaunch l status s) := by
  unfold completeLaunch; split
  · exact .refl s
  · split
    · rename_i t ht; exact keeps_engineWrite ht
    · exact .of_eq (by simp) (by simp)
theorem keeps_endLaunches (fn : Nat) (s : State) : Keeps s (endLaunches fn s) := by
  unfold endLaunches
  refine keeps_foldl (fun s p => ?_) _ s
  refine Keeps.trans ?_ (keeps_completeLaunch ..)
  exact .of_eq rfl rfl

/-! ### Unit images -/

@[simp] theorem logUnit_mem (fn sect : Nat) (l : List Nat) (s : State) : (logUnit fn sect l s).mem = s.mem :=
  foldl_mem (fun _ _ => addEntry_mem ..) _ _
@[simp] theorem logUnit_boot (fn sect : Nat) (l : List Nat) (s : State) : (logUnit fn sect l s).boot = s.boot :=
  foldl_boot (fun _ _ => addEntry_boot ..) _ _
/-- A change of bulk state writes no memory. -/
theorem changeBulk_kept {fn sect : Nat} {f : Section → Section} {s t : State} (h : changeBulk fn sect f s = some t) :
    t.mem = s.mem ∧ t.boot = s.boot := by
  unfold changeBulk at h
  simp only [] at h
  split at h
  · cases h; simp
  · cases h
theorem keeps_saveUnit (sect : Nat) (s : State) : Keeps s (saveUnit sect s) := by
  unfold saveUnit; split
  · exact .refl s
  · split
    · exact .refl s
    · split
      · exact .of_eq (integrityHalt_mem ..) (integrityHalt_boot ..)
      · exact keeps_foldl (fun _ _ => keeps_areaWrite ..) _ s
theorem keeps_claimUnit (fn sect : Nat) (s : State) : Keeps s (claimUnit fn sect s) := by
  unfold claimUnit; split
  · exact .refl s
  · refine (keeps_saveUnit sect s).trans ?_
    simp only []
    split
    · exact .of_eq rfl rfl
    · split
      · exact .of_eq (integrityHalt_mem ..) (integrityHalt_boot ..)
      · exact .of_eq rfl rfl

/-! ### Command queues -/

@[simp] theorem modQueueOf_mem (q : QRef) (f : List Cmd → List Cmd) (s : State) :
    (modQueueOf q f s).mem = s.mem := by
  unfold modQueueOf; split <;> simp
@[simp] theorem modQueueOf_boot (q : QRef) (f : List Cmd → List Cmd) (s : State) :
    (modQueueOf q f s).boot = s.boot := by
  unfold modQueueOf; split <;> simp
@[simp] theorem setSlot_mem (cohort n v : Nat) (s : State) :
    (setSlot cohort n v s).mem = s.mem := rfl
@[simp] theorem setSlot_boot (cohort n v : Nat) (s : State) :
    (setSlot cohort n v s).boot = s.boot := rfl
@[simp] theorem enqueue_mem (q : QRef) (c : Cmd) (s : State) :
    (enqueue q c s).mem = s.mem := by
  unfold enqueue; simp
@[simp] theorem enqueue_boot (q : QRef) (c : Cmd) (s : State) :
    (enqueue q c s).boot = s.boot := by
  unfold enqueue; simp
@[simp] theorem modHead_mem (q : QRef) (f : Cmd → Cmd) (s : State) :
    (modHead q f s).mem = s.mem := by
  unfold modHead; simp
@[simp] theorem modHead_boot (q : QRef) (f : Cmd → Cmd) (s : State) :
    (modHead q f s).boot = s.boot := by
  unfold modHead; simp
@[simp] theorem unitMoved_mem (q : QRef) (s : State) : (unitMoved q s).mem = s.mem := rfl
@[simp] theorem unitMoved_boot (q : QRef) (s : State) : (unitMoved q s).boot = s.boot := rfl
@[simp] theorem doneHead_mem (q : QRef) (status value : Nat) (s : State) :
    (doneHead q status value s).mem = s.mem := (unitMoved_mem ..).trans (modHead_mem ..)
@[simp] theorem doneHead_boot (q : QRef) (status value : Nat) (s : State) :
    (doneHead q status value s).boot = s.boot := (unitMoved_boot ..).trans (modHead_boot ..)
@[simp] theorem linesDone_mem (fn agent : Nat) (l : List Nat) (s : State) :
    (linesDone fn agent l s).mem = s.mem := by
  unfold linesDone; split
  · rfl
  · exact foldl_mem (fun _ _ => orderPoint_mem ..) _ _
@[simp] theorem linesDone_boot (fn agent : Nat) (l : List Nat) (s : State) :
    (linesDone fn agent l s).boot = s.boot := by
  unfold linesDone; split
  · rfl
  · exact foldl_boot (fun _ _ => orderPoint_boot ..) _ _
@[simp] theorem parkHead_mem (q : QRef) (stage page va kind : Nat) (s : State) :
    (parkHead q stage page va kind s).mem = s.mem := by
  rw [← takeEntry_mem (dieOf (queueCore s q)) (queueFn s q) stage page va kind s]
  unfold parkHead
  dsimp only
  rcases takeEntry (dieOf (queueCore s q)) (queueFn s q) stage page va kind s with ⟨_ | e, t⟩ <;> exact modHead_mem ..
@[simp] theorem parkHead_boot (q : QRef) (stage page va kind : Nat) (s : State) :
    (parkHead q stage page va kind s).boot = s.boot := by
  rw [← takeEntry_boot (dieOf (queueCore s q)) (queueFn s q) stage page va kind s]
  unfold parkHead
  dsimp only
  rcases takeEntry (dieOf (queueCore s q)) (queueFn s q) stage page va kind s with ⟨_ | e, t⟩ <;> exact modHead_boot ..
@[simp] theorem stopHead_mem (q : QRef) (status value : Nat) (x : EngStop) (s : State) :
    (stopHead q status value x s).mem = s.mem := by
  unfold stopHead; split <;> simp
@[simp] theorem stopHead_boot (q : QRef) (status value : Nat) (x : EngStop) (s : State) :
    (stopHead q status value x s).boot = s.boot := by
  unfold stopHead; split <;> simp
@[simp] theorem pushWord_mem (q : QRef) (c : Cmd) (status value : Nat) (s : State) :
    (pushWord q c status value s).mem = s.mem := by
  unfold pushWord wakeIdle; repeat' (first | rfl | split)
@[simp] theorem pushWord_boot (q : QRef) (c : Cmd) (status value : Nat) (s : State) :
    (pushWord q c status value s).boot = s.boot := by
  unfold pushWord wakeIdle; repeat' (first | rfl | split)

/-! ### An engine's reads and writes -/

theorem keeps_lineStore (fn agent cid : Nat) (s : State) (p : Nat × List Byte) : Keeps s (lineStore fn agent cid s p) := by
  unfold lineStore
  simp only []
  split
  · exact keeps_lineWrite ..
  · exact (keeps_lineWrite ..).trans (.of_eq (orderPoint_mem ..) (orderPoint_boot ..))
/-- An engine's read writes no memory. -/
theorem engReadDev_kept {e : Eng} {fuel va n : Nat} {s t : State} {l : List Byte}
    (h : engReadDev e fuel va n s = .inr (l, t)) : t.mem = s.mem ∧ t.boot = s.boot := by
  induction fuel generalizing va n s t l with
  | zero => cases h; exact ⟨rfl, rfl⟩
  | succ fuel ih =>
    unfold engReadDev at h
    split at h
    · cases h; exact ⟨rfl, rfl⟩
    · simp only [] at h
      split at h
      · cases h
      · cases h
      · cases h
      · split at h
        · cases h
        · split at h
          · cases h
          · split at h
            · cases h
            · rename_i u hu
              cases h
              have := ih hu
              simpa using this
theorem keeps_engWriteDev {e : Eng} {fuel va : Nat} {l : List Byte} {s t : State}
    (h : engWriteDev e fuel va l s = .inr t) : Keeps s t := by
  induction fuel generalizing va l s with
  | zero => cases h; exact .refl _
  | succ fuel ih =>
    unfold engWriteDev at h
    split at h
    · cases h; exact .refl _
    · simp only [] at h
      split at h
      · cases h
      · cases h
      · cases h
      · split at h
        · cases h
        · split at h
          · cases h
          split at h
          · cases h
          · exact (Keeps.of_eq (sectXlat_mem e.fn e.core va s) (sectXlat_boot e.fn e.core va s)).trans
              ((keeps_foldl (fun _ _ => keeps_lineStore ..) _ _).trans (ih h))
theorem keeps_engPut {e : Eng} {wg va : Nat} {l : List Byte} {s t : State} (h : engPut e wg va l s = .inr t) :
    Keeps s t := by
  unfold engPut at h
  split at h
  · split at h
    · cases h
    · (repeat' split at h) <;> first
        | cases h; done
        | (cases h
           exact (Keeps.of_eq (foldl_mem (fun _ _ => logPad_mem ..) _ _) (foldl_boot (fun _ _ => logPad_boot ..) _ _)).trans
             (.of_eq rfl rfl))
  · exact keeps_engWriteDev h
@[simp] theorem leaveCounters_mem (c : Cmd) (s : State) :
    (leaveCounters c s).mem = s.mem := by
  unfold leaveCounters; repeat' (first | rfl | exact foldl_mem (fun _ _ => modQueueOf_mem ..) _ _ | (refine foldl_mem (fun _ _ => ?_) _ _) | split)
@[simp] theorem leaveCounters_boot (c : Cmd) (s : State) :
    (leaveCounters c s).boot = s.boot := by
  unfold leaveCounters; repeat' (first | rfl | exact foldl_boot (fun _ _ => modQueueOf_boot ..) _ _ | (refine foldl_boot (fun _ _ => ?_) _ _) | split)
@[simp] theorem latchAcp_mem (c : Cmd) (status : Nat) (s : State) :
    (latchAcp c status s).mem = s.mem := by
  unfold latchAcp; repeat' (first | rfl | split)
@[simp] theorem latchAcp_boot (c : Cmd) (status : Nat) (s : State) :
    (latchAcp c status s).boot = s.boot := by
  unfold latchAcp; repeat' (first | rfl | split)
@[simp] theorem leaveFence_mem (s : State) (n : Nat) (qs : List QRef) :
    (leaveFence s n qs).mem = s.mem := by
  unfold leaveFence; simp only []
  split
  · exact foldl_mem (fun _ _ => (modQueueOf_mem ..).trans (unitMoved_mem ..)) _ _
  · rfl
@[simp] theorem leaveFence_boot (s : State) (n : Nat) (qs : List QRef) :
    (leaveFence s n qs).boot = s.boot := by
  unfold leaveFence; simp only []
  split
  · exact foldl_boot (fun _ _ => (modQueueOf_boot ..).trans (unitMoved_boot ..)) _ _
  · rfl
@[simp] theorem reapCohort_mem (c : Nat) (s : State) :
    (reapCohort c s).mem = s.mem := by
  unfold reapCohort; repeat' (first | rfl | exact foldl_mem (fun _ _ => modQueueOf_mem ..) _ _ | (refine foldl_mem (fun _ _ => ?_) _ _) | split)
@[simp] theorem reapCohort_boot (c : Nat) (s : State) :
    (reapCohort c s).boot = s.boot := by
  unfold reapCohort; repeat' (first | rfl | exact foldl_boot (fun _ _ => modQueueOf_boot ..) _ _ | (refine foldl_boot (fun _ _ => ?_) _ _) | split)
/-- The end of a workgroup may be the end of its launch, whose completion word is written. -/
theorem keeps_reapWg (g : Nat) (s : State) : Keeps s (reapWg g s) := by
  unfold reapWg
  split
  · exact .refl s
  · simp only []
    split
    · exact .refl s
    · refine Keeps.trans ?_ (keeps_endLaunches ..)
      exact .of_eq (by rw [settlePool_mem, reapCohort_mem]; rfl) (by rw [settlePool_boot, reapCohort_boot]; rfl)
theorem keeps_reapOwners (q : QRef) (s : State) : Keeps s (reapOwners q s) := by
  unfold reapOwners
  split <;> first
    | exact keeps_reapWg ..
    | exact keeps_foldl (fun _ _ => keeps_reapWg ..) _ _

end Sys2Proof.Machine
end

