-- ==== Sys2Proof/Tests/Slice0.lean ====
section
/-! SUPPORT. Tests, and witnesses that the hypotheses of the statements can be met. Expected results come
from the manual's encodings, tables and examples or from hand calculation with its rules. -/

set_option Elab.async false

namespace Sys2Proof.Tests
open Sys2Proof Sys2Proof.Machine

/-! ### A small machine: one thread of one workgroup of function 1 on core 0 -/

/-- Fields of a first word of form 00 with an unguarded instruction (R31). -/
def fl (dst sa sb sc mod : Nat) : Fields :=
  ⟨0, 7, false, false, false, false, false, false, BitVec.ofNat 8 dst, BitVec.ofNat 8 sa, BitVec.ofNat 8 sb,
    BitVec.ofNat 8 sc, BitVec.ofNat 11 mod, 0, 0⟩

/-- The same with one extension word. -/
def fx (dst sa sb sc mod : Nat) (e : DWord) : Fields :=
  { fl dst sa sb sc mod with form := 0b10, ext1 := e }

/-- A thread whose first registers hold some words. -/
def thr (regs : List Word) : Thread := { placedThread with frame := regs ++ List.replicate 32 0, fsize := 32 }

/-- The machine with a thread and a workgroup; the thread issues. -/
def mach (t : Thread) (w : Workgroup) : State :=
  { placeWord State.reset 64 0 with agenda := [], issue := [0], threads := [(0, t)], wgs := [(0, w)] }

/-- A machine whose management function answers. -/
def up (s : State) : State :=
  { s.modVf 0 (fun v => { v with addr := 1 }) with boot := { s.boot with up := true } }

/-- An issue of an instruction by that thread, on a state. -/
def issOn (s : State) (t : Thread) (w : Workgroup) (i : Instr) : Issue :=
  ⟨s, 0, t, w, (programForm i).getD (formOf (fl 0 0 0 0 0) { modOk := true })⟩

def iss (t : Thread) (w : Workgroup) (i : Instr) : Issue := issOn (mach t w) t w i

/-- Whether an issue is ready, as far as that can be computed without comparing threads. -/
def readyB (x : Issue) (i : Instr) : Bool :=
  (programForm i).isSome && (x.F.check x.t.fsize).isNone && !isPendP x.t x.F.guard.1
    && !(predAt x.t x.F.guard.1 == x.F.guard.2) && !(x.F.predR ++ x.F.predW).any (isPendP x.t)
    && !waitsForLoad x.F x.t x.w && !waitsForFill x.F x.t && orderedRegs x.s x.k x.t x.F
    && frameRoom x.s x.k x.t (frameWrites x.F x.t) && !logSpent x.s x.t.fn
    && !banksBusy x.s x.k (operandGrans x.s x.k x.t x.F) && x.t.held.isNone && (qCheck x.F x.s x.w x.t).isNone

theorem issOn_of {s : State} {t : Thread} {w : Workgroup} {i : Instr} (h1 : s.issue = [0])
    (h2 : look 0 s.threads = some t) (h3 : look t.wg s.wgs = some w)
    (h : readyB (issOn s t w i) i = true) : (issOn s t w i).Of i := by
  simp only [readyB, Bool.and_eq_true, Bool.not_eq_true', Option.isNone_iff_eq_none] at h
  obtain ⟨⟨⟨⟨⟨⟨⟨⟨⟨⟨⟨⟨h0, a⟩, b⟩, c⟩, d⟩, e⟩, f⟩, g⟩, room⟩, log⟩, bank⟩, l⟩, m⟩ := h
  refine ⟨?_, h1, h2, h3, a, b, c, d, e, f, g, room, log, bank, l, m⟩
  obtain ⟨F, hF⟩ := Option.isSome_iff_exists.mp h0
  simp [issOn, hF]

theorem iss_of {t : Thread} {w : Workgroup} {i : Instr} (h3 : look t.wg (mach t w).wgs = some w)
    (h : readyB (iss t w i) i = true) : (iss t w i).Of i := issOn_of rfl rfl h3 h

/-! ### One legal instruction of every kind -/

def samples0 : List Instr :=
  [Instr.iadd (fl 4 5 6 0xF8 0x140), Instr.isub (fl 4 5 6 0xF8 0x140), Instr.iaddc (fl 4 5 6 0xF8 0x1C4),
   Instr.isubb (fl 4 5 6 0xF8 0x1C4), Instr.imul (fl 4 5 6 0xF8 0x140), Instr.imulh (fl 4 5 6 0xF8 0x140),
   Instr.imad (fl 4 5 6 7 0x140), Instr.imadw (fl 4 6 7 8 0x140), Instr.idiv (fl 4 5 6 0xF8 0x140),
   Instr.irem (fl 4 5 6 0xF8 0x141), Instr.imin (fl 4 5 6 0xF8 0x140), Instr.imax (fl 4 5 6 0xF8 0x140),
   Instr.iabs (fl 4 5 0xF8 0xF8 0x140), Instr.ineg (fl 4 5 0xF8 0xF8 0x140), Instr.and (fl 4 5 6 0xF8 0x40),
   Instr.or (fl 4 5 6 0xF8 0x40), Instr.xor (fl 4 5 6 0xF8 0x40), Instr.andn (fl 4 5 6 0xF8 0x40), Instr.orn (fl 4 5 6 0xF8 0x40)] ++
  [Instr.blut (fl 4 5 6 7 0xCA), Instr.shl (fl 4 5 6 0xF8 0x40), Instr.shr (fl 4 5 6 0xF8 0x40), Instr.sar (fl 4 5 6 0xF8 0x40),
   Instr.dsh (fl 4 5 6 7 0x40), Instr.bfx (fl 4 5 6 0xF8 0x1C0), Instr.bfi (fl 4 5 6 7 0x40), Instr.popc (fl 4 5 0xF8 0xF8 0x40),
   Instr.clz (fl 4 5 0xF8 0xF8 0x40), Instr.brev (fl 4 5 0xF8 0xF8 0x40), Instr.prmb (fl 4 5 6 7 0x40),
   Instr.icmp (fl 1 5 6 0xF8 0x140), Instr.sel (fl 4 5 6 0xF8 0x44), Instr.mov (fl 4 5 0xF8 0xF8 0x40),
   Instr.movi (fl 4 0 0 5 0x440), Instr.lea (fl 4 6 8 1 0), Instr.movs (fl 4 0xF8 0xF8 0xF8 0x00), Instr.plog (fl 3 1 2 7 0x88),
   Instr.pget (fl 4 0xF8 0xF8 0xF8 0), Instr.pset (fl 0xF8 5 0xF8 0xF8 2)]

def samples1 : List Instr :=
  [Instr.bra (fl 0 0 0 0 0), Instr.brx (fl 0xF8 6 0xF8 0xF8 0), Instr.call (fl 0 0 0 0 0), Instr.callx (fl 0xF8 6 0xF8 0xF8 0),
   Instr.ret (fl 0xF8 0xF8 0xF8 0xF8 0), Instr.ret (fl 0xF8 6 0xF8 0xF8 0), Instr.loop (fl 0xF8 5 0 4 0), Instr.endl (fl 0xF8 0xF8 0xF8 0xF8 0),
   Instr.exit (fl 0xF8 0xF8 0xF8 0xF8 0), Instr.nop (fl 0xF8 0xF8 0xF8 0xF8 0), Instr.fgrow (fl 0xF8 0xF8 0xF8 8 0),
   Instr.fshrk (fl 0xF8 0xF8 0xF8 8 0), Instr.ocfil (fl 0xF8 5 0xF8 0xF8 0), Instr.ocdrop (fl 0xF8 5 0xF8 0xF8 0),
   Instr.ocsync (fl 0xF8 0xF8 0xF8 0xF8 0), Instr.pshrk (fl 0xF8 5 0xF8 0xF8 0), Instr.pgrow (fl 0xF8 5 0xF8 0xF8 0),
   Instr.pqry (fl 4 0xF8 0xF8 0xF8 1), Instr.trap (fl 0xF8 0xF8 1 2 0), Instr.bkpt (fl 0xF8 0xF8 1 2 0),
   Instr.tret (fl 0xF8 0xF8 0xF8 0xF8 0), Instr.ckpt (fl 0xF8 0xF8 0xF8 0xF8 0), Instr.ckpt (fl 0xF8 0xF8 0xF8 0xF8 5)] ++
  [Instr.srd (fl 4 0xF8 0 0 0), Instr.swr (fl 0xF8 5 0 0 0), Instr.tmark (fl 0xF8 5 0 7 0), Instr.csumr (fl 4 0xF8 0xF8 0xF8 0),
   Instr.idle (fl 0xF8 5 0xF8 0xF8 0), Instr.nput (fl 0xF8 6 8 0xF8 0), Instr.nget (fl 0xF8 6 8 0xF8 0), Instr.nsig (fl 0xF8 6 8 0xF8 0),
   Instr.nwait (fl 4 6 8 0xF8 0), Instr.vswpt (fl 0xF8 0xF8 0xF8 0xF8 3)]

def samples2 : List Instr :=
  [Instr.fadd (fl 4 5 6 0xF8 0x25C), Instr.fsub (fl 4 5 6 0xF8 0x25C), Instr.fmul (fl 4 5 6 0xF8 0x25C), Instr.ffma (fl 4 5 6 7 0x25C),
   Instr.fmin (fl 4 5 6 0xF8 0x25C), Instr.fmax (fl 4 5 6 0xF8 0x25C), Instr.fcmp (fl 1 5 6 0xF8 0x240), Instr.fcls (fl 4 5 0xF8 0xF8 0x25C),
   Instr.frcp (fl 4 5 0xF8 0xF8 0x25C), Instr.frsq (fl 4 5 0xF8 0xF8 0x25C), Instr.fsqrt (fl 4 5 0xF8 0xF8 0x25C),
   Instr.fdiv (fl 4 5 6 0xF8 0x25C), Instr.fex2 (fl 4 5 0xF8 0xF8 0x25C), Instr.flg2 (fl 4 5 0xF8 0xF8 0x25C),
   Instr.fsin (fl 4 5 0xF8 0xF8 0x25C), Instr.fcos (fl 4 5 0xF8 0xF8 0x25C), Instr.frnd (fl 4 5 0xF8 0xF8 0x25C)] ++
  [Instr.f2i (fl 4 5 0xF8 0xF8 0x15C), Instr.i2f (fl 4 5 0xF8 0xF8 0x15C), Instr.f2f (fl 4 5 0xF8 0xF8 0x15C),
   Instr.pkadd (fl 4 5 6 0xF8 0x21C), Instr.pkmul (fl 4 5 6 0xF8 0x21C), Instr.pkfma (fl 4 5 6 7 0x21C), Instr.dadd (fl 4 6 8 0xF8 0x27C),
   Instr.dmul (fl 4 6 8 0xF8 0x27C), Instr.dfma (fl 4 6 8 10 0x27C), Instr.dcmp (fl 1 6 8 0xF8 0x260), Instr.bpack (fl 4 8 5 0xF8 0x5C),
   Instr.bpext (fl 4 8 5 0xF8 0x144), Instr.sclq (fl 4 5 6 0xF8 0x11C),
   Instr.pairWord ⟨1, 2, 3, false, true, false, 0⟩ ⟨31, 0xF8, 0xF8, false, false, false, 0⟩]

def samples3 : List Instr :=
  [Instr.ld (fl 4 6 8 1 0x10), Instr.st (fl 4 6 8 1 0x10), Instr.atom (fl 4 6 5 1 0x00), Instr.acas (fl 4 6 5 7 0x00),
   Instr.red (fl 0xF8 6 5 1 0x00), Instr.fence (fl 0xF8 0xF8 0xF8 0xF8 0x280), Instr.fenceCode (fl 0xF8 0xF8 0xF8 0xF8 0),
   Instr.pref (fl 0xF8 6 8 1 0), Instr.ldem (fl 0xF8 6 8 1 0), Instr.rclean (fl 0xF8 6 5 1 0x80), Instr.rinv (fl 0xF8 6 5 1 0x80),
   Instr.bar (fl 0xF8 0xF8 0xF8 0xF8 3), Instr.bara (fl 0xF8 0xF8 0xF8 0xF8 3), Instr.barw (fl 0xF8 0xF8 0xF8 0xF8 3),
   Instr.redh (fl 0xF0 5 6 7 0x140), Instr.hget (fl 0xC4 0xF0 0xC5 0xF8 0x40), Instr.pcoll (fl 1 2 5 0xF8 0),
   Instr.lxch (fl 4 5 6 7 0x40), Instr.matchLanes (fl 4 5 6 0xF8 0x40), Instr.pause (fl 0xF8 5 0xF8 0xF8 0),
   Instr.suspend (fl 0xF8 5 0 4 1), Instr.evadd (fl 4 5 0xF8 0xF8 2), Instr.evget (fl 4 0xF8 0xF8 0xF8 2)] ++
  [Instr.cdecl (fl 0xF8 5 0xF8 0xF8 2), Instr.acp (fl 0xF8 6 8 5 0x00), Instr.tagw (fl 0xF8 5 0xF8 0xF8 1),
   Instr.cpy (fl 1 6 0xF8 0xF8 0), Instr.wptr (fl 4 0xF8 0xF8 0xF8 1), Instr.scpy (fl 0x10 6 8 0xF8 0), Instr.mldw (fl 0x10 6 8 0xF8 0),
   Instr.mswp (fl 0x10 0xF8 0xF8 0xF8 0), Instr.mmul (fl 0x10 6 8 0xF8 0), Instr.mout (fl 0x10 6 8 0xF8 0),
   Instr.mzero (fl 0x10 0xF8 0xF8 0xF8 0), Instr.qfence (fl 0xF8 0xF8 0xF8 0xF8 3), Instr.guard (fl 0xF8 0xF8 0xF8 0xF8 3),
   Instr.gres (fl 0xF8 5 0xF8 0xF8 3), Instr.wait (fl 0 0 0 0 0), Instr.tkpush (fl 1 6 0xF8 0 2), Instr.tkpop (fl 0xF8 5 0xF8 0xF8 2),
   Instr.tkdone (fl 1 0xF8 0xF8 0xF8 0)] ++
  [Instr.sqcfg (fl 0xF8 6 0xF8 0xF8 0), Instr.sqsig (fl 0xF8 0xF8 0xF8 0xF8 0), Instr.sqcmp (fl 0xF8 0xF8 0xF8 0xF8 0),
   Instr.sqmap (fl 0xF8 6 0xF8 0xF8 0), Instr.sqstep (fl 0xF8 0xF8 0xF8 0xF8 0)]

def samples : List Instr := samples0 ++ samples1 ++ samples2 ++ samples3


/-- Whether a thread whose registers hold 0 can issue each instruction of a list. -/
def okAll (l : List Instr) : Bool := l.all (fun i => readyB (iss (thr []) placedWg i) i)

theorem of_okAll {l : List Instr} (h : okAll l = true) {i : Instr} (hi : i ∈ l) :
    (iss (thr []) placedWg i).Of i := iss_of rfl (List.all_eq_true.mp h i hi)

/-- A thread can issue each kind of instruction: what the statements of results ask for. -/
theorem witness_samples0 : okAll samples0 = true := by decide +kernel
theorem witness_samples1 : okAll samples1 = true := by decide +kernel
theorem witness_samples2 : okAll samples2 = true := by decide +kernel
theorem witness_samples3 : okAll samples3 = true := by decide +kernel

/-! ### Witnesses: program instructions on operands that meet the statements' conditions -/

theorem thr_ocOk (l : List Word) : (thr l).OcOk := ⟨by simp [thr],
  by simp [thr, placedThread, newThread], by simp [thr, placedThread, newThread],
  by simp [thr, placedThread, newThread]⟩

/-- Registers of the witnesses: g5 = 3, g6:g7 and g8:g9 address pairs. -/
def r6 (lo hi : Word) : Thread := thr [0, 0, 0, 0, 0, 3, lo, hi, 0, 0]

theorem witness_IntegerArithmetic : (iss (thr []) placedWg (Instr.iadd (fl 4 5 6 0xF8 0x140))).Of
    (Instr.iadd (fl 4 5 6 0xF8 0x140)) ∧ 10 ∈ arithTypes :=
  ⟨iss_of rfl (by decide +kernel), by decide⟩

def wWord : Issue := iss (thr [0, 0, 0, 0, 0, 0xFFFFFFFF, 1]) placedWg (Instr.iadd (fl 4 5 6 0xF8 0x140))
theorem witness_WordArithmetic : wWord.Of (Instr.iadd (fl 4 5 6 0xF8 0x140)) ∧ wWord.t.OcOk ∧
    wWord.a = (0xFFFFFFFF : Word).toNat ∧ wWord.b = (1 : Word).toNat ∧
    mTYPE (fl 4 5 6 0xF8 0x140) = 10 ∧ mSAT (fl 4 5 6 0xF8 0x140) = false ∧
    regClass (fl 4 5 6 0xF8 0x140).dst = .g ∧ (fl 4 5 6 0xF8 0x140).td = false :=
  ⟨iss_of rfl (by decide +kernel), thr_ocOk _, by decide +kernel, by decide +kernel, by decide⟩

/-- A zero divisor with `.chk`, and a division without. -/
theorem witness_CarryAndDivision :
    (let f := fl 4 5 6 0xF8 0x141
     let x := iss (thr []) placedWg (Instr.idiv f)
     readyB x (Instr.idiv f) = true ∧ mFZ f = true ∧ readInt (mTYPE f) x.b = 0) ∧
    (let f := fl 4 5 6 0xF8 0x140
     let x := iss (thr []) placedWg (Instr.irem f)
     readyB x (Instr.irem f) = true ∧ mFZ f = false) := by decide +kernel

theorem witness_ShiftsAndFields : okAll [Instr.shl (fl 4 5 6 0xF8 0x40)] = true ∧ 0 < 32 ∧ 32 ≤ 32 := by
  decide +kernel

/-- Targets beyond the address space, misaligned and sound; a direct branch. -/
theorem witness_Branches :
    (let x := iss (r6 0 0x02000000) placedWg (Instr.brx (fl 0xF8 6 0xF8 0xF8 0))
     readyB x (Instr.brx (fl 0xF8 6 0xF8 0xF8 0)) = true ∧ 2 ^ 57 = x.a) ∧
    (let x := iss (r6 0xFFFFFFFC 0x01FFFFFF) placedWg (Instr.callx (fl 0xF8 6 0xF8 0xF8 0))
     readyB x (Instr.callx (fl 0xF8 6 0xF8 0xF8 0)) = true ∧ x.a < 2 ^ 57 ∧ x.a % 8 ≠ 0) ∧
    (let x := iss (r6 0xFFFFFFF8 0x01FFFFFF) placedWg (Instr.ret (fl 0xF8 6 0xF8 0xF8 0))
     readyB x (Instr.ret (fl 0xF8 6 0xF8 0xF8 0)) = true ∧ x.a < 2 ^ 57 ∧ x.a % 8 = 0) ∧
    (let x := iss (thr []) placedWg (Instr.call (fl 0 0 0 0 0))
     readyB x (Instr.call (fl 0 0 0 0 0)) = true ∧ relative x.t.pc (braDisp (fl 0 0 0 0 0)) < 2 ^ 57) := by
  decide +kernel

/-- LOOP: a target out of range, no trips, a full stack, a free place; ENDL: no entry, the last trip, a trip
before it. -/
def wLoop (n : Word) (l : List LoopEntry) (i : Instr) : Issue :=
  iss { thr [0, 0, 0, 0, 0, n] with loops := l } placedWg i
def four : List LoopEntry := List.replicate 4 ⟨8, 16, 1⟩
theorem witness_Loops :
    (let f := fx 0xF8 5 0 0 0 0x0040000000000000
     let x := wLoop 1 [] (Instr.loop f)
     readyB x (Instr.loop f) = true ∧ 2 ^ 57 ≤ relative x.t.pc (loopDisp f) ∧ x.t.tdepth = 0) ∧
    (let f := fl 0xF8 5 0 4 0
     let x := wLoop 0 [] (Instr.loop f)
     readyB x (Instr.loop f) = true ∧ relative x.t.pc (loopDisp f) < 2 ^ 57 ∧ x.a = 0) ∧
    (let f := fl 0xF8 5 0 4 0
     let x := wLoop 1 four (Instr.loop f)
     readyB x (Instr.loop f) = true ∧ x.a ≠ 0 ∧ (loopsBelow x.t.pc x.t.loops).length = 4) ∧
    (let f := fl 0xF8 5 0 4 0
     let x := wLoop 1 [] (Instr.loop f)
     readyB x (Instr.loop f) = true ∧ x.a ≠ 0 ∧ (loopsBelow x.t.pc x.t.loops).length ≠ 4) ∧
    (let f := fl 0xF8 0xF8 0xF8 0xF8 0
     readyB (wLoop 0 [] (Instr.endl f)) (Instr.endl f) = true ∧
       readyB (wLoop 0 [⟨8, 16, 1⟩] (Instr.endl f)) (Instr.endl f) = true ∧
       readyB (wLoop 0 [⟨8, 16, 2⟩] (Instr.endl f)) (Instr.endl f) = true) := by decide +kernel

/-- FSHRK to 8 registers, and below. -/
theorem witness_FrameInstructions :
    okAll [Instr.fshrk (fl 0xF8 0xF8 0xF8 24 0), Instr.fshrk (fl 0xF8 0xF8 0xF8 32 0)] = true ∧
    8 + (fl 0xF8 0xF8 0xF8 24 0).sc.toNat ≤ (thr []).fsize ∧
    (thr []).fsize < 8 + (fl 0xF8 0xF8 0xF8 32 0).sc.toNat ∧ (thr []).pendG = [] := by decide +kernel

/-- A store of the thread on its way to device memory, and another workgroup's thread. -/
theorem witness_ThreadExit : okAll [Instr.exit (fl 0xF8 0xF8 0xF8 0xF8 0)] = true ∧
    placedWg.colls = [] ∧ placedWg.vsw = [] ∧ (∀ p ∈ (mach (thr []) placedWg).ctxs, p.2.ckpt = none) ∧
    (let s := { mach (thr []) placedWg with threads := [(0, thr []), (96, { thr [] with wg := 1 })] }
     (look 96 s.threads).map (fun z => (z.wg, z.wait)) = some (1, none)) := by decide +kernel
theorem witness_BitwiseLogic : okAll ((samples0.drop 14).take 6) = true := by decide +kernel
theorem witness_ComparesAndMoves : okAll (samples0.drop 30) = true := by decide +kernel
theorem witness_FloatArithmetic : okAll (samples2.take 17) = true := by decide +kernel
theorem witness_FloatComparesAndConversions : okAll (samples2.drop 17) = true := by decide +kernel
theorem witness_PackedArithmetic : okAll ((samples2.drop 20).take 3) = true := by decide +kernel
theorem witness_PairWords :
    halfKind 1 = some .two ∧ halfKind 31 = some .nop ∧ okAll (samples2.drop 30) = true := by decide +kernel

/-- The machine with an L1 line of the page that the function can reach, at 0x400080. -/
def l1Line : L1Line := ⟨0x400080 / 128, 0, 0, List.replicate 128 7, false, .normal, 0⟩
def withL1 (t : Thread) : State := (mach t placedWg).modCore 0 (fun c => { c with l1 := [l1Line] })

/-- A pool address: the aperture's first byte. -/
def padLo : Word := 0
def padHi : Word := 0x01F00000

/-- A hit in the L1, a miss, an acquire, and scratchpad. -/
theorem witness_Loads :
    (let f := fl 4 6 0xF8 0 0x10
     let x := issOn (withL1 (r6 0x400080 0)) (r6 0x400080 0) placedWg (Instr.ld f)
     readyB x (Instr.ld f) = true ∧ accessHold x.t 1 = none ∧
       checkAccess x.s x.t.fn x.core x.t.wg .read (addrOf x.a x.b (mSCALE f) (dispOf f)) (sizeOf' (mSIZE f))
         = .dev 0x400080 0 ∧ mORD f = 0 ∧ recMode (tlbTake 1 0 0x400080 x.s) 1 = 0 ∧
       lineBusy (tlbTake 1 0 0x400080 x.s) 0 0x400080 4 = false ∧
       banksBusy (tlbTake 1 0 0x400080 x.s) 0 [l1Line.way] = false ∧
       l1Find (lineOf 0x400080) 0 (x.s.core x.core).l1 = some l1Line) ∧
    (let f := fl 4 6 0xF8 0 0x310
     let x := iss (r6 0x400080 0) placedWg (Instr.ld f)
     readyB x (Instr.ld f) = true ∧ mORD f = 1 ∧ mSCOPE f ≠ 0 ∧ l1Find (lineOf 0x400080) 0 (x.s.core x.core).l1 = none ∧
       checkAccess x.s x.t.fn x.core x.t.wg .read 0x400080 (sizeOf' (mSIZE f)) = .dev 0x400080 0) ∧
    (let f := fl 4 6 0xF8 0 0x10
     let x := iss (r6 padLo padHi) placedWg (Instr.ld f)
     readyB x (Instr.ld f) = true ∧
       checkAccess x.s x.t.fn x.core x.t.wg .read (addrOf x.a x.b (mSCALE f) (dispOf f)) (sizeOf' (mSIZE f)) = .pad 0 ∧
       x.s.ops = [] ∧ padReady x.s x.k x.t 0 0 = true ∧ banksBusy x.s x.k (padGranule x.w 0).toList = false) := by
  decide +kernel

/-- A state whose undo log has room. -/
def roomy (t : Thread) : State := (mach t placedWg).modCtx 1 (fun c => { c with undoSize := 1440 })

theorem witness_Stores :
    (let f := fl 4 6 0xF8 0 0x10
     let x := issOn (roomy (r6 0x400080 0)) (r6 0x400080 0) placedWg (Instr.st f)
     readyB x (Instr.st f) = true ∧ accessHold x.t 2 = none ∧ mORD f = 0 ∧
       checkAccess x.s x.t.fn x.core x.t.wg .write (addrOf x.a x.b (mSCALE f) (dispOf f)) (sizeOf' (mSIZE f))
         = .dev 0x400080 0 ∧ undoFull x.s 1 0x400080 = false ∧ banksBusy x.s x.k [l1Line.way] = false) ∧
    (let f := fl 4 6 0xF8 0 0x10
     let x := iss (r6 padLo padHi) placedWg (Instr.st f)
     readyB x (Instr.st f) = true ∧
       checkAccess x.s x.t.fn x.core x.t.wg .write (addrOf x.a x.b (mSCALE f) (dispOf f)) (sizeOf' (mSIZE f)) = .pad 0 ∧
       x.s.ops = [] ∧ claimedPad x.s x.t.wg 0 4 = false ∧ padReady x.s x.k x.t 0 1 = true ∧
       padFull x.s x.t.fn x.t.wg 0 = false ∧ banksBusy x.s x.k (padGranule x.w 0).toList = false) := by decide +kernel

theorem witness_Atomics :
    (let f := fl 4 6 5 0 0
     let x := issOn (roomy (r6 0x400080 0)) (r6 0x400080 0) placedWg (Instr.atom f)
     readyB x (Instr.atom f) = true ∧ mORD f < 2 ∧ accessHold x.t 1 = none ∧
       checkAccess x.s x.t.fn x.core x.t.wg .both (addrOf x.a 0 0 (dispOf f)) (atomWidth (mTY f) / 8) = .dev 0x400080 0 ∧
       undoFull x.s x.t.fn 0x400080 = false) ∧
    (let f := fl 4 6 5 8 0
     let x := issOn (roomy (r6 0x400080 0)) (r6 0x400080 0) placedWg (Instr.acas f)
     readyB x (Instr.acas f) = true ∧
       checkAccess x.s x.t.fn x.core x.t.wg .both (addrOf x.a 0 0 0) (atomWidth (mTY f) / 8) = .dev 0x400080 0) ∧
    (let f := fl 0xF8 6 5 0 0
     let x := issOn (roomy (r6 0x400080 0)) (r6 0x400080 0) placedWg (Instr.red f)
     readyB x (Instr.red f) = true ∧ accessHold x.t 2 = none ∧
       checkAccess x.s x.t.fn x.core x.t.wg .write (addrOf x.a 0 0 (dispOf f)) (atomWidth (mTY f) / 8) = .dev 0x400080 0) := by
  decide +kernel

theorem witness_FencesAndHints :
    okAll [Instr.fence (fl 0xF8 0xF8 0xF8 0xF8 0x280), Instr.fence (fl 0xF8 0xF8 0xF8 0xF8 0x680),
      Instr.fenceCode (fl 0xF8 0xF8 0xF8 0xF8 0), Instr.rclean (fl 0xF8 6 5 1 0x80), Instr.rinv (fl 0xF8 6 5 1 0x80)] = true ∧
    (let x := iss (thr []) placedWg (Instr.fence (fl 0xF8 0xF8 0xF8 0xF8 0x680))
     releaseWait x.s x.k x.t 1 23 = none ∧ x.t.ld = 0 ∧ x.t.st = 0 ∧ x.s.ops = []) ∧
    (let f := fl 0xF8 6 0xF8 0 0
     let x := iss (r6 padLo padHi) placedWg (Instr.pref f)
     readyB x (Instr.pref f) = true ∧ readyB (iss (r6 padLo padHi) placedWg (Instr.ldem f)) (Instr.ldem f) = true ∧
       accessHold x.t 0 = none ∧ quietAccess x.s x.t x.k (addrOf x.a x.b (mSCALE f) (dispOf f)) = none) ∧
    (let f := fl 0xF8 6 0xF8 0 0
     let x := issOn (withL1 (r6 0x400080 0)) (r6 0x400080 0) placedWg (Instr.pref f)
     readyB x (Instr.pref f) = true ∧ readyB x (Instr.ldem f) = true ∧ mSCOPE f = 0 ∧
       quietAccess x.s x.t x.k (addrOf x.a x.b (mSCALE f) (dispOf f)) = some (0x400080, 0) ∧
       recMode (tlbTake 1 0 0x400080 x.s) 1 = 0 ∧
       (l1Find (lineOf 0x400080) 0 ((tlbTake 1 0 0x400080 x.s).core x.core).l1).isSome = true) ∧
    (let f := fl 0xF8 6 0xF8 0 0
     let x := iss (r6 0x400080 0) placedWg (Instr.pref f)
     readyB x (Instr.pref f) = true ∧
       quietAccess x.s x.t x.k (addrOf x.a x.b (mSCALE f) (dispOf f)) = some (0x400080, 0) ∧
       (l1Find (lineOf 0x400080) 0 ((tlbTake 1 0 0x400080 x.s).core x.core).l1).isSome = false) := by
  decide +kernel

/-- Addresses on both sides of 2^57, and one that is misaligned; an apprentice thread. -/
theorem witness_AccessAndApprenticeTraps :
    (let f := fl 4 6 0xF8 0 0x10
     let x := iss (r6 0 0x02000000) placedWg (Instr.ld f)
     readyB x (Instr.ld f) = true ∧ accessHold x.t 1 = none ∧ addrOf x.a x.b (mSCALE f) (dispOf f) = 2 ^ 57) ∧
    (let f := fl 4 6 0xF8 0 0x10
     let x := iss (r6 0xFFFFFFFF 0x01FFFFFF) placedWg (Instr.st f)
     readyB x (Instr.st f) = true ∧ accessHold x.t 2 = none ∧ addrOf x.a x.b (mSCALE f) (dispOf f) = 2 ^ 57 - 1 ∧
       (2 ^ 57 - 1) % sizeOf' (mSIZE f) ≠ 0) ∧
    (let t := { thr [] with apprentice := true }
     let f := fl 0xF8 0xF8 0xF8 0xF8 3
     readyB (iss t placedWg (Instr.bar f)) (Instr.bar f) = true) := by decide +kernel

/-- FGROW and PGROW that are granted at once, with `.nw`, to the wait list and turned away. -/
def small (t : Thread) (wait : Word) : State :=
  (mach t placedWg).modCore 0 (fun c => { c with poolwait := wait, residue := [(2, ⟨(upto 735).map (· + 1), []⟩)] })
theorem witness_Grows :
    (let f := fl 0xF8 0xF8 0xF8 8 0
     let x := iss (thr []) placedWg (Instr.fgrow f)
     readyB x (Instr.fgrow f) = true ∧ x.t.fsize + f.sc.toNat ≤ x.t.flim ∧ loggedOutcome x.s x.k x.t.fn 3 = none ∧
       (x.s.core x.core).waitList = [] ∧ needOf x.s x.core false 1 ≤ grantable x.s x.core) ∧
    (let f := fl 0xF8 5 0xF8 0xF8 0
     let t := thr [0, 0, 0, 0, 0, 4]
     let x := issOn (small t 5) t placedWg (Instr.pgrow f)
     readyB x (Instr.pgrow f) = true ∧ countOf f x.src = 4 ∧ loggedOutcome x.s x.k x.t.fn 3 = none ∧
       grantable x.s x.core < needOf x.s x.core true 4 ∧ mNW f = false ∧ growLimit x.s x.t.fn x.k ≠ 0 ∧
       needOf x.s x.core true 4 ≤ Config.growMax ∧
       x.w.spsize + Config.granuleBytes * 4 ≤ Config.granuleBytes * Config.growMax) ∧
    (let f := fl 0xF8 5 0xF8 0xF8 1
     let t := thr [0, 0, 0, 0, 0, 4]
     let x := issOn (small t 5) t placedWg (Instr.pgrow f)
     readyB x (Instr.pgrow f) = true ∧ mNW f = true) ∧
    (let f := fl 0xF8 5 0xF8 0xF8 0
     let t := thr [0, 0, 0, 0, 0, 4]
     let x := issOn (small t 0) t placedWg (Instr.pgrow f)
     readyB x (Instr.pgrow f) = true ∧ growLimit x.s x.t.fn x.k = 0) := by decide +kernel

/-- PSHRK of none, of all, and of more than there is; PQRY. -/
theorem witness_PoolInstructions :
    (let f := fl 0xF8 5 0xF8 0xF8 0
     let x := fun (n : Word) => iss (thr [0, 0, 0, 0, 0, n]) placedWg (Instr.pshrk f)
     readyB (x 0) (Instr.pshrk f) = true ∧ countOf f (x 0).src = 0 ∧
       readyB (x 1) (Instr.pshrk f) = true ∧ countOf f (x 1).src = 1 ∧ (x 1).w.spsize = Config.granuleBytes ∧
       padBusy (x 1).s 0 0 2048 = false ∧ readyB (x 2) (Instr.pshrk f) = true ∧ countOf f (x 2).src = 2) ∧
    (let x := iss (thr []) placedWg (Instr.pqry (fl 4 0xF8 0xF8 0xF8 1))
     readyB x (Instr.pqry (fl 4 0xF8 0xF8 0xF8 1)) = true ∧ loggedOutcome x.s x.k x.t.fn 1 = none) := by
  decide +kernel

/-! ### Synchronisation, queues, matrix and system -/

/-- The machine with a second thread of the workgroup. -/
def mach2 (t : Thread) (w : Workgroup) : State :=
  { mach t w with threads := [(0, t), (1, { thr [] with tlin := 1 })] }
def bar0 : Instr := Instr.bar (fl 0xF8 0xF8 0xF8 0xF8 15)
def barw0 : Instr := Instr.barw (fl 0xF8 0xF8 0xF8 0xF8 15)
def cameB : Thread := { thr [] with arrived := 0x8000 }
def goneB : Thread := { thr [] with withdrawn := 0x8000 }
def openB : Workgroup := { placedWg with bars := setNth { nth ⟨0, 0, 0, 0, []⟩ 0 placedWg.bars with range := 9, arrivals := 1 } 15 placedWg.bars }

/-- The arrival that completes a generation, one that does not, one of another range, a second one; BARW. -/
theorem witness_Barriers :
    (let x := iss (thr []) placedWg bar0
     readyB x bar0 = true ∧ rangeBad x.s x.t x.a = false ∧ releaseWait x.s x.k x.t 0 0 = none ∧
       x.t.arrived.getLsbD 15 = false ∧ (arrive x.k x.t 15 0 x.s).map (·.1) = some true) ∧
    (let x := issOn (mach2 (thr []) placedWg) (thr []) placedWg bar0
     readyB x bar0 = true ∧ rangeBad x.s x.t x.a = false ∧ releaseWait x.s x.k x.t 0 0 = none ∧
       (arrive x.k x.t 15 0 x.s).map (·.1) = some false) ∧
    (let x := issOn (mach2 (thr []) openB) (thr []) openB bar0
     readyB x bar0 = true ∧ rangeBad x.s x.t x.a = false ∧ releaseWait x.s x.k x.t 0 0 = none ∧
       (arrive x.k x.t 15 0 x.s).map (·.1) = none) ∧
    (let x := iss cameB placedWg bar0
     readyB x bar0 = true ∧ rangeBad x.s x.t x.a = false ∧ releaseWait x.s x.k x.t 0 0 = none ∧
       x.t.arrived.getLsbD 15 = true) ∧
    readyB (iss goneB placedWg barw0) barw0 = true ∧ readyB (iss cameB placedWg barw0) barw0 = true ∧
    readyB (iss (thr []) placedWg barw0) barw0 = true := by decide +kernel

/-- A collective whose last member arrives, one that waits, and a mask that leaves the thread out. -/
def coll0 : Instr := Instr.matchLanes (fl 4 5 6 0xF8 0x40)
theorem witness_Collectives :
    (let x := iss (thr []) placedWg coll0
     readyB x coll0 = true ∧ x.b = 0 ∧
       collFull x.s ⟨0, false, x.t.pc, 0x20A, 0x40, 0, [⟨0, 0, 0, 0⟩], 0⟩ = true) ∧
    (let x := issOn (mach2 (thr []) placedWg) (thr []) placedWg coll0
     readyB x coll0 = true ∧ x.b = 0 ∧ warpOf 0 = warpOf 1 ∧
       collFull x.s ⟨0, false, x.t.pc, 0x20A, 0x40, 0, [⟨0, 0, 0, 0⟩], 0⟩ = false) ∧
    (let x := iss (r6 2 0) placedWg coll0
     readyB x coll0 = true ∧ x.b = 2 ∧ laneOf x.k = 0) := by decide +kernel

theorem witness_Harvests :
    (let f := fl 0xF3 5 6 7 0x140
     let x := iss (thr []) placedWg (Instr.redh f)
     readyB x (Instr.redh f) = true ∧ x.t.apprentice = false ∧ rangeBad x.s x.t x.b = false ∧
       nth none 3 x.w.harvest = none) ∧
    (let f := fl 0xF3 5 6 7 0x140
     let w := { placedWg with harvest := setNth (some ⟨mHOP f, mTYPE f, mHRM f, 0, 0, []⟩) 3 placedWg.harvest }
     let x := iss (thr []) w (Instr.redh f)
     readyB x (Instr.redh f) = true ∧ rangeBad x.s x.t x.b = false ∧
       nth none 3 x.w.harvest = some ⟨mHOP f, mTYPE f, mHRM f, 0, 0, []⟩) ∧
    (let f := fl 0xC4 0xF3 0xC5 0xF8 0x40
     let x := iss (thr []) placedWg (Instr.hget f)
     readyB x (Instr.hget f) = true ∧ nth 0 3 x.w.hseq = BitVec.ofNat 16 x.b ∧
       loggedOutcome x.s x.k x.t.fn 5 = none) := by decide +kernel

/-- SUSPEND at its target and before it; the event instructions. -/
theorem witness_EventInstructions :
    (let f := fl 0xF8 6 0 4 15
     let y := fun (n : Word) => iss (r6 n 0) placedWg (Instr.suspend f)
     readyB (y 0) (Instr.suspend f) = true ∧ relative (y 0).t.pc (loopDisp f) < 2 ^ 57 ∧
       suspendCounter (y 0).s (y 0).w false 15 = some 0 ∧ reached 0 (BitVec.ofNat 32 (y 0).a) = true ∧
       readyB (y 1) (Instr.suspend f) = true ∧ reached 0 (BitVec.ofNat 32 (y 1).a) = false ∧
       frameRoom (y 1).s 0 (y 1).t (ocSync { (y 1).t with wrote := [] }).wrote = true) ∧
    okAll [Instr.pause (fl 0xF8 5 0xF8 0xF8 0), Instr.evadd (fl 4 5 0xF8 0xF8 15), Instr.evget (fl 4 0xF8 0xF8 0xF8 15)] = true ∧
    eventReady (mach (thr []) placedWg) 0 (thr []) 15 2 = true ∧
    eventReady (mach (thr []) placedWg) 0 (thr []) 15 0 = true := by decide +kernel

def boundWg : Workgroup := { placedWg with bind := setNth 5 2 placedWg.bind }
/-- An ACP from page 0x400080 into the scratchpad's first byte. -/
def acpT : Thread := thr [0, 0, 0, 0, 0, 0, 0x400080, 0, padLo, padHi]
theorem witness_CommandPushes :
    (let f := fl 0xF8 6 8 5 0
     let x := iss acpT placedWg (Instr.acp f)
     readyB x (Instr.acp f) = true ∧
       (let src := wrapNat 64 ((x.a : Nat) + ext1Disp f)
        src < 2 ^ 57 ∧ inAperture src = false ∧ inAperture x.b = true ∧ src % 4 = 0 ∧
          x.b % acpLen f.mod = 0 ∧ x.c ≤ acpLen f.mod) ∧
       (newCmd f 0x280 x.k x.t x.s).slot = none ∧ max x.t.cp (nth 0 (mTAGN f) x.t.tags) < 63 ∧
       queueFull x.s (.cp1 0) = false) ∧
    okAll [Instr.cpy (fl 1 6 0xF8 0xF8 0), Instr.cpy (fl 1 6 0xF8 0xF8 2), Instr.tkdone (fl 1 0xF8 0xF8 0xF8 0),
      Instr.nput (fl 0xF8 6 8 0xF8 0), Instr.nget (fl 0xF8 6 8 0xF8 0), Instr.nsig (fl 0xF8 6 8 0xF8 0)] = true ∧
    queueFull (mach (thr []) placedWg) (.cp0 0) = false ∧
    queueFull (mach (thr []) placedWg) (.tk 0) = false ∧
    queueFull (mach (thr []) placedWg) (.ne 0) = false ∧
    (let f := fl 0xF8 5 0xF8 0xF8 2
     let x := iss (thr []) boundWg (Instr.tkpop f)
     readyB x (Instr.tkpop f) = true ∧ (boundQueue x.w (mBAR f)).isSome = true) := by decide +kernel

theorem witness_TaskAndSequencerPushes :
    (let f := fl 1 6 0xF8 0 2
     let x := iss (r6 padLo padHi) boundWg (Instr.tkpush f)
     readyB x (Instr.tkpush f) = true ∧ (boundQueue x.w (mBAR f)).isSome = true ∧ accessHold x.t 0 = none ∧
       checkAccess x.s x.t.fn x.core x.t.wg .read (wrapNat 64 ((x.a : Nat) + sextInt 8 f.sc.toNat)) 64 = .pad 0 ∧
       x.s.ops = [] ∧ recordBad (padRead x.w 0 64) = false ∧ padReady x.s x.k x.t 0 0 = true ∧
       queueFull x.s (.tk x.t.wg) = false) ∧
    okAll [Instr.sqcfg (fl 0xF8 6 0xF8 0xF8 0), Instr.sqsig (fl 0xF8 0xF8 0xF8 0xF8 0),
      Instr.sqcmp (fl 0xF8 0xF8 0xF8 0xF8 0), Instr.sqmap (fl 0xF8 6 0xF8 0xF8 0),
      Instr.sqstep (fl 0xF8 0xF8 0xF8 0xF8 0)] = true ∧
    (takeTenure (mach (thr []) placedWg) 0).isSome = true ∧
    queueFull (mach (thr []) placedWg) (.sq 0) = false := by decide +kernel

/-- A declaration, a release, and a register that the thread signs, before and after another's signature. -/
def heldMach (c : CReg) (t : Thread) : State :=
  (mach2 t placedWg).modSect 0 (fun q => { q with holder := some 0, creg := setNth c 1 q.creg })
def oneRange : Word := 0x01000800
theorem witness_ConvergenceDeclaration :
    (let f := fx 0xF8 0xF8 0xF8 0xF8 1 0x01000400
     let x := iss (thr []) placedWg (Instr.cdecl f)
     readyB x (Instr.cdecl f) = true ∧ f.mod.getLsbD 4 = false ∧
       declBad 0x01000400 (((look 0 x.s.cohorts).map (·.csize)).getD 0) (cohortSizes x.s 0 (wgSize x.w)) = false ∧
       (takeTenure x.s 0).isSome = true ∧ earlierDecl x.s x.k 0 1 x.t = false ∧ (cregOf x.s 0 1).round = none) ∧
    (let f := fl 0xF8 0xF8 0xF8 0xF8 0x11
     let x := iss (thr []) placedWg (Instr.cdecl f)
     readyB x (Instr.cdecl f) = true ∧ f.mod.getLsbD 4 = true) := by decide +kernel

theorem witness_MatrixSignatures :
    okAll [Instr.scpy (fl 0x10 6 8 0xF8 0), Instr.mldw (fl 0x10 6 8 0xF8 0), Instr.mswp (fl 0x10 0xF8 0xF8 0xF8 0),
      Instr.mmul (fl 0x10 6 8 0xF8 0), Instr.mout (fl 0x10 6 8 0xF8 0), Instr.mzero (fl 0x10 0xF8 0xF8 0xF8 0)] = true ∧
    (let f := fl 0x10 0xF8 0xF8 0xF8 0
     let x := issOn (heldMach ⟨some oneRange, none⟩ (thr [])) (thr []) placedWg (Instr.mswp f)
     readyB x (Instr.mswp f) = true ∧ takeTenure x.s 0 = some x.s ∧ (cregOf x.s 0 1).decl = some oneRange ∧
       x.k ∈ signSet x.s 0 oneRange.toNat ∧ (cregOf x.s 0 1).round = none ∧
       (newCmd f 0x28A x.k x.t x.s).slot = none) ∧
    (let f := fl 0x10 0xF8 0xF8 0xF8 0
     let c := { newCmd f 0x28A 1 { thr [] with tlin := 1 } (mach2 (thr []) placedWg) with signers := [1] }
     let x := issOn (heldMach ⟨some oneRange, some ⟨c, 0, 0, [1]⟩⟩ (thr [])) (thr []) placedWg (Instr.mswp f)
     readyB x (Instr.mswp f) = true ∧ takeTenure x.s 0 = some x.s ∧ x.k ∉ c.signers ∧
       sameSign c (newCmd f 0x28A x.k x.t x.s) = true) := by decide +kernel

theorem witness_QueueControl :
    okAll [Instr.tagw (fl 0xF8 5 0xF8 0xF8 7), Instr.wait (fl 0 0 0 0 0), Instr.wptr (fl 4 0xF8 0xF8 0xF8 7),
      Instr.qfence (fl 0xF8 0xF8 0xF8 0xF8 3), Instr.guard (fl 0xF8 0xF8 0xF8 0xF8 15),
      Instr.gres (fl 0xF8 5 0xF8 0xF8 15)] = true ∧
    (let x := iss (thr []) placedWg (Instr.wait (fl 0 0 0 0 0))
     x.t.ld = 0 ∧ x.t.st = 0 ∧ x.t.cp = 0 ∧ x.t.tl = 0 ∧ nth 0 7 x.t.tags = 0 ∧ x.t.latch = none ∧
       recMode x.s x.t.fn = 0 ∧ slotState x.s x.w.cohort 15 < 2 ∧
       (fenceQueues (fl 0xF8 0xF8 0xF8 0xF8 3) x.t.wg x.w).length = 2) ∧
    slotState (setSlot 0 15 1 (mach (thr []) placedWg)) 0 15 = 1 := by decide +kernel

/-- TRET outside a handler, in one with an unsound frame, and in one with a sound one. -/
def inTrap (f : TrapFrame) : Thread := { thr [] with tdepth := 1, frame1 := f }
theorem witness_TrapsAndReturn :
    okAll [Instr.trap (fl 0xF8 0xF8 0xFF 0xFF 0), Instr.bkpt (fl 0xF8 0xF8 0 0 0),
      Instr.tret (fl 0xF8 0xF8 0xF8 0xF8 0)] = true ∧ (thr []).tdepth = 0 ∧
    (let i := Instr.tret (fl 0xF8 0xF8 0xF8 0xF8 0)
     let x := fun f => iss (inTrap f) placedWg i
     let good := { (thr []).frame1 with ssw := 0, fstat := 0, rpc := 0x01FFFFFFFFFFFFF8 }
     let bad := { (thr []).frame1 with ssw := 0, fstat := 0, rpc := 0x0200000000000000 }
     readyB (x good) i = true ∧ frameSound (x good).t (curFrame (x good).t) = true ∧
       readyB (x bad) i = true ∧ frameSound (x bad).t (curFrame (x bad).t) = false) := by decide +kernel

/-- System registers on both edges of the views of a trap frame. -/
theorem witness_SystemInstructions :
    okAll ((samples1.drop 21).take 7 ++ [Instr.srd (fl 4 0xF8 0 0x10 0), Instr.srd (fl 4 0xF8 0 0x19 0),
      Instr.srd (fl 4 0xF8 0 0x1A 0), Instr.swr (fl 0xF8 6 0 0x10 0), Instr.swr (fl 0xF8 6 0 0x15 0)]) = true ∧
    (let t := { thr [] with tdepth := 1 }
     readyB (iss t placedWg (Instr.swr (fl 0xF8 6 0 0x10 0))) (Instr.swr (fl 0xF8 6 0 0x10 0)) = true ∧
       frameRoom (mach t placedWg) 0 t [trapFieldLine t 0x010] = true) := by decide +kernel

/-- A machine whose memory holds a kernel descriptor of two variants at 0x400100: entry 0x400000, 16 registers,
no pool or one granule, one thread; and its switch map at 0x400300, for switch point 3. -/
def kernelBytes (v1 : Nat) : List Byte :=
  toBytes 16 (1 + 2 ^ 32 * 1 + 2 ^ 64 * 16 + 2 ^ 96 * 1) ++ toBytes 16 0 ++ toBytes 32 0x400300 ++
  toBytes 32 (0x400000 + 2 ^ 64 * 16 + 2 ^ 96 * (2048 * v1) + 2 ^ 128 * 1 + 2 ^ 144 * 1 + 2 ^ 160 * 1) ++
  toBytes 32 (0x400000 + 2 ^ 64 * 16 + 2 ^ 96 * (2048 * (1 - v1)) + 2 ^ 128 * 1 + 2 ^ 144 * 1 + 2 ^ 160 * 1) ++
  toBytes 128 0
/-- A workgroup of that kernel, which is asked to switch to the larger variant, and its machine. -/
def askedWg : Workgroup := { placedWg with kernel := 0x400100, vreq := some 1 }
def switchMach : State :=
  let s := mach (thr []) askedWg
  let m := memWrite s.mem 0x400100 (kernelBytes 0)
  { s with mem := memWrite m 0x400300 (toBytes 8 3 ++ toBytes 8 0x400040 ++ toBytes 8 0x400048) }

/-- An NWAIT that is met, and a switch point with and without another thread to come. -/
theorem witness_WaitsForMemoryAndSwitches :
    (let f := fl 4 6 8 0xF8 0
     let x := iss (r6 0x400080 0) placedWg (Instr.nwait f)
     readyB x (Instr.nwait f) = true ∧ accessHold x.t 0 = none ∧ x.a < 2 ^ 57 ∧ inAperture x.a = false ∧
       checkAccess x.s x.t.fn x.core x.t.wg .read x.a 8 = .dev 0x400080 0 ∧ foreign x.s 0 0x400080 = false ∧
       nwaitServed x.s x.t x.core 0x400080 = true ∧ recMode x.s x.t.fn = 0 ∧ look x.k x.s.noticed = none ∧ (look 0 ({ x.s with noticed := [(0, 5)] } : State).noticed) = some 5 ∧
       (BitVec.ofNat 64 (ofBytes (memRead x.s.mem 0x400080 8)) - BitVec.ofNat 64 x.b : DWord).msb = false) ∧
    (let i := Instr.vswpt (fl 0xF8 0xF8 0xF8 0xF8 3)
     let x := iss (thr []) placedWg i
     let y := issOn (mach2 (thr []) placedWg) (thr []) placedWg i
     readyB x i = true ∧ readyB y i = true ∧ x.t.loops = [] ∧ (switchTarget x.s 0 x.w 3).isNone = true ∧
       (switchIntegrity 0 x.w 3 x.s).1 = none ∧
       (x.s.computeOf x.t.wg).length = 1 ∧ (y.s.computeOf y.t.wg).length = 2) ∧
    (let i := Instr.vswpt (fl 0xF8 0xF8 0xF8 0xF8 3)
     let x := issOn switchMach (thr []) askedWg i
     readyB x i = true ∧ x.t.loops = [] ∧ x.t.ld = 0 ∧ (x.s.threadsOf 0).length = 1 ∧
       (let s := (switchIntegrity 0 x.w 3 x.s).2
        ((switchTarget s 0 x.w 3).bind (·.target)) = some 1 ∧
        (kernelAt s 1 x.w.kernel).map (fun k => ((k.variant 1).pool, k.switchMap)) = some (x.w.spsize, 0x400300) ∧
        (kernelAt s 1 x.w.kernel).map (fun k => switchHasRoom s 0 1 (k.variant 1)) = some true ∧
        (switchRec s 1 0 2 3 257 0x400300).isSome = true) ∧
       (switchIntegrity 0 x.w 3 x.s).1 = none ∧
       (switchIntegrity 0 x.w 3 { x.s with lineCid := [(0x400300 / 128, 1)] }).1 = some (0x400300, 0)) := by
  decide +kernel

/-! ### Witnesses: device steps -/

/-- A thread and a workgroup, whose page table the core's TLB holds. -/
def base : State := mach (thr []) placedWg
def aged (n : Nat) : State := base.modCtx 1 (fun c => { c with pcycle := n, clock := n })

/-- An 8-byte operation of the thread on 0x400080, or on the pool's first bytes. -/
def anOp (k : OpKind) (st : OpStage) (cls : Nat) (pad : Bool) : MemOp :=
  { id := 0, fn := 1, thread := 0, others := [], wg := 0, core := 0, kind := k, stage := st, aperture := pad,
    addr := if pad then 0 else 0x400080, va := 0x400080, cid := 0, size := 8, ty := 4, data := 5, data2 := 0,
    dst := 4, regs := 2, transient := false, cls := cls, tag := false, acquire := none, bypass := false,
    hint := 0, value := List.replicate 8 1, seqTag := 0 }
def withOp (o : MemOp) : State := { base with ops := [o], nextId := 1 }
def withEntry (s : State) : State := s.modCtx 1 (fun c => { c with undo := [⟨.memory (0x400080 / 128), 0, [], c.epoch⟩] })

theorem witness_MemorySteps :
    (let o := anOp .load .sent 1 false
     findOp (withOp o) 0 = some o ∧ homeReady (withOp o) o = true ∧ foreign (withOp o) 0 o.addr = false ∧
       o.addr % 128 + o.size = 8 ∧ coreStores (withOp o) 0 (lineOf o.addr) = []) ∧
    (let o := anOp .load .performed 1 false
     findOp (withOp o) 0 = some o ∧ (look 0 (withOp o).threads).isSome = true ∧ ((withOp o).ctx 1).halt = none ∧
       landRoom (withOp o) o = true) ∧
    (let o := anOp .store .sent 2 false
     findOp (withOp o) 0 = some o ∧ homeReady (withOp o) o = true ∧ needsUndo (withOp o) 1 o.addr = true ∧
       homeReady (withEntry (withOp o)) o = true ∧ needsUndo (withEntry (withOp o)) 1 o.addr = false ∧
       foreign (withEntry (withOp o)) 0 o.addr = false ∧ Memory.wf (withOp o).mem ∧ (withOp o).boot.fails ≤ 3) ∧
    (let o := anOp .store .logging 2 false
     findOp (withOp o) 0 = some o ∧ foreign (withOp o) 0 o.addr = false ∧ logSound (withOp o) 1 = true ∧
       ((withOp o).ctx 1).undoArea.toNat + ((withOp o).ctx 1).undoSize.toNat + 144 ≤ o.addr) ∧
    (let o := anOp .store .performed 2 false
     findOp (withOp o) 0 = some o) := by decide +kernel

theorem witness_CoreSteps :
    (let o := anOp .load .claimed 1 true
     findOp (withOp o) 0 = some o ∧ claimFree (withOp o) o = true ∧ padFull (withOp o) 1 0 0 = false) ∧
    (let t := { thr [] with fills := [5] }
     look 0 (mach t placedWg).threads = some t ∧ 5 ∈ t.fills ∧
       frameRoom (mach t placedWg) 0 t (fillG 5 { t with wrote := [] }).wrote = true ∧
       frameForeign (mach t placedWg) 0 t [5 / 32] = none) ∧
    (runningOn base 0 = some 1 ∧ (base.ctx 1).pcycle % 4 = 0 ∧ (base.core 0).regroupAt ≠ some (base.ctx 1).pcycle) ∧
    base.issue = [0] ∧ look 0 base.threads = some (thr []) := by decide +kernel

/-- A thread that has tried in this cycle, at a cycle in which a count from its first cycles is out. -/
def waits (f : Thread → Thread) (w : Workgroup) : State :=
  (mach { f (thr []) with polled := true } w).modCtx 1 (fun c => { c with pcycle := 0x100004, clock := 0x100004 })
theorem witness_WaitEnds :
    (let s := waits (fun t => { t with pauseTill := some 0x100004 }) placedWg
     (look 0 s.threads).map (·.pauseTill) = some (some 0x100004) ∧ (s.ctx 1).pcycle % 4 = 0) ∧
    (let s := waits (fun t => { t with wait := some (.idle 0x100004) }) placedWg
     (look 0 s.threads).map (·.wait) = some (some (.idle 0x100004)) ∧ 0x100004 ≤ (s.ctx 1).pcycle) ∧
    (let s := waits (fun t => { t with stall := some ⟨11, 3, 3⟩, stallFrom := some 4 }) placedWg
     look 0 s.wgs = some placedWg ∧ stallDue s 1 0 (max 4 (nth 0 3 placedWg.hlast)) = true ∧
       (look 0 s.threads).map (fun t => hgetWaits placedWg 3 ((hgetMates s t).map (·.2))) = some true) ∧
    (let c : Collective := ⟨0, false, 0x400000, 0x20A, 0x40, 0, [⟨0, 0, 0, 0⟩], 4⟩
     let w := { placedWg with colls := [c] }
     let s := waits id w
     look 0 s.wgs = some w ∧ w.colls.find? (isColl 0 0x400000) = some c ∧ stallDue s 1 0 c.origin = true) ∧
    (let p : SwitchPoint := ⟨3, [0], 4, none, [], 0⟩
     let w := { placedWg with vsw := [p] }
     let s := waits id w
     look 0 s.wgs = some w ∧ p.here ≠ [] ∧ stallDue s 1 0 p.origin = true) ∧
    (let s := waits (fun t => { t with wait := some (.barrier 15), arrived := 0x8000 }) openB
     look 0 s.wgs = some openB ∧ (look 0 s.threads).map (waitsAt 15) = some true ∧
       stallDue s 1 0 (s.bar 0 15).origin = true ∧ openB.bars.length = 16) := by decide +kernel

def pooled (asked since : Nat) : State :=
  (aged 0x4000).modCore 0 (fun c => { c with waitList := [⟨0, true, asked, since⟩] })
theorem witness_PoolSteps :
    (let s := pooled 4 0
     (s.core 0).waitList = [⟨0, true, 4, 0⟩] ∧ look 0 s.threads = some (thr []) ∧ (s.ctx 1).ckpt = none ∧
       needOf s 0 true 4 ≤ grantable s 0 ∧ (s.ctx 1).clock ≤ 0 + poolLimit s 1 0) ∧
    (let s := (pooled 4 0).modCtx 1 (fun c => { c with clock := 0x4001 })
     (s.core 0).waitList = [⟨0, true, 4, 0⟩] ∧ look 0 s.threads = some (thr []) ∧ (s.ctx 1).ckpt = none ∧
       0 + poolLimit s 1 0 ≤ (s.ctx 1).clock ∧ grantDue s 0 (thr []) ⟨0, true, 4, 0⟩ = false) ∧
    (let s := base.modCore 0 (fun c => { c with residue := [(2, ⟨[1], []⟩)] })
     runningOn s 0 = some 1 ∧ (s.core 0).residue ≠ [] ∧ (s.core 0).drainAt ≤ (s.ctx 1).pcycle) ∧
    mgmtUp (up base) = true := by decide +kernel

/-- A command of an opcode, alone in its queue, with and without a guard slot that is FALSE. -/
def aCmd (op : Nat) : Cmd := { newCmd (fl 0 0 0 0 0) op 0 (thr []) base with after := [] }
def queued (q : QRef) (c : Cmd) : State :=
  (setSlot 0 15 3 (aged 4096)).modSect 0 (fun x => { x with holder := some 0, unitFn := some 1 })
    |> modQueueOf q (fun _ => [c])
def begins (p : QRef × Nat) : Bool :=
  queueOf (queued p.1 (aCmd p.2)) p.1 == [aCmd p.2] && mayBegin (queued p.1 (aCmd p.2)) p.1 (aCmd p.2)
    && !guardHeld (queued p.1 (aCmd p.2)) p.1 (aCmd p.2) && !discarded (queued p.1 (aCmd p.2)) p.1 (aCmd p.2)
theorem witness_EngineCommands :
    ([(QRef.cp1 0, 0x280), (QRef.cp0 0, 0x282), (QRef.cp1 0, 0x282), (QRef.mx 0, 0x288), (QRef.mx 0, 0x289),
      (QRef.mx 0, 0x28A), (QRef.mx 0, 0x28B), (QRef.mx 0, 0x28C), (QRef.mx 0, 0x28D), (QRef.sq 0, 0x2A0),
      (QRef.sq 0, 0x2A1), (QRef.sq 0, 0x2A2), (QRef.sq 0, 0x2A3), (QRef.sq 0, 0x2A4), (QRef.tk 0, 0x298),
      (QRef.tk 0, 0x299), (QRef.tk 0, 0x29A), (QRef.ne 0, 0x310), (QRef.ne 0, 0x311), (QRef.ne 0, 0x312)].all
        begins) = true ∧
    (let c := { aCmd 0x282 with mod := 0x7C0 }
     mayBegin (queued (.cp0 0) c) (.cp0 0) c = true ∧ guardHeld (queued (.cp0 0) c) (.cp0 0) c = false ∧
       discarded (queued (.cp0 0) c) (.cp0 0) c = true) := by decide +kernel

theorem witness_QuadrantSteps :
    (tenureOver base 0 = true ∧ tenureQueue base 0 = []) ∧
    (let s := mach { thr [] with stall := some (tenureStall 0), stallFrom := some 0 } placedWg
     tenureOver s 0 = true ∧ tenureQueue s 0 = [0]) ∧
    (let r : Round := ⟨{ aCmd 0x28A with signers := [0, 1] }, 4, 0, [0, 1]⟩
     let s := (heldMach ⟨some oneRange, some r⟩ { thr [] with polled := true }).modCtx 1 (fun c => { c with clock := 0x100004 })
     (s.sect 0).holder = some 0 ∧ cregOf s 0 1 = ⟨some oneRange, some r⟩ ∧
       (∀ k ∈ signSet s 0 oneRange.toNat, k ∈ r.cmd.signers) ∧ queueFull s (.mx 0) = false ∧
       (s.ctx (queueFn s (.mx 0))).halt = none ∧ stallDue s (queueFn s (.mx 0)) r.core r.origin = true ∧
       (∀ i ∈ coresOfCohort s 0, coreQuiet s i = true) ∧
       (∀ p ∈ s.threads, p.2.stall ≠ some ⟨12, 5, 1⟩)) := by decide +kernel

/-- A quadrant that no context has used starts a tenure with no line to log. -/
theorem witness_tenureRoom :
    (let s := mach { thr [] with stall := some (tenureStall 0), stallFrom := some 0 } placedWg
     tenureRoom s 0 0 = true ∧ unitOurs (claimUnit (cohortFn s 0) 0 s) (cohortFn s 0) 0 = true) := by decide +kernel

/-- Matrix Engine commands fused along a row with a partner that is held, and with one that is not. -/
def rowCmd : Cmd := { aCmd 0x28A with flds := 0x04000000 }
def rowMach : State := queued (.mx 0) rowCmd
def rowBoth : State :=
  (({ rowMach with cohorts := put 1 ⟨1, 0, 1, 1, 0, 0, [32], List.replicate 16 0, [rowCmd], []⟩ rowMach.cohorts
                   wgs := put 32 { placedWg with cohort := 1, core := 8 } rowMach.wgs }).modVf 1
      (fun v => { v with sect := 3 })).modSect 1 (fun x => { x with holder := some 1, unitFn := some 1 })
theorem witness_FusedAndDoneCommands :
    ((queueOf rowMach (.mx 0)).head? = some rowCmd ∧ (readyFused rowMach 0 rowCmd.fuse).isSome = true ∧
      (partners 0 rowCmd.fuse).length = 2 ∧ partnersHeld rowMach 0 rowCmd.fuse = [(0, 0)] ∧
      guardHeld rowMach (.mx 0) rowCmd = false ∧ discarded rowMach (.mx 0) rowCmd = false ∧
      engineOn rowMach (queueFn rowMach (.mx 0)) = true ∧ ckptLets rowMach (.mx 0) rowCmd = true ∧ rowCmd.progress = 0 ∧ rowCmd.begun = false) ∧
    (let t := modHead (.mx 0) (fun c => { c with progress := 1 }) rowBoth
     (readyFused rowBoth 0 rowCmd.fuse).isSome = true ∧ partnersHeld rowBoth 0 rowCmd.fuse = [(0, 0), (1, 1)] ∧
      engineOn rowBoth (queueFn rowBoth (.mx 0)) = true ∧ ckptLets rowBoth (.mx 0) rowCmd = true ∧ guardHeld rowBoth (.mx 0) rowCmd = false ∧
      discarded rowBoth (.mx 0) rowCmd = false ∧ (readyFused t 0 rowCmd.fuse).map (sameFused · rowCmd) = some true ∧
      (readyFused t 1 rowCmd.fuse).map (sameFused · rowCmd) = some true ∧
      unitReady t (.mx 0) = true ∧ unitReady t (.mx 1) = true ∧ sameFused { rowCmd with op := 0x28B } rowCmd = false) ∧
    (let c := { aCmd 0x282 with done := some (0, 0) }
     let d := { aCmd 0x290 with fence := some 0 }
     queueOf (queued (.cp0 0) c) (.cp0 0) = [c] ∧ engineOn (queued (.cp0 0) c) (queueFn (queued (.cp0 0) c) (.cp0 0)) = true ∧
       cqFull (queued (.cp0 0) c) (.cp0 0) c = false ∧ queueOf (queued (.cp0 0) d) (.cp0 0) = [d]) ∧
    (let c := { aCmd 0x282 with mod := 0x24, done := some (0, 0) }
     let s := (queued (.cp0 0) c).modWg 0 (fun w => { w with cq := setNth (List.replicate 16 0) 1 w.cq })
     queueOf s (.cp0 0) = [c] ∧ cqFull s (.cp0 0) c = true) := by decide +kernel

/-- A network operation of the queue's head, as an NPUT and as an NGET. -/
def aNet (op : Nat) : NetOp :=
  { id := 7, wg := 0, thread := 0, op := op, peer := 1, job := 1, endpoint := 0, remote := 0, key := 0, traffic := 0,
    len := 8, ordered := false, port := 0, value := 0, add := false, short := false }
def netMach (op : Nat) : State :=
  { queued (.ne 0) { aCmd op with begun := true, vd := 7 } with net := [(7, aNet op)] }
/-- A function with an endpoint, whose job is 5, and room in its undo log. -/
def inbound : State :=
  (roomy (thr [])).modVf 1 (fun v => { v with addr := 1, job := 5 })
/-- An endpoint's name in a packet. -/
def toEnd (mode : Delivery) (seq : Nat) : EndpointName := ⟨1, 1, mode, 9, seq, false⟩
/-- What waited before an operation of the endpoint has been tried again. -/
def inboundNow : State := retryInbound 1 (postLogs inbound)
theorem witness_NetworkSteps :
    (packets (aNet 0x310) [1])[0]? = some (.request { aNet 0x310 with len := 1 } [1]) ∧
    look 7 (netMach 0x310).net = some (aNet 0x310) ∧ netAwaited (netMach 0x310) (aNet 0x310) = true ∧
    look 7 (netMach 0x311).net = some (aNet 0x311) ∧ netAwaited (netMach 0x311) (aNet 0x311) = true ∧
    (queueOf (netMach 0x311) (.ne 0)).head? = some { aCmd 0x311 with begun := true, vd := 7 } ∧
    ({ aNet 0x311 with ordered := true } : NetOp).ordered = true ∧ answered (aCmd 0x311) = 0 := by
  decide +kernel
theorem witness_inbound : accepts412 inbound 1 1 5 = true ∧ Memory.wf inbound.mem ∧ inbound.boot.fails ≤ 3 := by
  decide +kernel
theorem witness_inboundWrite :
    inboundOk inboundNow 1 .write 0x400080 8 = true ∧
    engineXlat inboundNow 1 0 .write 0x400080 8 = .ok 0x400080 0 := by decide +kernel
theorem witness_inboundTurns :
    let s1 := { inboundNow with flows := put 9 1 inboundNow.flows }
    inboundWaits inboundNow ⟨toEnd .rud 0, 0x400080, .write (List.replicate 8 1)⟩ = false ∧
    inboundWaits inboundNow ⟨toEnd .rud 0, 0x400080, .read 8⟩ = false ∧
    inboundWaits s1 ⟨toEnd .rod 0, 0x400080, .atomic true 1⟩ = false ∧
    inboundWaits s1 ⟨toEnd .rod 0, 0, .notify 31 2⟩ = false ∧
    (look 9 inboundNow.flows).getD 0 = (toEnd .rod 0).seq ∧ foreign inboundNow 0 0x400080 = false ∧
    ({ toEnd .rud 0 with trimmed := true } : EndpointName).mode ≠ .other := by decide +kernel
theorem witness_inboundEnds :
    inboundOk inboundNow 1 .write (2 ^ 57) 8 = false ∧ inboundOk inboundNow 1 .read 0x400080 8 = true := by
  decide +kernel
theorem witness_inboundRead : (engineRead inboundNow 1 0 2 0x400080 8).isRight = true := by decide +kernel
theorem witness_inboundStore : (engineWrite 1 0 2 0x400080 (List.replicate 8 1) inboundNow).isRight = true := by
  decide +kernel

/-- A launch of that kernel, and the machine with it. -/
def aLaunch (coop admitted : Bool) (left : List (Nat × Nat)) : Launch :=
  ⟨1, 0x400100, 0, 1, 1, 1, 0, coop, [], 0, List.replicate 16 0xFFFF, admitted, left, 0⟩
def launched (l : Launch) : State :=
  let s := base.modSect 0 (fun q => { q with tlb2 := [placedTlb] })
  { s with launches := [(0, l)], mem := memWrite s.mem 0x400100 (kernelBytes 0) }
theorem witness_launch :
    (let l := aLaunch false false [(0, 0)]
     look 0 (launched l).launches = some l ∧ couldFit 0 l (launched l) = true ∧
       (launchIntegrity l (launched l)).1 = none ∧ couldFit 0 l (launchIntegrity l (launched l)).2 = true ∧
       (launchIntegrity l { launched l with lineCid := [(0x400100 / 128, 1)] }).1 = some (0x400100, 0)) ∧
    (let l := { aLaunch false false [(0, 0)] with kernel := 0 }
     look 0 (launched l).launches = some l ∧ couldFit 0 l (launched l) = false) := by decide +kernel
theorem witness_placement :
    (let l := aLaunch true true [(0, 0)]
     dispatching (launched l) 1 = true ∧ nextLaunch (launched l) 1 = some 0 ∧
       (placeCoop 0 l l.left (launchIntegrity l (launched l)).2).isSome = true) ∧
    (let l := aLaunch false true [(0, 0)]
     dispatching (launched l) 1 = true ∧ nextLaunch (launched l) 1 = some 0 ∧
       (placeGreedy 0 l (0, 0) (launchIntegrity l (launched l)).2).isSome = true) := by decide +kernel

/-- A workgroup of that kernel that has the larger variant, with an old request on the wait list; and one that
has the smaller, with none. -/
def varMach (v1 : Nat) (l : List PoolReq) : State :=
  let s := (mach (thr []) { placedWg with kernel := 0x400100 }).modCtx 1 (fun c => { c with clock := 2 ^ 30 })
  { s.modCore 0 (fun c => { c with waitList := l }) with
    launches := [(0, aLaunch false true [])], mem := memWrite s.mem 0x400100 (kernelBytes v1) }
theorem witness_requests :
    (let s := varMach 1 [⟨0, true, 1, 0⟩]
     (s.core 0).waitList = [⟨0, true, 1, 0⟩] ∧ 0 + Config.downAge ≤ (s.ctx 1).clock ∧
       (multiVariant s 0).map (fun x => otherNeeds s x.2.1 x.2.2 true) = [[1]]) ∧
    (let s := varMach 0 []
     (multiVariant s 0).map (fun x => (otherNeeds s x.2.1 x.2.2 false,
       decide (switchGrowth s x.1 x.2.1 (x.2.2.variant 1) ≤ (grantable s 0 : Int)))) = [([1], true)]) := by
  decide +kernel

/-- The thread at a safe point. -/
def stopAt (s : State) : State := { s with mem := memWrite [] placedPc (toBytes 8 (2 ^ 47)) }
def asked (f : CkptReq → CkptReq) : State :=
  (stopAt (aged 4)).modCtx 1 (fun c => { c with ckpt := some (f ⟨[(4, 0)], []⟩) })
theorem witness_CheckpointSteps :
    ckptDue (aged 0x29810) 1 = true ∧ engineOn base 1 = true ∧ (base.ctx 1).ckpt = none ∧
    undoLow (base.modCtx 1 (fun c => { c with undoSize := 144, undo := [⟨.memory 0, 0, [], 0⟩] })) 1 = true ∧
    (let s := (aged 170000).modVf 2 (fun v => { v with ctl := 1, sect := 1, state := 1 })
     let s := { s.modCtx 2 (fun c => { c with live := true }) with launches := [(1, { aLaunch false true [(0, 0)] with fn := 2 })] }
     sliceOver s 1 = true ∧ (s.ctx 1).ckpt = none) ∧
    (let s := (stopAt base).modCore 0 (fun c => { c with dbgbp := 1#64 <<< 63 })
     (s.threads.find? (fun p => coreOf p.1 = 0 && atBreakpoint s p.1 p.2 && atRest p.2)).isSome = true ∧
       engineOn s 1 = true) ∧
    ((asked id).ctx 1).ckpt = some ⟨[(4, 0)], []⟩ ∧ canForm (asked id) 1 = true ∧
      ((asked id).ctx 1).rolledBack = false ∧
    (let s := (asked id).modCtx 1 (fun c => { c with pcycle := Config.ckptLapse })
     0 + Config.ckptLapse ≤ (s.ctx 1).pcycle) ∧ asksCkpt base 1 2 = false ∧ asksCkpt base 1 3 = false := by decide +kernel

/-- A checkpoint of it, of an image with no bytes, and the function that waits for its turn with it. -/
def anImage : Snapshot := { snapshot base 1 with bytes := [] }
def parked : State :=
  (base.modCtx 1 (fun c => { c with images := [anImage], running := false })).modVf 1 (fun v => { v with state := 3 })

theorem witness_ContextSteps :
    ((base.ctx 1).live = true ∧ (base.ctx 1).halt = none ∧ (base.ctx 1).running = true) ∧
    (let s := base.modCtx 1 (fun c => { c with halt := some ⟨3, 0, false, [], []⟩ })
     (s.ctx 1).halt = some ⟨3, 0, false, [], []⟩ ∧ (s.vf 1).closing = false) ∧
    ((∀ f ∈ tenants parked 1, (parked.ctx f).running = false) ∧ nextFn parked 1 = some 1 ∧
       (parked.ctx 1).images.length = 1 ∧ imageFault parked.fresh.2 1 anImage true = none ∧
       (imageFault parked.fresh.2 1 anImage false).isSome = true) := by decide +kernel
theorem witness_replay :
    ((base.modCtx 1 (fun c => { c with images := [anImage, anImage] })).ctx 1).images.length = 2 := by decide +kernel

/-- Queue 3 of function 1, and a queue marked for destruction, which is due. -/
def aQueue : Queue :=
  { fn := 1, num := 3, sub := 0x400200, kind := 1, logSub := 1, capPrim := 4, capOver := 4, notify := 31,
    consumer := 0, producer := 2, status := 1, index := 0, prim := [], overflow := [], events := 0, mapped := some 0,
    notified := true, rereads := 0, destroying := false, born := 0, ringPrim := 0, ringOver := 0, held := false }
def queueMach (q : Queue) : State :=
  { base with queues := [(queueKey 1 3, q)], foreman := [(0, ⟨queueKey 1 3, true, false, true, some 5, true, false⟩)] }
theorem witness_ControlWrites :
    enabled base 1 = true ∧ (base.vf 1).cstat.getLsbD 8 = false ∧
    ((base.modVf 1 (fun v => { v with cstat := 0x100 })).vf 1).cstat.getLsbD 8 = true ∧
    look (queueKey 1 3) base.queues = none ∧ look (queueKey 1 3) (queueMach aQueue).queues = some aQueue ∧
    destroyDue (queueMach aQueue) aQueue = false ∧
    (let q := { aQueue with destroying := true, producer := 0, status := 2 }
     let s := { queueMach q with foreman := [] }
     destroyDue s q = true) ∧
    (base.ctx 1).live = true ∧ (base.ctx 1).halt = none ∧ (base.ctx 1).running = true ∧
    ((base.modCtx 1 (fun c => { c with live := false })).ctx 1).live = false := by decide +kernel

/-- A ring whose first record is stamped, and one whose record is not. -/
def ringMach (q : Queue) (stamp : Nat) : State :=
  { queueMach q with mem := memWrite [] (0x400200 + 0x30) (toBytes 2 stamp) }
def stampAt (s : State) (q : Queue) : Option Nat := (slotRecord s q q.consumer).map (valAt 0x30 2)
theorem witness_ForemanSteps :
    (queueMach aQueue).queues.find? (fun p => p.2.fn = 1 && p.2.notify = 31) = some (queueKey 1 3, aQueue) ∧
    consuming (queueMach aQueue) aQueue = true ∧ announced aQueue = 2 ∧ 2 ^ aQueue.logSub = 2 ∧
    stampAt (ringMach aQueue 1) aQueue = some 1 ∧ stampOf 0 = 1 ∧ stampAt (queueMach aQueue) aQueue = some 0 ∧
    (let q := { aQueue with producer := 3 }
     consuming (queueMach q) q = true ∧ 2 ^ q.logSub < announced q) ∧
    (let q := { aQueue with producer := 0 }
     consuming (queueMach q) q = true ∧ announced q = 0) ∧
    (let q := { aQueue with rereads := 15 }
     consuming (ringMach q 1) q = true ∧ stampAt (ringMach q 1) q = some 1 ∧ stampAt (queueMach q) q = some 0) ∧
    (let q := { aQueue with rereads := 16 }
     consuming (queueMach q) q = true ∧ stampAt (queueMach q) q = some 0) ∧
    look 0 (queueMach aQueue).foreman = some ⟨queueKey 1 3, true, false, true, some 5, true, false⟩ ∧
    (let s := { inbound with queues := (queueMach aQueue).queues }
     let s0 := retryInbound 1 (postLogs s)
     let s1 := { s0 with flows := put 9 1 s0.flows }
     accepts412 s 1 1 5 = true ∧ (look 9 s0.flows).getD 0 = 0 ∧ inboundWaits s1 ⟨toEnd .rod 0, 0, .notify 31 2⟩ = false ∧
       s1.queues.find? (fun p => p.2.fn = 1 && p.2.notify = 31) = some (queueKey 1 3, aQueue)) := by decide +kernel

/-- Function 2 with sections and an endpoint; its context descriptor at 0x1000 of device memory gives areas of
`n` bytes. -/
def offMach (n : Nat) : State :=
  let m := memWrite (memWrite [] 0x1008 (toBytes 8 n)) 0x1018 (toBytes 8 n)
  { (up State.reset).modVf 2 (fun v => { v with ctl := 0x1000, sect := 1, addr := 1, qmax := 4 }) with
    mem := memWrite m 0x1040 (toBytes 8 n) }
theorem witness_FunctionSteps :
    enabled (offMach 0) 2 = false ∧ (0x1001 : DWord).getLsbD 0 = true ∧ (0x1000 : DWord).getLsbD 0 = false ∧
    mayEnable State.reset 2 0x1001 [] = false ∧ mgmtUp (offMach 0) = true := by decide +kernel
/-- Areas of the largest size that a descriptor can give are large enough. -/
theorem witness_FunctionSteps_enable :
    (let s := offMach (2 ^ 64 - 1)
     mayEnable s 2 0x1001 (memRead s.mem 0x1000 128)) = true := by
  have h (n : Nat) : decide ((Config.stateSize n).toNat ≤ 2 ^ 64 - 1) = true := by
    have := (Config.stateSize n).isLt
    simp only [decide_eq_true_eq]
    omega
  have e : valAt 8 8 (memRead (offMach (2 ^ 64 - 1)).mem 0x1000 128) = 2 ^ 64 - 1 := by decide +kernel
  simp only [mayEnable, areasFit, e, h]
  decide +kernel
/-- A function that is to be disabled; bandwidth settings on and past their limits. -/
theorem witness_FunctionSteps_settings :
    enabled (base.modCtx 1 (fun c => { c with running := false })) 1 = true ∧
    ((base.modCtx 1 (fun c => { c with running := false })).ctx 1).running = false ∧
    (let v := { base.vf 1 with band := (0x00200400 : Word) &&& 0x3FFFFFFF }
     floorOf v = 1024 ∧ ceilOf v = 1024 ∧ floorsOk base 1 1024 = true) ∧
    (let v := { base.vf 1 with band := (0x001FFC00 : Word) &&& 0x3FFFFFFF }
     ceilOf v < floorOf v) ∧
    (let v := { base.vf 1 with band := (0x00200800 : Word) &&& 0x3FFFFFFF }
     1024 < ceilOf v) := by decide +kernel

theorem witness_HostAndTraceSteps :
    (let s := base.modDie 0 (fun d => { d with pageReqs := [(3, ⟨1, 0, 1, 5, 1, false⟩)] })
     look 3 (s.die 0).pageReqs = some ⟨1, 0, 1, 5, 1, false⟩ ∧ (s.die 0).retry = []) ∧
    base.rbPending = none ∧ objectOwner base (1 <<< 40) = some 1 ∧ objectOwner base (4 <<< 40) = none ∧
    (let s := { base with rbPending := some ⟨64, 1, none, some [1]⟩ }
     s.rbPending = some ⟨64, 1, none, some [1]⟩) ∧
    (let s := (aged 256).modCtx 1 (fun c => { c with tracectl := 0x11 })
     let s := s.modThread 0 (fun t => { t with polled := true })
     runningOn s 0 = some 1 ∧ sampleDue s 1 0 = true ∧ coreQuiet s 0 = true) ∧
    (let s := base.modSlice 0 (fun v => { v with lines := [(4, ⟨0, 1, false, BitVec.allOnes 128, .normal, 0⟩)] })
     ((s.slice 0).lines.filter (fun p => [4].contains p.1)).all (fun p => !p.2.dirty) = true) ∧
    mgmtUp (up base) = true ∧ (up base).rbPending = none ∧ mgmtUp State.reset = false := by decide +kernel

/-- Starts that come up, that fail and that hang. -/
def aStart (failAt : Option Nat) (hangs : Bool) : StartOutcome := ⟨failAt, hangs, 3, [], [], 0⟩
theorem witness_starts :
    stopStage (aStart none false) = none ∧ stopStage (aStart (some 7) false) = some 7 ∧
    stopStage (aStart (some 1) true) = some 1 ∧ State.reset.boot.fails ≠ 3 ∧
    ({ State.reset with boot := { State.reset.boot with starting := true } } : State).boot.starting = true := by
  decide +kernel
/-- A frame line that is dirty in the pool, with a duplicate, and without; one that is clean. -/
def lineMach (dirty : Bool) (dups : List Dup) : State :=
  (mach { thr [] with lines := [(1, dirty)] } placedWg).modCore 0 (fun c => { c with dups := dups })
theorem witness_parity :
    repairable (lineMach true [⟨0, 1, 5⟩]) 0 1 = true ∧ repairable (lineMach false []) 0 1 = true ∧
    repairable (lineMach true []) 0 1 = false ∧ ((lineMach true []).ctx 1).halt = none ∧
    (look 0 (lineMach true []).threads).map (fun t => (look 1 t.lines).isSome) = some true := by decide +kernel
theorem witness_units :
    (let s := State.reset.setHealth 5 ⟨0, 1, 1, 0⟩
     (s.unitHealth 5).state = 1 ∧ s.vfs = []) ∧
    (let s := State.reset.setHealth 5 ⟨0, 1, 2, 0⟩
     (s.unitHealth 5).state = 2) ∧
    isLoop 0x1200 = true ∧ isLoop 0x1BF8 = true ∧ isLoop 0x1C00 = true ∧ isLoop 0x2BF8 = true ∧
    (let s := base.setLoop 0x1C00 ⟨0, 0, true⟩
     (s.loop 0x1C00).en = true ∧ runningOn s ((0x1C00 - 0x1C00) / 8) = some 1) ∧ mgmtUp (up State.reset) = true ∧
    (3 : Nat) ∉ (State.reset.die 1).lanesLost := by decide +kernel
/-- Of any 240 bits one flit is sound and one is not. -/
theorem witness_flits (b : BitVec 240) :
    flitOk (Config.bluordCrc b ++ b) = true ∧ flitOk (~~~(Config.bluordCrc b) ++ b) = false := by
  have h (c : BitVec 16) : (c ++ b).extractLsb' 240 16 = c ∧ (c ++ b).extractLsb' 0 240 = b := by
    constructor <;> refine BitVec.eq_of_getLsbD_eq fun i hi => ?_
    · rw [BitVec.getLsbD_extractLsb']
      exact (congrArg _ (BitVec.getLsbD_append (x := c) (y := b))).trans (by simp [hi])
    · rw [BitVec.getLsbD_extractLsb']
      exact (congrArg _ (BitVec.getLsbD_append (x := c) (y := b))).trans (by simp [hi])
  have ne (c : BitVec 16) : ~~~c ≠ c := by
    intro e
    have := congrArg (fun v : BitVec 16 => v.getLsbD 0) e
    simp at this
  simp [flitOk, h, ne]

theorem witness_SecurityAndFirmware :
    (let s := { State.reset with spdm := ⟨[[0]], 3, false, true⟩ }
     s.spdm.inbox = [0] :: [] ∧ spdmAt s 3 = true) ∧
    (let s := { State.reset with firmware := ⟨1, [], some (2, [5])⟩ }
     s.firmware.pending = some (2, [5])) := by decide +kernel

/-- An encoding that is not legal (a branch with a destination in a field that is to be 0xF8), and a false
guard. -/
theorem witness_GuardAndEncoding :
    (let x := iss (thr []) placedWg (Instr.nop (fl 0 0xF8 0xF8 0xF8 0))
     (programForm (Instr.nop (fl 0 0xF8 0xF8 0xF8 0))).isSome = true ∧ (x.F.check x.t.fsize).isSome = true) ∧
    (let i := Instr.iadd { fl 4 5 6 0xF8 0x140 with gp := 0 }
     let x := iss (thr []) placedWg i
     (programForm i).isSome = true ∧ (x.F.check x.t.fsize).isNone = true ∧ isPendP x.t x.F.guard.1 = false ∧
       predAt x.t x.F.guard.1 = x.F.guard.2) ∧
    (mach (thr []) placedWg).issue = [0] ∧ look 0 (mach (thr []) placedWg).threads = some (thr []) ∧
    look 0 (mach (thr []) placedWg).wgs = some placedWg := by decide +kernel

theorem witness_CompletionFrame : look 0 base.threads = some (thr []) ∧ (thr []).wg = 0 ∧ (thr []).OcOk ∧
    (let F := (iss (thr []) placedWg (Instr.iadd (fl 4 5 6 0xF8 0x140))).F
     frameForeign (useBanks 0 (operandGrans base 0 (thr []) F) base) 0 (thr []) (frameLines F (thr [])) = none) ∧
    transient? (thr []) 31 = none ∧ 31 < (thr []).frame.length :=
  ⟨by decide +kernel, by decide +kernel, thr_ocOk _, by decide +kernel, by decide +kernel, by decide +kernel⟩
theorem witness_RegisterValues : (thr []).OcOk ∧ 31 < (thr []).frame.length ∧ 0 < (thr []).frame.length :=
  ⟨thr_ocOk _, by decide +kernel, by decide +kernel⟩

/-- A handler, a null entry, an entry past the address space, no table, and both depths. -/
def trapMach (h d : Nat) : State :=
  let s := mach { thr [] with tdepth := d } placedWg
  { s.modCtx 1 (fun c => { c with htbase := 0x400800 }) with mem := memWrite [] 0x400800 (toBytes 8 h) }
def trapSlot (s : State) : Access := checkAccess s 1 0 0 .read (handlerSlot s 1 0) 8
def handlerOf (h d : Nat) : Option DWord := handlerAt (trapMach h d) 1 0 0 (trapSlot (trapMach h d))
theorem witness_TrapEntry :
    handlerOf 0x01FFFFFFFFFFFFF8 1 = some 0x01FFFFFFFFFFFFF8 ∧ handlerOf 0 0 = some 0 ∧
    handlerOf (2 ^ 57) 0 = some 0x0200000000000000 ∧
    handlerForeign (trapMach 0x400000 1) 1 0 (trapSlot (trapMach 0x400000 1)) = none ∧
    (let t := { thr [] with tdepth := 1 }
     frameRoom (trapMach 0x400000 1) 0 t (trapFrameLines { t with tdepth := t.tdepth + 1 }) = true ∧
       loadReady (trapMach 0x400000 1) 0 t (trapSlot (trapMach 0x400000 1)) = true) ∧
    (let s := { trapMach 0x400000 1 with lineCid := [(0x400800 / 128, 1)] }
     handlerForeign s 1 0 (trapSlot s) = some (0x400800, 0)) ∧
    ((trapMach 0 2).ctx 1).halt = none ∧ (look 0 (trapMach 0 2).threads).map (·.tdepth) = some 2 := by decide +kernel
/-- A handler table that cannot be read. -/
theorem witness_TrapEntry_noTable :
    (let s := base.modCtx 1 (fun c => { c with htbase := 0x0200000000000000 })
     match trapSlot s with
     | .trap r => decide (r.cause < 256)
     | _ => false) = true := by decide +kernel

/-- A thread that stands at an IADD, and the step that runs it. -/
def iaddWord : Nat := 0b00_0000000001_111_0_0_0_0_0_0_00000100_00000101_00000110_11111000_00101000000
def placed : State := placeWord State.reset 64 iaddWord
theorem witness_StepRunsTheInstruction :
    placed.agenda = .issue 0 0 :: [] ∧
    (let s0 := { placed with agenda := [] }
     trapDue s0 0 0 = none ∧ (best (candidates s0 0 0)).map (·.here) = some [0] ∧
       look 0 placed.threads = some placedThread ∧ codeForeign s0 0 1 placedPc = none ∧
       instrOf (fetchInstr 0 1 placedPc s0).1 = Instr.iadd (fl 4 5 6 0xF8 0x140)) ∧
    peek placed 1 0 .exec placedPc = .ok placedPc 0 ∧
    heldWord 1 placedPc (pathWords placed 0 (onStream placed 0 placedPc)) = none ∧
    codeFind 1 (lineOf placedPc) (placed.core 0).icache = none ∧ wordLength (BitVec.ofNat 64 iaddWord) = 8 := by
  decide +kernel
/-- A line of code that the core holds, and a word on the fetch path. -/
theorem witness_heldCode :
    (let l : CodeLine := ⟨1, lineOf placedPc, toBytes 128 iaddWord, 0⟩
     let s := placed.modCore 0 (fun c => { c with icache := [l] })
     codeFind 1 (lineOf placedPc) (s.core 0).icache = some l ∧
       wordLength (BitVec.ofNat 64 (valAt (placedPc % 128) 8 l.bytes)) = 8) ∧
    (let w : CodeWord := ⟨1, placedPc, BitVec.ofNat 64 iaddWord, 0⟩
     let s := placed.modCore 0 (fun c => { c with bcast := [some placedPc], streaming := [0], runs := [[w]] })
     onStream s 0 placedPc = true ∧ heldWord 1 placedPc (pathWords s 0 true) = some w ∧ wordLength w.word = 8) := by
  decide +kernel
theorem witness_step : ({ base with agenda := [.event (.pauseExpiry 0)] } : State).agenda
    = .event (.pauseExpiry 0) :: [] := rfl

theorem witness_DecodeEncode : (Instr.iadd (fl 4 5 6 0xF8 0x140)).wellFormed = true ∧
    encode (Instr.iadd (fl 4 5 6 0xF8 0x140)) ≠ [] := by decide +kernel
theorem witness_InvariantKept : State.reset.Inv ∧ placed.Inv ∧ (match step placed with | .next _ => true | _ => false) = true := by
  refine ⟨by unfold State.Inv; decide +kernel, by unfold State.Inv; decide +kernel, by decide +kernel⟩

/-! ### The decoder on the words that the manual writes out -/

/-- Decodes a word of one 8-byte word, or of two. -/
def dec (w : Nat) (e : Nat := 0) : Instr := decode (BitVec.ofNat 64 w) (BitVec.ofNat 64 e) 0

/-- Chapter 2, "Worked encodings", R43; R105, R116: integer and control. -/
theorem test_decode_integer :
    dec 0x0017604817C02D40
      = Instr.iadd { fl 9 2 0xF8 5 0x540 with gp := 3, gn := true, td := true, lua := true } ∧
    dec 0x028E000827C05548 = Instr.icmp (fl 1 4 0xF8 0x0A 0x548) := by decide +kernel
theorem test_decode_control :
    (match dec 0x080E07FFFD000000 with | .bra f => decide (braDisp f = -3) | _ => false) = true ∧
    (match dec 0x088E27C030002800 with | .loop f => decide (loopDisp f = 5) && f.sa == 6 && f.lua | _ => false) = true ∧
    dec 0x281E07C7C00FC400 = Instr.tagw (fl 0xF8 0xF8 1 0xF8 0x400) := by decide +kernel
theorem test_decode_pair :
    dec 0x408202A012090A00 = Instr.pairWord ⟨0x01, 4, 5, false, true, false, 0⟩ ⟨0x12, 9, 10, false, false, false, 0⟩ ∧
    (match dec 0x408505A00E04F801 with
      | .pairWord _ b => b.hop == 0x0E && b.hd == 4 && b.hs == 0xF8 | _ => false) = true := by decide +kernel
/-- Chapter 6 and R97, R132, R137: float and conversion. -/
theorem test_decode_float :
    dec 0x103E004008118644 = Instr.ffma (fl 8 1 2 0x30 0x644) ∧
    dec 0x111E002827C7C042 = Instr.f2i (fl 5 4 0xF8 0xF8 0x042) ∧
    dec 0x129E002887C06D4E = Instr.bpext (fl 5 16 0xF8 0x0D 0x54E) ∧
    dec 0x128E008047C03C5C = Instr.bpack (fl 16 8 0xF8 7 0x45C) := by decide +kernel
/-- R221, R229, R230, R232, R239: memory. -/
theorem test_decode_memory :
    dec 0x180E003027C00308 = Instr.ld (fl 6 4 0xF8 0 0x308) ∧
    dec 0x181E403877C00488 = Instr.st { fl 7 0x0E 0xF8 0 0x488 with td := true } ∧
    dec 0x188E00281038070C = Instr.atom (fl 5 2 7 0 0x70C) ∧
    dec 0x189E003020404B00 = Instr.acas (fl 6 4 8 9 0x300) ∧
    dec 0x18AE07C01038050E = Instr.red (fl 0xF8 2 7 0 0x50E) ∧
    dec 0x198E07C7C047C409 = Instr.pgrow (fl 0xF8 0xF8 8 0xF8 0x409) := by decide +kernel
/-- R303, R306, R309, R318, R323: engines. -/
theorem test_decode_engines :
    dec 0x280E07C02040A720 = Instr.acp (fl 0xF8 4 8 0x14 0x720) ∧
    dec 0x282E001037C7C024 = Instr.cpy (fl 2 6 0xF8 0xF8 0x024) ∧
    dec 0x28BE00002057C028 = Instr.mmul (fl 0 4 0x0A 0xF8 0x028) ∧
    dec 0xA8BE000027C7C028 0x004000FEBF000000 = Instr.mmul (fx 0 4 0xF8 0xF8 0x028 0x004000FEBF000000) ∧
    dec 0x293E01F9F801F800 = Instr.wait (fl 63 63 0 63 0) ∧
    dec 0x2A2E07C7C7C7C031 = Instr.sqcmp (fl 0xF8 0xF8 0xF8 0xF8 0x031) := by decide +kernel
/-- R373 to R381: system. -/
theorem test_decode_system :
    dec 0x300E07C7C0009000 = Instr.trap (fl 0xF8 0xF8 0 0x12 0) ∧
    dec 0x301E07C7C7C7C000 = Instr.tret (fl 0xF8 0xF8 0xF8 0xF8 0) ∧
    dec 0x303E07C7C7C7C009 = Instr.ckpt (fl 0xF8 0xF8 0xF8 0xF8 9) ∧
    dec 0x308E0027C0201800 = Instr.srd (fl 4 0xF8 4 3 0) ∧
    dec 0x309E07C080180000 = Instr.swr (fl 0xF8 16 3 0 0) ∧
    dec 0x30AE07C028021000 = Instr.tmark (fl 0xF8 5 0 0x42 0) ∧
    dec 0x30BE00A7C7C7C000 = Instr.csumr (fl 20 0xF8 0xF8 0xF8 0) ∧
    dec 0x30CE07C7C647C400 = Instr.idle (fl 0xF8 0xF8 200 0xF8 0x400) := by decide +kernel
/-- R170, R177, R178, and R31 and R48 field by field: parallel and network. -/
theorem test_decode_parallel_and_network :
    dec 0x200E07C7C7C7C003 = Instr.bar (fl 0xF8 0xF8 0xF8 0xF8 3) ∧
    dec 0x210E078027C03E40 = Instr.redh (fl 0xF0 4 0xF8 7 0x640) ∧
    dec 0x211E061787C03C40 = Instr.hget (fl 0xC2 0xF0 0xF8 7 0x440) ∧
    dec 0b00_1000100000_111_0_0_0_0_0_0_11111000_00000101_11111000_11111000_00000000010
      = Instr.cdecl (fl 0xF8 5 0xF8 0xF8 2) ∧
    dec 0b00_1100010000_111_0_0_0_0_0_0_11111000_00000110_00001000_11111000_00000000000
      = Instr.nput (fl 0xF8 6 8 0xF8 0) := by decide +kernel
/-- Every one of the words above can be issued, where its registers exist (R50). -/
theorem test_words_legal : okAll [dec 0x028E000827C05548, dec 0x088E07C030002800, dec 0x103E004008118644,
    dec 0x111E002827C7C042, dec 0x129E002887C06D4E, dec 0x128E008047C03C5C, dec 0x180E003027C00308,
    dec 0x188E00281038070C, dec 0x189E003020404B00, dec 0x18AE07C01038050E, dec 0x198E07C7C047C409,
    dec 0x280E07C02040A720, dec 0x282E001037C7C024, dec 0x28BE00002057C028, dec 0xA8BE000027C7C028 0x004000FEBF000000,
    dec 0x293E01F9F801F800, dec 0x2A2E07C7C7C7C031, dec 0x300E07C7C0009000, dec 0x301E07C7C7C7C000,
    dec 0x303E07C7C7C7C009, dec 0x308E0027C0201800, dec 0x309E07C080180000, dec 0x30AE07C028021000,
    dec 0x30BE00A7C7C7C000, dec 0x30CE07C7C647C400, dec 0x200E07C7C7C7C003, dec 0x210E078027C03E40,
    dec 0x211E061787C03C40, dec 0x408202A012090A00, dec 0x408505A00E04F801] = true := by
  decide +kernel
/-- The word of R31's example with SB at 0 in place of 0xF8 raises ILLEGAL_OPERAND; the pair with both
destinations in bank 0 raises ILLEGAL_PAIR. -/
theorem test_words_illegal :
    (let i := dec (0x0017604817C02D40 - 0xF8 * 2 ^ 19)
     let x := iss (thr []) placedWg i
     (x.F.check x.t.fsize).map (·.cause) = some cIllegalOperand) ∧
    (let i := dec (0x408202A012090A00 - 2 ^ 16)
     let x := iss (thr []) placedWg i
     (x.F.check x.t.fsize).map (·.cause) = some cIllegalPair) := by decide +kernel

/-! ### Ill-formed instructions -/

/-- Each check of WellFormed refuses a term. -/
theorem test_illFormed :
    (Instr.iadd { fl 4 5 6 0xF8 0x140 with form := 1 }).wellFormed = false ∧
    (Instr.iadd { fl 4 5 6 0xF8 0x140 with ext1 := 1 }).wellFormed = false ∧
    (Instr.iadd { fx 4 5 6 0xF8 0x140 1 with ext2 := 1 }).wellFormed = false ∧
    (Instr.iabs (fx 4 5 0xF8 0xF8 0x140 1)).wellFormed = false ∧
    (Instr.iadd { fx 4 5 6 0xF8 0x140 1 with form := 3 }).wellFormed = false ∧
    (Instr.fence (fl 0xF8 0xF8 0xF8 0xF8 0x100)).wellFormed = false ∧
    (Instr.fenceCode (fl 0xF8 0xF8 0xF8 0xF8 0x200)).wellFormed = false ∧
    (Instr.illegalInstruction 0x0017604817C02D40).wellFormed = false ∧
    (Instr.illegalInstruction 0).wellFormed = true := by decide +kernel
theorem test_illFormed_events :
    ([Instr.barstallWrite 256 0, Instr.signingRoundComplete 64 0, Instr.signingRoundDiscard 0 16,
      Instr.quadrantTenureGrant 64, Instr.pageRequestComplete 2 0, Instr.barrierStall 0 16, Instr.cpyCommand 0 2 1,
      Instr.notifyWrite ⟨0, 0, .rod, 0, 0, false⟩ ⟨0, 32⟩ 0, Instr.foremanTimer 256, Instr.queueCreate 0 65536, Instr.contextFault 0 13 0,
      Instr.vfctlWrite 1024 0, Instr.bandwidthWindow 256 [], Instr.bluordFlit 0 184 ⟨0, 0⟩, Instr.sliceTagError 128 0 [],
      Instr.firmwareHandoverLoad 0 []].any (·.wellFormed)) = false := by decide +kernel

/-! ### Results -/

/-- A register of the thread after an instruction, its program counter, and its predicates. -/
def after {α : Type} (f : Thread → α) (t : Thread) (i : Instr) : Option α :=
  match exec i (mach t placedWg) with
  | .next u => (look 0 u.threads).map f
  | _ => none
def g4 (regs : List Word) (i : Instr) : Option Word := after (readG · 4) (thr regs) i
def regs56 (a b : Word) : List Word := [0, 0, 0, 0, 0, a, b]

/-- R66 and R67: sums wrap, or clamp with `.sat`; R96: a carry out of p1; R68: division truncates. -/
theorem test_iadd : g4 (regs56 0x7FFFFFFF 1) (Instr.iadd (fl 4 5 6 0xF8 0x140)) = some 0x80000000 := by decide +kernel
theorem test_iadd_sat : g4 (regs56 0x7FFFFFFF 1) (Instr.iadd (fl 4 5 6 0xF8 0x142)) = some 0x7FFFFFFF := by
  decide +kernel
theorem test_iaddc : after (fun t => (readG t 4, predAt t 1)) (thr (regs56 0xFFFFFFFF 1))
    (Instr.iaddc (fl 4 5 6 0xF8 0x1C4)) = some (0, true) := by decide +kernel
theorem test_idiv : g4 (regs56 0xFFFFFFF9 2) (Instr.idiv (fl 4 5 6 0xF8 0x140)) = some 0xFFFFFFFD := by decide +kernel
theorem test_irem : g4 (regs56 0xFFFFFFF9 2) (Instr.irem (fl 4 5 6 0xF8 0x140)) = some 0xFFFFFFFF := by decide +kernel
/-- R69: a count of the width; R102's and R104's examples; R99's select table. -/
theorem test_shl : g4 (regs56 1 32) (Instr.shl (fl 4 5 6 0xF8 0x40)) = some 0 := by decide +kernel
theorem test_sar : g4 (regs56 0x80000000 32) (Instr.sar (fl 4 5 6 0xF8 0x40)) = some 0xFFFFFFFF := by decide +kernel
theorem test_bfx : g4 (regs56 0x00000AB0 0x0804) (Instr.bfx (fl 4 5 6 0xF8 0x140)) = some 0xFFFFFFAB := by
  decide +kernel
theorem test_prmb : g4 [0, 0, 0, 0, 0, 0x11223344, 0, 0x0123] (Instr.prmb (fl 4 5 6 7 0x40)) = some 0x44332211 := by
  decide +kernel
theorem test_blut : g4 [0, 0, 0, 0, 0, 0xFF00FF00, 0x12345678, 0x0000FFFF] (Instr.blut (fl 4 5 6 7 0xCA))
    = some 0xFF005678 := by decide +kernel
/-- R105 on its example's word with g4 = 9, and R108's example. -/
theorem test_icmp : after (predAt · 1) (thr [0, 0, 0, 0, 9]) (dec 0x028E000827C05548) = some true := by decide +kernel
theorem test_movi : g4 [] (Instr.movi { fl 4 0xFE 0xEE 0x90 0x440 with gp := 7 }) = some 0xFFFEEE90 := by decide +kernel
/-- R43's example: three words back; R114; R116's loop of no trips goes to its end. -/
theorem test_bra : after (·.pc) (thr []) (dec 0x080E07FFFD000000) = some 0x3FFFE8 := by decide +kernel
theorem test_call : after (fun t => (t.pc, t.lnk)) (thr []) (Instr.call (fl 0 0 0 0 0)) = some (0x400000, 0x400008) := by
  decide +kernel
theorem test_loop : after (·.pc) (thr []) (dec 0x088E07C030002800) = some 0x400028 := by decide +kernel
/-- R130: the reciprocal square root of 4 is not in its list of exact results: 0.5, with NX. -/
theorem test_frsq : after (fun t => (readG t 4, t.fstat.getLsbD 4)) (thr (regs56 0x40800000 0))
    (Instr.frsq (fl 4 5 0xF8 0xF8 0x240)) = some (0x3F000000, true) := by decide +kernel
/-- IEEE 754 values: 1/3, the square root of 2, R131's and R133's tables, R127's zero, R134's example. -/
theorem test_fdiv : g4 (regs56 0x3F800000 0x40400000) (Instr.fdiv (fl 4 5 6 0xF8 0x240)) = some 0x3EAAAAAB := by
  decide +kernel
theorem test_fsqrt : g4 (regs56 0x40000000 0) (Instr.fsqrt (fl 4 5 0xF8 0xF8 0x240)) = some 0x3FB504F3 := by
  decide +kernel
theorem test_ffma : g4 [0, 0, 0, 0, 0, 0x3F800001, 0x3F800001, 0xBF800002] (Instr.ffma (fl 4 5 6 7 0x240))
    = some 0x28800000 := by decide +kernel
theorem test_frnd : g4 (regs56 0x40200000 0) (Instr.frnd (fl 4 5 0xF8 0xF8 0x240)) = some 0x40000000 := by decide +kernel
theorem test_fmax : g4 (regs56 0x80000000 0) (Instr.fmax (fl 4 5 6 0xF8 0x240)) = some 0 := by decide +kernel
theorem test_f2i : after (readG · 5) (thr [0, 0, 0, 0, 0x42FF0000]) (dec 0x111E002827C7C042) = some 127 := by
  decide +kernel
theorem test_f2i_nosat : after (readG · 5) (thr [0, 0, 0, 0, 0x42FF0000]) (Instr.f2i (fl 5 4 0xF8 0xF8 0x040))
    = some 0xFFFFFF80 := by decide +kernel
theorem test_i2f : g4 (regs56 16777217 0) (Instr.i2f (fl 4 5 0xF8 0xF8 0x2C0)) = some 0x4B800000 := by decide +kernel
/-- R47: both halves read before either writes. -/
theorem test_pair : after (fun t => (readG t 4, readG t 9)) (thr [0, 0, 0, 0, 2, 3, 0, 0, 0, 0x40000000, 0x40400000])
    (dec 0x408202A012090A00) = some (5, 0x40C00000) := by decide +kernel
/-- R110's and R111's examples. -/
theorem test_plog : after (predAt · 3) { thr [] with preds := 0b0000110 } (Instr.plog (fl 3 1 2 7 0x88)) = some true := by
  decide +kernel
theorem test_pset : after (·.preds) { thr [] with preds := 0b0000110 } (Instr.pset (fl 0xF8 0xF8 0xF8 0xF8 2))
    = some 0b0000100 := by decide +kernel
/-- R170: a barrier of one thread; R178: an h-register of a fresh workgroup. -/
theorem test_bar : after (fun t => (t.pc, t.wait)) (thr []) (dec 0x200E07C7C7C7C003) = some (0x400008, none) := by
  decide +kernel
/-- R330 to R332, R373: TRAP 0x12 saves the next instruction's address, its own, cause 0x0C and its code, and goes
on at the handler. -/
theorem test_trap :
    (let s := base.modCtx 1 (fun c => { c with htbase := 0x400800 })
     match exec (dec 0x300E07C7C0009000) { s with mem := memWrite [] 0x400860 (toBytes 8 0x400100) } with
     | .next u => (look 0 u.threads).map (fun t =>
         (t.pc, t.tdepth, (curFrame t).rpc, (curFrame t).iaddr, (curFrame t).cause, (curFrame t).detail))
     | _ => none) = some (0x400100, 1, 0x400008, 0x400000, 0x0C, 0x12) := by decide +kernel
/-- R203, R229: an addition at the home slice leaves the sum and answers the old value; R199: little-endian bytes. -/
theorem test_atomic :
    (let o := { anOp .add .sent 1 false with size := 4 }
     let s := { withOp o with mem := memWrite [] 0x400080 (toBytes 4 0x000000FF) }
     match exec (.homeSliceAccess 0) (withEntry s) with
     | .next u => (memRead u.mem 0x400080 4, (findOp u 0).map (·.value))
     | _ => ([], none)) = ([0x04, 0x01, 0, 0], some [0xFF, 0, 0, 0]) := by decide +kernel
/-- The step runs the IADD that stands at the program counter. -/
theorem test_step :
    (match step { placed with threads := [(0, { placedThread with frame := [0, 0, 0, 0, 0, 2, 3, 0, 0] })] } with
     | .next u => u.regG 0 4
     | _ => none) = some 5 := by decide +kernel
end Sys2Proof.Tests
end

section
/-! SUPPORT. Every program instruction is run by one driver, whose check of the encoding and of the guard comes before
the instruction's own meaning (R12, R49, R51). -/

namespace Sys2Proof.Machine

/-- Two forms agree on what the driver looks at before the operands: length, guard, stop bit and encoding check. -/
structure Form.HeadEq (F G : Form) : Prop where
  len : G.len = F.len
  guard : G.guard = F.guard
  stop : G.stop = F.stop
  check : G.check = F.check

theorem Form.HeadEq.refl (F : Form) : F.HeadEq F := ⟨rfl, rfl, rfl, rfl⟩

/-- Every program instruction is run by the driver, under a form that begins as its `programForm` does. The two differ
where a meaning needs more of the driver than a claim does: CDECL's immediate, HGET's leaders, TRET's predicates. -/
theorem exec_eq_answer {i : Instr} {F : Form} (h : programForm i = some F) :
    ∃ G body, (∀ s, exec i s = answer G body s) ∧ F.HeadEq G := by
  cases i
  case pairWord a b =>
    simp only [programForm] at h
    split at h
    · rename_i ka kb ha hb
      cases h
      exact ⟨_, pairBody a b ka kb, fun s => by simp only [exec, execPairWord, ha, hb], .refl _⟩
    · cases h
  case cdecl | hget | tret => cases h; exact ⟨_, _, fun _ => rfl, rfl, rfl, rfl, rfl⟩
  all_goals cases h
  all_goals exact ⟨_, _, fun _ => rfl, .refl _⟩

/-- Settles O51: every program instruction is the driver's, and the driver looks at encoding and guard first. -/
theorem guardAndEncoding : Obligations.GuardAndEncoding := by
  intro i F s k t w hF hi ht hw
  obtain ⟨G, body, he, hG⟩ := exec_eq_answer hF
  rw [he s]
  refine ⟨fun q hq => ?_, fun hl hk hg => ?_⟩
  · rw [← hG.len]
    exact answer_illegal hi ht hw (by rw [hG.check, hq])
  · have hs : skipped k t F s = skipped k t G s := by simp only [skipped, nextPc, hG.len, hG.stop]
    rw [hs]
    exact answer_skip hi ht hw (by rw [hG.check, hl]) (by rw [hG.guard, hk]) (by rw [hG.guard, hg])

end Sys2Proof.Machine
end

section
/-! SUPPORT. No instruction and no device step stops the machine. -/

namespace Sys2Proof.Machine

theorem control_answers (fn : Nat) (act : State → State) (s : State) : ∃ t, control fn act s = .next t := by
  unfold control
  repeat' split
  all_goals exact ⟨_, rfl⟩

theorem respond_answers (code : Nat) (algs : List SpdmAlg) (blocks : List Byte → List (Nat × List Byte)) (ok : Bool)
    (next : Spdm → Spdm) (s : State) : ∃ t, respond code algs blocks ok next s = .next t := by
  unfold respond
  dsimp only
  repeat' split
  all_goals exact ⟨_, rfl⟩

theorem queueDestroy_answers (fn q : Nat) (s : State) : ∃ t, execQueueDestroy fn q s = .next t := by
  unfold execQueueDestroy
  dsimp only
  split
  · exact control_answers ..
  · split
    · exact ⟨_, rfl⟩
    · exact control_answers ..

/-- The control queue's commands and the requests of a security session answer by `control` and `respond`; every other
step answers in each of its branches, and a program instruction's driver has only one. -/
theorem exec_answers (i : Instr) (s : State) : ∃ t, exec i s = .next t := by
  cases i
  case spdmGetVersion | spdmGetCapabilities | spdmNegotiateAlgorithms | spdmGetDigests | spdmGetCertificate
    | spdmChallenge | spdmGetMeasurements | spdmKeyExchange | spdmFinish | spdmEndSession =>
    simp only [exec, execSpdmGetVersion, execSpdmGetCapabilities, execSpdmNegotiateAlgorithms, execSpdmGetDigests,
      execSpdmGetCertificate, execSpdmChallenge, execSpdmGetMeasurements, execSpdmKeyExchange, execSpdmFinish,
      execSpdmEndSession, respond_answers]
  case queueCreate | queueDestroy | queueReset | contextTearDown | contextRollBack | contextStart | tlbinvPage
    | tlbinvAll =>
    simp only [exec, execQueueCreate, queueDestroy_answers, execQueueReset, execContextTearDown, execContextRollBack,
      execContextStart, execTlbinvPage, execTlbinvAll, control_answers]
  case adaptiveLoopAction | appendConsume | barrierStall | bluordFlit | checkpointFormation | checkpointLapse
    | claimRelease | collectiveStall | commandComplete | debugBreakpoint | downRequest | fetchFault
    | firmwareHandoverCommit | foremanTimer | fusedCommandJoin | hgetStall | homeSliceAccess | idleWake
    | launchAdmission | loadDataReturn | notifyWrite | operandCacheFill | pageRequestComplete | pairWord
    | partitionHalted | pauseExpiry | peerResponse | poolGrant | poolWaitTimeout | quadrantTenureGrant
    | readbackDeliver | regroupBoundary | residueDrain | restore | selfTestEnd | signingRoundDiscard | sliceTagError
    | stampReread | start | storeAcknowledge | traceSample | transferAbandoned | undoEntryAccepted | upRequest
    | vswptStall | workgroupPlacement =>
    simp only [exec, execAdaptiveLoopAction, execAppendConsume, execBarrierStall, execBluordFlit,
      execCheckpointFormation, execCheckpointLapse, execClaimRelease, execCollectiveStall, execCommandComplete,
      execDebugBreakpoint, execDownRequest, execFetchFault, execFirmwareHandoverCommit, execForemanTimer,
      execFusedCommandJoin, execHgetStall, execHomeSliceAccess, execIdleWake, execLaunchAdmission, execLoadDataReturn,
      execNotifyWrite, execOperandCacheFill, execPageRequestComplete, execPairWord, execPartitionHalted,
      execPauseExpiry, execPeerResponse, execPoolGrant, execPoolWaitTimeout, execQuadrantTenureGrant,
      execReadbackDeliver, execRegroupBoundary, execResidueDrain, execRestore, execSelfTestEnd,
      execSigningRoundDiscard, execSliceTagError, execStampReread, execStart, execStoreAcknowledge, execTraceSample,
      execTransferAbandoned, execUndoEntryAccepted, execUpRequest, execVswptStall, execWorkgroupPlacement]
    repeat' split
    all_goals exact ⟨_, rfl⟩
  all_goals exact ⟨_, rfl⟩

/-- Settles O58, by cases over the instructions. -/
theorem everyInstructionAnswers : Obligations.EveryInstructionAnswers := exec_answers

end Sys2Proof.Machine
end

section
/-! SUPPORT. The traps of an access's address (R22, R123) and of an apprentice at a barrier instruction (R160, R168,
R299). -/

namespace Sys2Proof.Machine

theorem addrOf_lt (base index scale : Nat) (disp : Int) : addrOf base index scale disp < 2 ^ 64 := by
  unfold addrOf wrapNat
  have := Int.emod_lt_of_pos ((base : Int) + sextInt 32 index * (2 ^ scale : Nat) + disp)
    (b := (2 ^ 64 : Nat)) (by decide)
  omega

/-- An address beyond the 57-bit space. -/
theorem checkAccess_beyond (s : State) (fn core wg : Nat) (need : Need) {va : Nat} (size : Nat) (h : 2 ^ 57 ≤ va) :
    checkAccess s fn core wg need va size = .trap (violation 2 va) := by
  simp only [checkAccess, if_pos h]

theorem checkAccess_misaligned (s : State) (fn core wg : Nat) (need : Need) {va size : Nat} (h : va < 2 ^ 57)
    (hs : va % size ≠ 0) :
    checkAccess s fn core wg need va size = .trap (trapBefore cMisaligned 0 (BitVec.ofNat 64 va)) := by
  simp only [checkAccess, if_neg (Nat.not_le.mpr h), bne_iff_ne, ne_eq, hs, not_false_eq_true, if_true]

section
variable {f : Fields} {k : Nat} {t : Thread} {l : List Nat} {s : State} {q : TrapReq}

/-- LD traps where its access does. -/
theorem ldBody_trap (hh : accessHold t 1 = none)
    (hc : checkAccess s t.fn (coreOf k) t.wg .read (addrOf (nth 0 0 l) (nth 0 1 l) (mSCALE f) (dispOf f))
      (sizeOf' (mSIZE f)) = .trap q) : ldBody f k t l s = .trap q := by
  simp only [ldBody, hh, hc]

/-- ST traps where its access does. -/
theorem stBody_trap (hh : accessHold t 2 = none)
    (hc : checkAccess s t.fn (coreOf k) t.wg .write (addrOf (nth 0 0 l) (nth 0 1 l) (mSCALE f) (dispOf f))
      (sizeOf' (mSIZE f)) = .trap q) : stBody f k t l s = .trap q := by
  have hva := Nat.mod_eq_of_lt (addrOf_lt (nth 0 0 l) (nth 0 1 l) (mSCALE f) (dispOf f))
  simp only [stBody, issueWrite, blankOp, BitVec.toNat_ofNat, hva, hh, hc]
end

section
variable {x : Issue} {i : Instr} {f : Fields} {q : TrapReq}

/-- LD and ST take the trap of their access. -/
theorem Issue.Of.access_trap (h : x.Of i)
    (hi : (i = .ld f ∧ accessHold x.t 1 = none) ∨ (i = .st f ∧ accessHold x.t 2 = none))
    (hc : ∀ need, checkAccess x.s x.t.fn x.core x.t.wg need (addrOf x.a x.b (mSCALE f) (dispOf f))
      (sizeOf' (mSIZE f)) = .trap q) : exec i x.s = .next (x.trap q x.s) := by
  obtain ⟨rfl, hh⟩ | ⟨rfl, hh⟩ := hi
  · exact h.trap rfl rfl (ldBody_trap hh (hc .read))
  · exact h.trap rfl rfl (stBody_trap hh (hc .write))

/-- Readiness does not ask for an immediate, nor who leads a bundle. -/
theorem Ready.with_imm {s : State} {F : Form} {k : Nat} {t : Thread} {w : Workgroup} (h : Ready s F k t w)
    (imm : List Nat) (byRole : Bool) : Ready s { F with imm := imm, byRole := byRole } k t w :=
  { h with }

/-- The trap of an instruction that the driver runs under another immediate, or other leaders, than its `programForm`
tells of. -/
theorem Issue.Of.trap_with_imm (h : x.Of i) {G : Form} {body : Body} {imm : List Nat} {byRole : Bool}
    (hi : programForm i = some G)
    (he : exec i x.s = answer { G with imm := imm, byRole := byRole } body x.s)
    (hb : ∀ l, body x.k x.t l x.s = .trap q) : exec i x.s = .next (x.trap q x.s) := by
  obtain rfl : x.F = G := Option.some.inj (h.1.symm.trans hi)
  exact he.trans (answer_trap (h.2.with_imm imm byRole) (hb _))

/-- An apprentice traps at the barrier instructions (R160, R168, R299). -/
theorem Issue.Of.apprentice_trap (h : x.Of i) (ha : x.t.apprentice = true)
    (hi : i ∈ [.bar f, .bara f, .barw f, .redh f, .cdecl f, .hget f, .vswpt f]) :
    exec i x.s = .next (x.trap (trapBefore cIllegalInstruction) x.s) := by
  have hw := h.2.workgroup
  simp only [List.mem_cons, List.not_mem_nil, or_false] at hi
  obtain rfl | rfl | rfl | rfl | rfl | rfl | rfl := hi
  · exact h.trap rfl rfl (by simp only [arriveBody, ha, if_true])
  · exact h.trap rfl rfl (by simp only [arriveBody, ha, if_true])
  · exact h.trap rfl rfl (by simp only [ha, if_true])
  · exact h.trap rfl rfl (by simp only [redhBody, hw, ha, if_true])
  · exact h.trap_with_imm rfl rfl (fun l => by simp only [cdeclBody, ha, if_true])
  · exact h.trap_with_imm rfl rfl (fun l => by simp only [hgetBody, hw, ha, if_true])
  · exact h.trap rfl rfl (by simp [vswptBody, ha])
end

/-- Settles O19: LD and ST take the trap of their access, and each barrier instruction asks first who executes it. -/
theorem accessAndApprenticeTraps : Obligations.AccessAndApprenticeTraps :=
  ⟨fun _ _ _ hi h => ⟨fun hva => h.access_trap hi (fun need => checkAccess_beyond _ _ _ _ need _ hva),
    fun hva hn => h.access_trap hi (fun need => checkAccess_misaligned _ _ _ _ need hva hn)⟩,
   fun _ _ _ ha hi h => h.apprentice_trap ha hi⟩

end Sys2Proof.Machine
end

section
/-! SUPPORT. LD by the way in which it is served: the L1 line, the home slice, scratchpad (R122, R184, R222 to R224). -/

namespace Sys2Proof.Machine

/-- The operation that an LD of a thread at `va` is, before it is known where it is served. -/
def loadOp (f : Fields) (k : Nat) (t : Thread) (va : Nat) : MemOp :=
  let home := mORD f = 1 && mSCOPE f != 0
  { blankOp k t with
    kind := .load, va := BitVec.ofNat 64 va, size := sizeOf' (mSIZE f), ty := mSIZE f, dst := f.dst.toNat
    regs := regsOf (sizeOf' (mSIZE f)), transient := f.td, cls := 1
    acquire := if mORD f = 1 then some (mSCOPE f) else none
    bypass := home, hint := if home && mHINT f = 3 then 0 else mHINT f }

/-- Without a held operation of its own, a thread's load takes what the scratchpad holds. -/
theorem padLoad_of_unclaimed {s : State} (h : ∀ o ∈ s.ops, o.stage ≠ .claimed) (k : Nat) (w : Workgroup)
    (wg off n : Nat) : padLoad s k w wg off n = padRead w off n := by
  have hn : s.ops.filter (fun o => o.thread = k && o.stage = .claimed && o.kind = .store && padOverlap o wg off n)
      = [] := by
    simp only [List.filter_eq_nil_iff]
    intro o ho
    simp [h o ho]
  simp only [padLoad, hn, List.foldl_nil]

@[simp] theorem useBanks_ops (k : Nat) (l : List Nat) (s : State) : (useBanks k l s).ops = s.ops := by
  unfold useBanks; split <;> rfl

section
variable {f : Fields} {k va pa cid off : Nat} {t : Thread} {w : Workgroup} {l : List Nat} {line : L1Line} {s : State}

/-- LD of a line that the L1 serves. -/
theorem ldBody_hit (hva : addrOf (nth 0 0 l) (nth 0 1 l) (mSCALE f) (dispOf f) = va) (hh : accessHold t 1 = none)
    (hc : checkAccess s t.fn (coreOf k) t.wg .read va (sizeOf' (mSIZE f)) = .dev pa cid)
    (hl : l1Hit (tlbTake t.fn (coreOf k) va s) t.fn (coreOf k) cid pa (mORD f = 1 && mSCOPE f != 0) = some line)
    (hb : lineBusy (tlbTake t.fn (coreOf k) va s) k pa (sizeOf' (mSIZE f)) = false)
    (hk : banksBusy (tlbTake t.fn (coreOf k) va s) k [line.way] = false) :
    ldBody f k t l s = .done [] (send
      { loadOp f k t va with
        addr := pa, cid := cid, stage := .performed, value := bytesAt (pa % 128) (sizeOf' (mSIZE f)) line.bytes } t
      (l1Hinted (coreOf k) pa cid (mHINT f) (useBanks k [line.way] (tlbTake t.fn (coreOf k) va s)))) := by
  simp only [ldBody, hva, hh, hc, hl, hb, hk, Bool.false_eq_true, if_false, loadOp]

/-- LD of a line that the L1 does not serve asks the home slice. -/
theorem ldBody_home (hva : addrOf (nth 0 0 l) (nth 0 1 l) (mSCALE f) (dispOf f) = va) (hh : accessHold t 1 = none)
    (hc : checkAccess s t.fn (coreOf k) t.wg .read va (sizeOf' (mSIZE f)) = .dev pa cid)
    (hl : l1Hit (tlbTake t.fn (coreOf k) va s) t.fn (coreOf k) cid pa (mORD f = 1 && mSCOPE f != 0) = none) :
    ldBody f k t l s
      = .done [] (send { loadOp f k t va with addr := pa, cid := cid } t (tlbTake t.fn (coreOf k) va s)) := by
  simp only [ldBody, hva, hh, hc, hl, loadOp]

/-- LD of scratchpad in which nothing is held. -/
theorem ldBody_pad (hva : addrOf (nth 0 0 l) (nth 0 1 l) (mSCALE f) (dispOf f) = va) (hh : accessHold t 1 = none)
    (hc : checkAccess s t.fn (coreOf k) t.wg .read va (sizeOf' (mSIZE f)) = .pad off)
    (hw : look t.wg s.wgs = some w) (ho : ∀ o ∈ s.ops, o.stage ≠ .claimed) (hr : padReady s k t off 0 = true)
    (hk : banksBusy s k (padGranule w off).toList = false) :
    let o := { loadOp f k t va with
      aperture := true, addr := off, stage := .performed, value := padRead w off (sizeOf' (mSIZE f)) }
    ldBody f k t l s = .done [] (send o t (performPad o (useBanks k (padGranule w off).toList s)).1) := by
  have hn : s.ops.any (fun o => o.thread = k && o.stage = .claimed && o.kind != .store
      && padOverlap o t.wg off (sizeOf' (mSIZE f))) = false := by
    simp only [List.any_eq_false]
    intro o hm
    simp [ho o hm]
  have hp := padLoad_of_unclaimed (s := useBanks k (padGranule w off).toList s) (by simpa using ho) k w t.wg off
    (sizeOf' (mSIZE f))
  simp only [ldBody, hva, hh, hc, hw, hn, hr, hk, hp, Bool.false_eq_true, Bool.not_true, if_false, loadOp]
end

theorem l1Hit_some {s : State} {fn core cid pa : Nat} {home : Bool} {line : L1Line} (hh : home = false)
    (hr : recMode s fn = 0) (hl : l1Find (lineOf pa) cid (s.core core).l1 = some line) :
    l1Hit s fn core cid pa home = some line := by
  simp [l1Hit, hh, hr, hl]

theorem l1Hit_none {s : State} {fn core cid pa : Nat} {home : Bool}
    (h : home = true ∨ recMode s fn ≠ 0 ∨ l1Find (lineOf pa) cid (s.core core).l1 = none) :
    l1Hit s fn core cid pa home = none := by
  obtain h | h | h := h <;> simp [l1Hit, h]

/-- Settles O15: one lemma of LD's meaning for each way in which it is served. -/
theorem loads : Obligations.Loads := by
  intro f x h hh n va home Load
  refine ⟨fun pa cid hc => ⟨fun line hn hr hl hb hk => ?_, fun hm => ?_⟩, fun off hc ho hr hk => ?_⟩
  · have hl1 := l1Hit_some (home := mORD f = 1 && mSCOPE f != 0) (by simpa [home] using hn) hr hl
    exact ⟨{ loadOp f x.k x.t va with
        addr := pa, cid := cid, stage := .performed, value := bytesAt (pa % 128) n line.bytes },
      ⟨rfl, rfl, rfl, rfl, rfl, rfl, rfl, rfl, rfl, rfl, rfl⟩, rfl, rfl, rfl, rfl,
      h.done rfl rfl (ldBody_hit rfl hh hc hl1 hb hk)⟩
  · have hl1 := l1Hit_none (home := mORD f = 1 && mSCOPE f != 0) (by simpa [home] using hm)
    exact ⟨{ loadOp f x.k x.t va with addr := pa, cid := cid },
      ⟨rfl, rfl, rfl, rfl, rfl, rfl, rfl, rfl, rfl, rfl, rfl⟩, rfl, rfl, rfl, rfl,
      h.done rfl rfl (ldBody_home rfl hh hc hl1)⟩
  · exact ⟨{ loadOp f x.k x.t va with aperture := true, addr := off, stage := .performed, value := padRead x.w off n },
      ⟨rfl, rfl, rfl, rfl, rfl, rfl, rfl, rfl, rfl, rfl, rfl⟩, rfl, rfl, rfl, rfl,
      h.done rfl rfl (ldBody_pad rfl hh hc h.2.workgroup ho hr hk)⟩

end Sys2Proof.Machine
end

section
/-! SUPPORT. Registers, the operand cache and the frame slots: what lies in a register, and that only a write changes it
(R6, R13 to R19). -/

namespace Sys2Proof.Machine

/-! ### Lists -/

theorem nth_setNth_other {α : Type} (d v : α) {i n : Nat} (h : i ≠ n) (l : List α) :
    nth d i (setNth v n l) = nth d i l := by
  induction l generalizing i n with
  | nil => simp [setNth]
  | cons a l ih =>
    cases n with
    | zero => cases i with
      | zero => exact absurd rfl h
      | succ i => rfl
    | succ n => cases i with
      | zero => rfl
      | succ i => exact ih (fun hi => h (congrArg _ hi))

theorem nth_setNth_same {α : Type} (d v : α) {n : Nat} {l : List α} (h : n < l.length) :
    nth d n (setNth v n l) = v := by
  induction l generalizing n with
  | nil => simp at h
  | cons a l ih =>
    cases n with
    | zero => rfl
    | succ n => exact ih (Nat.lt_of_succ_lt_succ h)

@[simp] theorem length_setNth {α : Type} (v : α) (n : Nat) (l : List α) : (setNth v n l).length = l.length := by
  induction l generalizing n with
  | nil => simp [setNth]
  | cons a l ih => cases n <;> simp [setNth, ih]

/-! ### The entries of the operand cache -/

theorem ocFind_eq_none {n : Nat} {oc : List OcEntry} : ocFind n oc = none ↔ ∀ e ∈ oc, e.reg ≠ n := by
  simp [ocFind]

theorem ocFind_mem {n : Nat} {oc : List OcEntry} {e : OcEntry} (h : ocFind n oc = some e) : e ∈ oc ∧ e.reg = n :=
  ⟨List.mem_of_find?_eq_some h, by simpa using List.find?_some h⟩

@[simp] theorem ocFind_ocFree_same (n : Nat) (oc : List OcEntry) : ocFind n (ocFree n oc) = none := by
  simp [ocFind_eq_none, ocFree]

theorem ocFind_ocFree_other {m n : Nat} (h : m ≠ n) (oc : List OcEntry) : ocFind m (ocFree n oc) = ocFind m oc := by
  induction oc with
  | nil => rfl
  | cons e oc ih =>
    by_cases hn : e.reg = n
    · have hm : ¬ e.reg = m := fun hm => h (hm.symm.trans hn)
      simp_all [ocFree, ocFind]
    · simp_all [ocFree, ocFind, List.find?_cons]

/-- The one entry of a register. -/
theorem Thread.OcOk.ocFind_of_mem {t : Thread} (h : t.OcOk) {e : OcEntry} (he : e ∈ t.oc) :
    ocFind e.reg t.oc = some e := by
  have hs := h.single
  revert he hs
  generalize t.oc = oc
  intro he hs
  induction oc with
  | nil => cases he
  | cons d oc ih =>
    obtain ⟨hd, hs⟩ := List.nodup_cons.mp hs
    rcases List.mem_cons.mp he with rfl | he
    · simp [ocFind]
    · have hne : ¬ d.reg = e.reg := fun hr => hd (List.mem_map.mpr ⟨e, he, hr.symm⟩)
      simpa [ocFind, hne] using ih he hs

/-! ### What lies in a register, under the transient windows and the dead mask -/

/-- The value of a register in the operand cache, else in its frame slot (R16). -/
def stored (t : Thread) (n : Nat) : Word :=
  match ocFind n t.oc with
  | some e => e.val
  | none => frameAt t n

theorem stored_of_find {t : Thread} {n : Nat} {e : OcEntry} (h : ocFind n t.oc = some e) : stored t n = e.val := by
  simp only [stored, h]

theorem stored_of_none {t : Thread} {n : Nat} (h : ocFind n t.oc = none) : stored t n = frameAt t n := by
  simp only [stored, h]

theorem readG_eq (t : Thread) (n : Nat) :
    readG t n = (transient? t n).getD (if isDead t n then 0 else stored t n) := by
  unfold readG stored
  cases transient? t n <;> rfl

/-- A register reads the same where the same lies in it. -/
theorem readG_congr {t u : Thread} {n : Nat} (ht : transient? u n = transient? t n) (hd : isDead u n = isDead t n)
    (hs : stored u n = stored t n) : readG u n = readG t n := by
  rw [readG_eq, readG_eq, ht, hd, hs]

theorem stored_cons (e : OcEntry) (t : Thread) (m : Nat) :
    stored { t with oc := e :: t.oc } m = if m = e.reg then e.val else stored t m := by
  by_cases h : m = e.reg
  · simp [stored, ocFind, h]
  · simp [stored, ocFind, h, Ne.symm h]; rfl

theorem stored_free_other {m n : Nat} (h : m ≠ n) (t : Thread) :
    stored { t with oc := ocFree n t.oc } m = stored t m := by
  simp only [stored, ocFind_ocFree_other h]; rfl

/-! ### Writing a slot -/

@[simp] theorem writeBack_oc (e : OcEntry) (t : Thread) : (writeBack e t).oc = t.oc := by
  unfold writeBack; split <;> rfl
@[simp] theorem writeBack_trans (e : OcEntry) (t : Thread) : (writeBack e t).trans = t.trans := by
  unfold writeBack; split <;> rfl
@[simp] theorem writeBack_dead (e : OcEntry) (t : Thread) : (writeBack e t).dead = t.dead := by
  unfold writeBack; split <;> rfl
@[simp] theorem writeBack_fsize (e : OcEntry) (t : Thread) : (writeBack e t).fsize = t.fsize := by
  unfold writeBack; split <;> rfl
@[simp] theorem writeBack_length (e : OcEntry) (t : Thread) : (writeBack e t).frame.length = t.frame.length := by
  unfold writeBack; split
  · exact length_setNth ..
  · rfl

theorem frameAt_writeBack_other {e : OcEntry} {m : Nat} (h : m ≠ e.reg) (t : Thread) :
    frameAt (writeBack e t) m = frameAt t m := by
  unfold writeBack; split
  · exact nth_setNth_other _ _ h _
  · rfl

/-- The slot holds the entry's value afterwards: a clean entry's is there. -/
theorem frameAt_writeBack_same {e : OcEntry} {t : Thread} (hl : e.reg < t.frame.length)
    (hc : e.dirty = false → frameAt t e.reg = e.val) : frameAt (writeBack e t) e.reg = e.val := by
  unfold writeBack; split
  · exact nth_setNth_same _ _ hl
  · rename_i hd; exact hc (by simpa using hd)

/-! ### The agreement of cache and frame through the elementary changes -/

section
variable {t : Thread} {e : OcEntry}

theorem Thread.OcOk.free (h : t.OcOk) (n : Nat) : ({ t with oc := ocFree n t.oc } : Thread).OcOk where
  sized := h.sized
  inFrame d hd := h.inFrame d (List.mem_of_mem_filter hd)
  single := h.single.sublist ((List.filter_sublist).map _)
  clean d hd := h.clean d (List.mem_of_mem_filter hd)

theorem Thread.OcOk.cons (h : t.OcOk) (hn : ocFind e.reg t.oc = none) (hl : e.reg < t.frame.length)
    (hc : e.dirty = false → frameAt t e.reg = e.val) : ({ t with oc := e :: t.oc } : Thread).OcOk where
  sized := h.sized
  inFrame d hd := by
    rcases List.mem_cons.mp hd with rfl | hd
    · exact hl
    · exact h.inFrame d hd
  single := by
    refine List.nodup_cons.mpr ⟨fun hm => ?_, h.single⟩
    obtain ⟨d, hd, hr⟩ := List.mem_map.mp hm
    exact ocFind_eq_none.mp hn d hd hr
  clean d hd := by
    rcases List.mem_cons.mp hd with rfl | hd
    · exact hc
    · exact h.clean d hd

theorem Thread.OcOk.writeBack (h : t.OcOk) (hn : ocFind e.reg t.oc = none) : (writeBack e t).OcOk where
  sized := by simpa using h.sized
  inFrame d hd := by simpa using h.inFrame d (by simpa using hd)
  single := by simpa using h.single
  clean d hd hk := by
    have hd' : d ∈ t.oc := by simpa using hd
    rw [frameAt_writeBack_other (ocFind_eq_none.mp hn d hd')]
    exact h.clean d hd' hk

end

/-! ### Placing an entry -/

/-- An entry leaves the operand cache, written back if it is dirty (R14). -/
def evictEntry (v : OcEntry) (t : Thread) : Thread := writeBack v { t with oc := ocFree v.reg t.oc }

theorem evictEntry_ocOk {t : Thread} {v : OcEntry} (h : t.OcOk) : (evictEntry v t).OcOk :=
  (h.free v.reg).writeBack (ocFind_ocFree_same ..)

/-- An eviction changes no register. -/
theorem stored_evictEntry {t : Thread} {v : OcEntry} (h : t.OcOk) (hv : v ∈ t.oc) (m : Nat) :
    stored (evictEntry v t) m = stored t m := by
  by_cases hm : m = v.reg
  · subst hm
    rw [stored_of_find (h.ocFind_of_mem hv), stored_of_none (by simp [evictEntry])]
    exact frameAt_writeBack_same (h.inFrame v hv) (h.clean v hv)
  · rw [← stored_free_other hm t]
    simp only [stored, evictEntry, writeBack_oc, frameAt_writeBack_other hm]

/-- What placing an entry comes to: it takes its register's place, a free one, or another's, or it goes straight to
its slot (R13, R15). -/
theorem ocPlace_cases (named : List Nat) (e : OcEntry) (t : Thread) :
    ocPlace named e t = { t with oc := e :: ocFree e.reg t.oc } ∨
    (ocFind e.reg t.oc = none ∧
      (ocPlace named e t = { t with oc := e :: t.oc } ∨
      (∃ v ∈ t.oc, ocPlace named e t = { evictEntry v t with oc := e :: (evictEntry v t).oc }) ∨
      ocPlace named e t = writeBack e t)) := by
  unfold ocPlace
  split
  · exact .inl rfl
  · rename_i hn
    refine .inr ⟨hn, ?_⟩
    split
    · exact .inl rfl
    · rename_i v hv
      have hmem : v ∈ t.oc := by
        unfold victim at hv
        dsimp only at hv
        split at hv
        · cases hv
        · split at hv
          · rename_i w hw
            cases hv
            exact List.mem_of_mem_filter (List.mem_of_mem_filter (List.mem_of_getLast? hw))
          · cases hv
      refine .inr (.inl ⟨v, hmem, ?_⟩)
      simp only [evictEntry, writeBack_oc]
      unfold writeBack
      split <;> rfl
    · exact .inr (.inr rfl)

/-- Placing an entry gives its register its value, changes no other register's, and keeps cache and frame in
agreement. -/
structure Places (e : OcEntry) (t u : Thread) : Prop where
  ok : u.OcOk
  trans : u.trans = t.trans
  dead : u.dead = t.dead
  value : ∀ m, stored u m = if m = e.reg then e.val else stored t m

section
variable {t : Thread} {e : OcEntry}

theorem places_cons (h : t.OcOk) (hn : ocFind e.reg t.oc = none) (hl : e.reg < t.frame.length)
    (hc : e.dirty = false → frameAt t e.reg = e.val) : Places e t { t with oc := e :: t.oc } :=
  ⟨h.cons hn hl hc, rfl, rfl, stored_cons e t⟩

/-- The entry of a register is replaced, and is the latest used. -/
theorem places_front (h : t.OcOk) (hl : e.reg < t.frame.length) (hc : e.dirty = false → frameAt t e.reg = e.val) :
    Places e t { t with oc := e :: ocFree e.reg t.oc } where
  ok := (h.free e.reg).cons (ocFind_ocFree_same ..) hl hc
  trans := rfl
  dead := rfl
  value m := by
    rw [stored_cons e { t with oc := ocFree e.reg t.oc }]
    split
    · rfl
    · rename_i hm; exact stored_free_other hm t

theorem places_ocPlace (h : t.OcOk) (hl : e.reg < t.frame.length) (hc : e.dirty = false → frameAt t e.reg = e.val)
    (named : List Nat) : Places e t (ocPlace named e t) := by
  obtain hp | ⟨hn, hp | ⟨v, hv, hp⟩ | hp⟩ := ocPlace_cases named e t <;> rw [hp]
  · exact places_front h hl hc
  · exact places_cons h hn hl hc
  · have hne : e.reg ≠ v.reg := fun hr => ocFind_eq_none.mp hn v hv hr.symm
    have hf : frameAt (evictEntry v t) e.reg = frameAt t e.reg := frameAt_writeBack_other hne _
    have hcons := places_cons (e := e) (evictEntry_ocOk (v := v) h)
      (by simpa [evictEntry, ocFind_ocFree_other hne] using hn) (by simpa [evictEntry] using hl) (by rwa [hf])
    exact ⟨hcons.ok, by simp [evictEntry], by simp [evictEntry], fun m => by rw [hcons.value, stored_evictEntry h hv]⟩
  · refine ⟨h.writeBack hn, by simp, by simp, fun m => ?_⟩
    split
    · rename_i hm
      subst hm
      rw [stored_of_none (by simpa using hn), frameAt_writeBack_same hl hc]
    · rename_i hm
      simp only [stored, writeBack_oc, frameAt_writeBack_other hm]

end

/-! ### The dead mask -/

theorem isDead_set (t : Thread) (n m : Nat) (hm : m < 192) :
    (t.dead ||| (1#192 <<< n)).getLsbD m = (isDead t m || decide (m = n)) := by
  rw [isDead, BitVec.getLsbD_or, BitVec.getLsbD_shiftLeft, BitVec.getLsbD_one]
  grind

theorem isDead_clear (t : Thread) (n m : Nat) :
    (t.dead &&& ~~~(1#192 <<< n)).getLsbD m = (isDead t m && !decide (m = n)) := by
  rw [isDead, BitVec.getLsbD_and, BitVec.getLsbD_not, BitVec.getLsbD_shiftLeft, BitVec.getLsbD_one]
  by_cases hm : m < 192
  · grind
  · simp [BitVec.getLsbD_of_ge t.dead m (by omega)]

/-! ### Transient windows -/

theorem transient?_eq_none {t : Thread} {n : Nat} :
    transient? t n = none ↔ ∀ e ∈ t.trans, e.reg = n → 2 < e.age := by
  simp [transient?]

/-- The window of a register that is written ends, and ageing opens none (R19). -/
theorem transient?_ageTrans {t : Thread} {l : List Nat} {m : Nat} (h : m ∈ l ∨ transient? t m = none) :
    transient? (ageTrans l t) m = none := by
  refine transient?_eq_none.mpr fun e he hm => ?_
  simp only [ageTrans, List.mem_filter, List.mem_map] at he
  obtain ⟨⟨d, ⟨hd, hl⟩, rfl⟩, -⟩ := he
  obtain h | h := h
  · subst hm
    simp [h] at hl
  · have := transient?_eq_none.mp h d hd hm
    exact Nat.lt_succ_of_lt this

theorem Thread.OcOk.ageTrans {t : Thread} (h : t.OcOk) (l : List Nat) : (ageTrans l t).OcOk :=
  ⟨h.sized, h.inFrame, h.single, h.clean⟩

/-! ### Writes -/

theorem writeG_one (named : List Nat) (n : Nat) (v : Word) (t : Thread) :
    writeG named n [v] false t = storeG named n v (ageTrans [n] t) := rfl

theorem writeG_one_transient (named : List Nat) (n : Nat) (v : Word) (t : Thread) :
    writeG named n [v] true t = { ageTrans [n] t with trans := ⟨n, v, 0⟩ :: (ageTrans [n] t).trans } := rfl

/-- The thread in which a register lives again (R17). -/
def revive (n : Nat) (t : Thread) : Thread :=
  { t with dead := t.dead &&& ~~~(1#192 <<< n), fills := t.fills.filter (· != n) }

theorem revive_ocOk {t : Thread} (h : t.OcOk) (n : Nat) : (revive n t).OcOk := ⟨h.sized, h.inFrame, h.single, h.clean⟩

theorem places_storeG {t : Thread} {n : Nat} (h : t.OcOk) (hn : n < t.frame.length) (named : List Nat) (v : Word) :
    Places ⟨n, v, true⟩ (revive n t) (storeG named n v t) :=
  places_ocPlace (revive_ocOk h n) hn (fun hd => Bool.noConfusion hd) named

theorem storeG_ocOk {t : Thread} {n : Nat} (h : t.OcOk) (hn : n < t.frame.length) (named : List Nat) (v : Word) :
    (storeG named n v t).OcOk := (places_storeG h hn named v).ok

theorem transient?_congr {t u : Thread} (h : u.trans = t.trans) (n : Nat) : transient? u n = transient? t n := by
  rw [transient?, transient?, h]

theorem readG_storeG_same {t : Thread} {n : Nat} (h : t.OcOk) (hn : n < t.frame.length) (ht : transient? t n = none)
    (named : List Nat) (v : Word) : readG (storeG named n v t) n = v := by
  have hp := places_storeG h hn named v
  have htrans : transient? (storeG named n v t) n = none := (transient?_congr hp.trans n).trans ht
  have hdead : isDead (storeG named n v t) n = false := by
    rw [isDead, hp.dead]
    exact (isDead_clear t n n).trans (by simp)
  rw [readG_eq, htrans, hdead, hp.value]
  simp

theorem readG_storeG_other {t : Thread} {n m : Nat} (h : t.OcOk) (hn : n < t.frame.length) (hm : m ≠ n)
    (named : List Nat) (v : Word) : readG (storeG named n v t) m = readG t m := by
  have hp := places_storeG h hn named v
  refine readG_congr (transient?_congr hp.trans m) ?_ ?_
  · rw [isDead, hp.dead]
    exact (isDead_clear t n m).trans (by simp [hm])
  · rw [hp.value, if_neg hm]
    rfl

/-! ### Fills, touches and write-backs change no value -/

/-- An entry that holds what its register holds is placed without being seen. -/
theorem Places.readG {e : OcEntry} {t u : Thread} (h : Places e t u) (he : e.val = stored t e.reg) (m : Nat) :
    readG u m = readG t m := by
  refine readG_congr (transient?_congr h.trans m) (by rw [isDead, isDead, h.dead]) ?_
  rw [h.value]
  split
  · rename_i hm; rw [he, hm]
  · rfl

/-- What a read leaves in the operand cache. -/
theorem touchG_cases {t : Thread} {n : Nat} (h : t.OcOk) (hn : n < t.frame.length) (named : List Nat) :
    touchG named n t = t ∨ ∃ e, e.reg = n ∧ e.val = stored t n ∧ Places e t (touchG named n t) := by
  unfold touchG
  split
  · exact .inl rfl
  · split
    · rename_i e he
      obtain ⟨hm, rfl⟩ := ocFind_mem he
      exact .inr ⟨e, rfl, (stored_of_find he).symm, places_front h hn (h.clean e hm)⟩
    · rename_i hnone
      split
      · exact .inl rfl
      · exact .inr ⟨⟨n, frameAt t n, false⟩, rfl, (stored_of_none hnone).symm, places_ocPlace h hn (fun _ => rfl) named⟩

theorem touchG_ocOk {t : Thread} {n : Nat} (h : t.OcOk) (hn : n < t.frame.length) (named : List Nat) :
    (touchG named n t).OcOk := by
  obtain he | ⟨e, -, -, hp⟩ := touchG_cases h hn named
  · rwa [he]
  · exact hp.ok

theorem readG_touchG {t : Thread} {n : Nat} (h : t.OcOk) (hn : n < t.frame.length) (named : List Nat) (m : Nat) :
    readG (touchG named n t) m = readG t m := by
  obtain he | ⟨e, rfl, hv, hp⟩ := touchG_cases h hn named
  · rw [he]
  · exact hp.readG hv m

theorem readG_fillG {t : Thread} {n : Nat} (h : t.OcOk) (hn : n < t.frame.length) (m : Nat) :
    readG (fillG n t) m = readG t m := by
  unfold fillG
  dsimp only
  split
  · rfl
  · rename_i hc
    have hnone : ocFind n t.oc = none := by
      simp only [Bool.or_eq_true, not_or, Bool.not_eq_true, Option.isSome_eq_false_iff, Option.isNone_iff_eq_none] at hc
      exact hc.2
    have hp := places_ocPlace (t := { t with fills := t.fills.filter (· != n) }) (e := ⟨n, frameAt t n, false⟩)
      ⟨h.sized, h.inFrame, h.single, h.clean⟩ hn (fun _ => rfl) []
    exact hp.readG (stored_of_none hnone).symm m

/-- What writing back some entries leaves of a slot that none of them is for. -/
theorem frameAt_writeBacks {l : List OcEntry} {m : Nat} (hl : ∀ e ∈ l, e.reg ≠ m) (skip : OcEntry → Bool) (t : Thread) :
    frameAt (l.foldl (fun u e => if skip e then u else writeBack e u) t) m = frameAt t m := by
  induction l generalizing t with
  | nil => rfl
  | cons e l ih =>
    rw [List.foldl_cons, ih (fun d hd => hl d (List.mem_cons_of_mem _ hd))]
    split
    · rfl
    · exact frameAt_writeBack_other (hl e List.mem_cons_self).symm t

/-- Writing entries back ends no window and kills no register. -/
theorem writeBacks_kept (l : List OcEntry) (skip : OcEntry → Bool) (t : Thread) :
    (l.foldl (fun u e => if skip e then u else writeBack e u) t).trans = t.trans ∧
    (l.foldl (fun u e => if skip e then u else writeBack e u) t).dead = t.dead := by
  induction l generalizing t with
  | nil => exact ⟨rfl, rfl⟩
  | cons e l ih => rw [List.foldl_cons]; split <;> simp [ih]

theorem ocFind_map_clean (n : Nat) (oc : List OcEntry) :
    ocFind n (oc.map (fun e => { e with dirty := false })) = (ocFind n oc).map (fun e => { e with dirty := false }) := by
  induction oc with
  | nil => rfl
  | cons e oc ih =>
    by_cases h : e.reg = n
    · simp [ocFind, h]
    · simp only [ocFind] at ih ⊢
      simp [h, ih]

theorem readG_ocSync (t : Thread) (m : Nat) : readG (ocSync t) m = readG t m := by
  obtain ⟨htrans, hdead⟩ := writeBacks_kept t.oc (fun e => t.dead.getLsbD e.reg) t
  refine readG_congr (transient?_congr htrans m) (by simp only [isDead, ocSync, hdead]) ?_
  have hfind : ocFind m (ocSync t).oc = (ocFind m t.oc).map (fun e => { e with dirty := false }) :=
    ocFind_map_clean m t.oc
  cases ho : ocFind m t.oc with
  | some e => rw [stored_of_find (hfind.trans (congrArg _ ho)), stored_of_find ho]
  | none =>
    rw [stored_of_none (hfind.trans (congrArg _ ho)), stored_of_none ho]
    exact frameAt_writeBacks (ocFind_eq_none.mp ho) _ t

/-! ### Dead registers, fixed registers, predicates -/

theorem readG_killG {t : Thread} {n : Nat} (hn : n < 192) (ht : transient? t n = none) : readG (killG [n] t) n = 0 := by
  have hd : isDead (killG [n] t) n = true := (isDead_set t n n hn).trans (by simp)
  have hk : transient? (killG [n] t) n = none := ht
  rw [readG_eq, hk, hd]
  rfl

theorem predAt_setPred_same {p : Nat} (hp : p < 7) (b : Bool) (t : Thread) : predAt (setPred p b t) p = b := by
  unfold setPred predAt
  rw [if_neg (by omega)]
  cases b <;> simp <;> omega

theorem predAt_setPred_other {p q : Nat} (hq : q ≠ p) (b : Bool) (t : Thread) :
    predAt (setPred p b t) q = predAt t q := by
  have hbit : (1#7 <<< p).getLsbD q = false := by
    rw [BitVec.getLsbD_shiftLeft, BitVec.getLsbD_one]
    grind
  unfold setPred predAt
  split
  · rfl
  · congr 1
    cases b
    · simp only [Bool.false_eq_true, if_false, BitVec.getLsbD_and, BitVec.getLsbD_not, hbit]
      cases h : t.preds.getLsbD q
      · rfl
      · simp [BitVec.lt_of_getLsbD h]
    · simp only [if_true, BitVec.getLsbD_or, hbit, Bool.or_false]

/-- Settles O53: every change of the operand cache places an entry, writes one back or drops one, and `Places` says what
registers then read. -/
theorem registerValues : Obligations.RegisterValues := by
  intro t n v named h hf hn
  have hage : transient? (ageTrans [n] t) n = none := transient?_ageTrans (.inl List.mem_cons_self)
  refine ⟨⟨?_, ?_, fun m hm ht => ?_⟩, ?_, fun m => ⟨readG_touchG h hf named m, readG_ocSync t m, readG_fillG h hf m⟩,
    touchG_ocOk h hf named, readG_killG hn, fun _ _ _ => rfl, fun _ _ _ _ _ => rfl, rfl, fun _ => rfl,
    fun p b hp => ⟨predAt_setPred_same hp b t, fun q hq => predAt_setPred_other hq b t⟩⟩
  · exact readG_storeG_same (h.ageTrans [n]) hf hage named v
  · exact storeG_ocOk (h.ageTrans [n]) hf named v
  · rw [writeG_one, readG_storeG_other (h.ageTrans [n]) hf hm]
    exact readG_congr ((transient?_ageTrans (.inr ht)).trans ht.symm) rfl rfl
  · simp [writeG_one_transient, readG_eq, transient?]

end Sys2Proof.Machine
end

section
/-! SUPPORT. A completion that changes another thread: the word popped from a completion queue stands for a task's
record (R262, R402). -/

namespace Sys2Proof.Machine

/-- MOV g4, q0. -/
def movFromQueue : Fields := ⟨0, 7, false, false, false, false, false, false, 4, 0xE0, 0xF8, 0xF8, 0x40, 0, 0⟩
def movFromQueueForm : Form := intForm movFromQueue 1 [2, 3, 4] false false false

/-- The record of a task whose list of regions stands at 0x1000 (R262). -/
def listedRecord : List Byte := patch 0x28 (toBytes 8 0x1000) (List.replicate 64 0)

/-- A workgroup whose q0 holds the OK word of a TKPOP of that record. -/
def poppedWg : Workgroup := { placedWg with cq := [[0x04000000]], popped := [(0, [listedRecord])] }

/-- Its second thread waits at CKPT.w (R375). -/
def ckptWaiter : Thread := { placedThread with tlin := 1, wait := some (.ckpt 0) }

/-- The page of the list is in the core's TLB; the list names the byte at address 0, which only the tables translate.
The hypervisor stage maps the tenant's root, at 2^30, to line 0 (entries at 0 and 8), and line 0 carries another
owner's tag, so that the walk fails its integrity check (R206, R402). -/
def foreignTables : State :=
  { State.reset with
    issue := [0]
    threads := [(0, placedThread), (1, ckptWaiter)]
    wgs := [(0, poppedWg)]
    ctxs := [(placedFn, { Context.reset with tst := 2 ^ 30 })]
    cores := [(0, { Core.reset with tlb := [⟨placedFn, 1, 12, 0x1000, 0, true, true, true⟩] })]
    mem := [(0, 0x01), (8, 0x23), (0x1008, 0x01)]
    lineCid := [(0, 1)] }

/-- The state after MOV has completed. -/
def foreignTablesAfter : State :=
  completed 0 placedThread movFromQueueForm (nextPc placedThread movFromQueueForm) [0x04000000] foreignTables

/-- No line of MOV's own frame fails its check. -/
theorem foreignTables_frame_sound :
    frameForeign (useBanks 0 (operandGrans foreignTables 0 placedThread movFromQueueForm) foreignTables) 0 placedThread
      (frameLines movFromQueueForm placedThread) = none := by decide +kernel

/-- The model runs the instruction to this state: the counterexample is a step of the machine. -/
theorem foreignTables_exec : exec (.mov movFromQueue) foreignTables = .next foreignTablesAfter := by
  have hready : Ready foreignTables movFromQueueForm 0 placedThread poppedWg :=
    ⟨rfl, rfl, rfl, rfl, rfl, rfl, rfl, rfl, rfl, rfl, rfl, rfl, rfl, rfl, rfl⟩
  exact answer_done hready rfl

/-- INTEGRITY_FAIL abandons the forming checkpoint, and who waits for it goes on (R348, R375, R402). -/
theorem ckptWaiter_goes_on :
    (look 1 foreignTables.threads).map (·.wait) = some (some (.ckpt 0)) ∧
    (look 1 foreignTablesAfter.threads).map (·.wait) = some none := by decide +kernel

/-- Refutes O52: MOV of q0 takes an OK word of TKPOP away, with it the record's regions are read (R262), and where the walk
to their list meets a line that fails its integrity check, INTEGRITY_FAIL ends the CKPT.w wait of another thread. The
statement asks integrity of the thread's own frame lines alone. -/
theorem not_completionFrame : ¬ Obligations.CompletionFrame := by
  intro h
  obtain ⟨-, -, -, -, -, -, -, -, -, -, -, -, -, hothers, -⟩ := h 0 placedThread movFromQueueForm
    (nextPc placedThread movFromQueueForm) [0x04000000] foreignTables placedThread rfl rfl foreignTables_frame_sound
  obtain ⟨hbefore, hafter⟩ := ckptWaiter_goes_on
  have hsame : look 1 foreignTablesAfter.threads = look 1 foreignTables.threads := hothers 1 (by decide)
  rw [hsame, hbefore] at hafter
  cases hafter

end Sys2Proof.Machine
end

section
/-! SUPPORT. The device steps of a core: claims, fills, regroup boundaries, illegal words and failed fetches (R14, R26,
R49, R51, R142, R198, R209). -/

namespace Sys2Proof.Machine

/-! ### What an engine's translation and a frame's traffic leave (R194, R208, R345) -/

/-- A fold of steps that keep some part of the state. -/
theorem foldl_same {α β : Type} {g : State → β} {f : State → α → State} (h : ∀ s x, g (f s x) = g s) (l : List α)
    (s : State) : g (l.foldl f s) = g s := by
  induction l generalizing s with
  | nil => rfl
  | cons x l ih => exact (ih _).trans (h s x)

theorem foldl_threads_wgs {α : Type} {f : State → α → State}
    (h : ∀ s x, (f s x).threads = s.threads ∧ (f s x).wgs = s.wgs) (l : List α) (s : State) :
    (l.foldl f s).threads = s.threads ∧ (l.foldl f s).wgs = s.wgs :=
  ⟨foldl_same (fun s x => (h s x).1) l s, foldl_same (fun s x => (h s x).2) l s⟩

theorem walkSlices_threads_wgs (fn va : Nat) (s : State) :
    (walkSlices fn va s).threads = s.threads ∧ (walkSlices fn va s).wgs = s.wgs := by
  unfold walkSlices readTables
  refine foldl_threads_wgs (fun s x => ?_) _ _
  exact ⟨rfl, rfl⟩

theorem frameWalk_threads_wgs (k : Nat) (t : Thread) (n : Nat) (s : State) :
    (frameWalk k t n s).threads = s.threads ∧ (frameWalk k t n s).wgs = s.wgs := by
  unfold frameWalk sectXlat
  split
  · exact ⟨rfl, rfl⟩
  · split <;> exact walkSlices_threads_wgs ..

theorem logFrame_threads_wgs (k : Nat) (old : Thread) (s : State) (n : Nat) :
    (logFrame k old s n).threads = s.threads ∧ (logFrame k old s n).wgs = s.wgs := by
  unfold logFrame
  split
  · exact ⟨rfl, rfl⟩
  · split <;> exact ⟨rfl, rfl⟩

theorem noteMisses_threads_wgs (core n : Nat) (s : State) :
    (noteMisses core n s).threads = s.threads ∧ (noteMisses core n s).wgs = s.wgs := by
  unfold noteMisses; split <;> exact ⟨rfl, rfl⟩

/-- Frame traffic of thread `k`: of the threads and workgroups, only this thread has changed, and of it only which lines
the pool holds and which its step has written. -/
structure FrameTraffic (k : Nat) (s u : State) : Prop where
  others : ∀ j, j ≠ k → look j u.threads = look j s.threads
  own : ∀ t, look k s.threads = some t →
    ∃ lines wrote, look k u.threads = some { t with lines := lines, wrote := wrote }
  wgs : u.wgs = s.wgs

section
variable {k : Nat} {s u v : State}

theorem FrameTraffic.trans (h : FrameTraffic k s u) (g : FrameTraffic k u v) : FrameTraffic k s v where
  others j hj := (g.others j hj).trans (h.others j hj)
  own t ht := by
    obtain ⟨lines, wrote, hu⟩ := h.own t ht
    obtain ⟨lines', wrote', hv⟩ := g.own _ hu
    exact ⟨lines', wrote', hv⟩
  wgs := g.wgs.trans h.wgs

theorem FrameTraffic.of_eq (h : u.threads = s.threads ∧ u.wgs = s.wgs) : FrameTraffic k s u where
  others j _ := by rw [h.1]
  own t ht := ⟨t.lines, t.wrote, by rw [h.1, ht]⟩
  wgs := h.2

/-- A change of what a thread holds of its frame's lines. -/
theorem FrameTraffic.modThread (s : State) {f : Thread → Thread}
    (hf : ∀ t, ∃ lines wrote, f t = { t with lines := lines, wrote := wrote }) : FrameTraffic k s (s.modThread k f) where
  others j hj := by simp [hj]
  own t ht := by
    obtain ⟨lines, wrote, hft⟩ := hf t
    exact ⟨lines, wrote, by simp [ht, hft]⟩
  wgs := rfl

theorem FrameTraffic.modCore (s : State) (core : Nat) (f : Core → Core) : FrameTraffic k s (s.modCore core f) :=
  .of_eq ⟨rfl, rfl⟩

theorem fillFrames_traffic (t : Thread) (l : List Nat) (s : State) : FrameTraffic k s (fillFrames k t l s) := by
  unfold fillFrames
  dsimp only
  split
  · exact .of_eq ⟨rfl, rfl⟩
  · refine ((FrameTraffic.of_eq (noteMisses_threads_wgs ..)).trans (.of_eq (foldl_threads_wgs (fun s n => ?_) _ _))).trans
      (.modThread _ (fun t => ⟨_, t.wrote, rfl⟩))
    split
    · exact frameWalk_threads_wgs ..
    · exact ⟨rfl, rfl⟩

theorem accountFrames_traffic (old : Thread) (s : State) : FrameTraffic k s (accountFrames k old s) := by
  unfold accountFrames
  split
  · exact .of_eq ⟨rfl, rfl⟩
  · split
    · exact .of_eq ⟨rfl, rfl⟩
    · exact ((FrameTraffic.of_eq (foldl_threads_wgs (logFrame_threads_wgs k old) _ s)).trans (.modCore ..)).trans
        (.modThread _ (fun t => ⟨t.lines, [], rfl⟩))
end

/-! ### Fills that OCFIL asked for -/

@[simp] theorem writeBack_fills (e : OcEntry) (t : Thread) : (writeBack e t).fills = t.fills := by
  unfold writeBack; split <;> rfl

theorem ocPlace_fills (named : List Nat) (e : OcEntry) (t : Thread) : (ocPlace named e t).fills = t.fills := by
  obtain h | ⟨-, h | ⟨v, -, h⟩ | h⟩ := ocPlace_cases named e t <;> rw [h]
  · exact writeBack_fills ..
  · exact writeBack_fills ..

theorem fillG_fills (n : Nat) (t : Thread) : (fillG n t).fills = t.fills.filter (· != n) := by
  unfold fillG
  dsimp only
  split
  · rfl
  · exact ocPlace_fills ..

theorem frameForeign_modThread (s : State) (j : Nat) (f : Thread → Thread) (k : Nat) (t : Thread) (l : List Nat) :
    frameForeign (s.modThread j f) k t l = frameForeign s k t l := rfl

theorem exec_operandCacheFill {s : State} {k n : Nat} {t : Thread} (ht : look k s.threads = some t) (hn : n ∈ t.fills)
    (hr : frameRoom s k t (fillG n { t with wrote := [] }).wrote = true) (hf : frameForeign s k t [n / 32] = none) :
    exec (.operandCacheFill k n) s
      = .next (accountFrames k t (fillFrames k t [n / 32] (s.modThread k (fillG n)))) := by
  have hc : t.fills.contains n = true := by simpa using hn
  have hf' : frameForeign (s.modThread k (fillG n)) k t [n / 32] = none := (frameForeign_modThread ..).trans hf
  simp only [exec, execOperandCacheFill, ht, hc, hr, Bool.not_true, Bool.or_self, Bool.false_eq_true, if_false,
    fillChecked, hf']

theorem operandCacheFill_fills {s : State} {k n : Nat} {t : Thread} (ht : look k s.threads = some t) (hn : n ∈ t.fills)
    (hr : frameRoom s k t (fillG n { t with wrote := [] }).wrote = true) (hf : frameForeign s k t [n / 32] = none) :
    ∃ u z, exec (.operandCacheFill k n) s = .next u ∧ look k u.threads = some z ∧
        z.fills = t.fills.filter (· != n) ∧ z.oc = (fillG n t).oc ∧ z.frame = (fillG n t).frame ∧
        (∀ j, j ≠ k → look j u.threads = look j s.threads) ∧ u.mem = s.mem ∧ u.wgs = s.wgs := by
  have hu := (fillFrames_traffic (k := k) t [n / 32] (s.modThread k (fillG n))).trans (accountFrames_traffic t _)
  obtain ⟨lines, wrote, hz⟩ := hu.own (fillG n t) (by simp [ht])
  exact ⟨_, _, exec_operandCacheFill ht hn hr hf, hz, fillG_fills n t, rfl, rfl,
    fun j hj => (hu.others j hj).trans (by simp [hj]), by simp, hu.wgs⟩

/-! ### Claims and regroup boundaries -/

theorem claimRelease_performs {s : State} {o : MemOp} (ho : findOp s o.id = some o) (hc : o.stage = .claimed)
    (hf : claimFree s o = true) (hp : padFull s o.fn o.wg o.addr = false) :
    exec (.claimRelease o.id) s = .next (modOp o.id
      (fun p => { p with stage := .performed, value := (performPad o s).2 }) (performPad o s).1) := by
  simp only [exec, execClaimRelease, ho, hc, hf, hp, decide_true, Bool.not_false, Bool.and_self, if_true]

theorem regroupBoundary_regroups {s : State} {core fn : Nat} (hr : runningOn s core = some fn)
    (hm : (s.ctx fn).pcycle % 4 = 0) (ha : (s.core core).regroupAt ≠ some (s.ctx fn).pcycle) :
    exec (.regroupBoundary core) s = .next (s.modCore core (regrouped s core (s.ctx fn).pcycle)) := by
  simp [exec, execRegroupBoundary, hr, hm, ha]

/-! ### Traps of a bundle of one thread -/

section
variable {s : State} {k : Nat} {t : Thread}

/-- The trap of a bundle of one thread. -/
theorem trapAll_single (hi : s.issue = [k]) (ht : look k s.threads = some t) (q : TrapReq) :
    trapAll q s = trapped k t q s := by
  simp [trapAll, trapped, hi, ht, wgsOf_single ht, wgsCounted_single ht, ordOf_single ht, issuePc_of_single hi ht]

/-- The trap of an encoding reports the following instruction and stands at its own (R51). -/
theorem trapEncoding_single (hi : s.issue = [k]) (ht : look k s.threads = some t) (len : Nat) (q : TrapReq) :
    trapEncoding len q s = trapped k t q (s.modThread k (reportNext len)) := by
  rw [trapEncoding, hi]
  exact trapAll_single (s := s.modThread k (reportNext len)) (t := reportNext len t) hi (by simp [ht]) q

theorem exec_fetchFault_recoverable (hi : s.issue = [k]) (ht : look k s.threads = some t) (first kind : Nat) :
    exec (.fetchFault first true kind) s
      = .next (settle [k] [] [] [] 0 0 (parkThread k t.fn (kind / 2 ^ 52) (kind % 2 ^ 52) first 3 s)) := by
  simp only [exec, execFetchFault, if_true, hi, List.foldl_cons, List.foldl_nil, ht]
end

/-- Settles O35, a lemma for each step. -/
theorem coreSteps : Obligations.CoreSteps :=
  ⟨fun _ => ⟨fun _ => claimRelease_performs, fun _ _ _ => operandCacheFill_fills,
    fun _ _ hr hm ha => ⟨regroupBoundary_regroups hr hm ha, rfl⟩⟩,
   fun _ _ _ word first kind hi ht => ⟨congrArg Host.Outcome.next (trapEncoding_single hi ht (wordLength word) _),
    congrArg Host.Outcome.next (trapAll_single hi ht _), exec_fetchFault_recoverable hi ht first kind⟩⟩

end Sys2Proof.Machine
end

section
/-! SUPPORT. Fetching: where a word comes from, and what a turn of the agenda runs (R24 to R29, R143, R145). -/

namespace Sys2Proof.Machine

/-! ### Bytes of a line -/

theorem memRead_drop (m : List Host.Cell) (a i n : Nat) : (memRead m a (i + n)).drop i = memRead m (a + i) n := by
  induction i generalizing a with
  | zero => simp
  | succ i ih =>
    have h := ih (a + 1)
    rw [Nat.add_right_comm, memRead, List.drop_succ_cons, h]
    congr 1
    omega

theorem memRead_take (m : List Host.Cell) (a n i : Nat) : (memRead m a (n + i)).take n = memRead m a n := by
  induction n generalizing a with
  | zero => rfl
  | succ n ih => rw [Nat.add_right_comm, memRead, List.take_succ_cons, ih]; rfl

/-- Bytes within a range that is read are those of memory at their address. -/
theorem bytesAt_memRead (m : List Host.Cell) (a : Nat) {i n len : Nat} (h : i + n ≤ len) :
    bytesAt i n (memRead m a len) = memRead m (a + i) n := by
  obtain ⟨j, rfl⟩ := Nat.exists_eq_add_of_le h
  rw [bytesAt, Nat.add_assoc, memRead_drop, List.take_append_of_le_length (by simp), memRead_take]

/-- An aligned word of the line of an address. -/
theorem bytesAt_homeLine (s : State) {pa : Nat} (h : pa % 8 = 0) :
    bytesAt (pa % 128) 8 (homeLine s (lineOf pa)) = memRead s.mem pa 8 := by
  rw [homeLine, bytesAt_memRead _ _ (by omega), lineOf, Nat.mul_comm, Nat.div_add_mod]

/-! ### A translation leaves the instruction caches -/

theorem walkSlices_cores (fn va : Nat) (s : State) : (walkSlices fn va s).cores = s.cores := by
  unfold walkSlices readTables
  refine foldl_same (fun s x => ?_) _ _
  rfl

theorem sectXlat_cores (fn core va : Nat) (s : State) : (sectXlat fn core va s).2.cores = s.cores := by
  unfold sectXlat
  split
  · rfl
  · split <;> exact walkSlices_cores ..

@[simp] theorem tlbTake_icache (fn core va : Nat) (s : State) :
    ((tlbTake fn core va s).core core).icache = (s.core core).icache := by
  have hc : (sectXlat fn core va s).2.core core = s.core core := by rw [State.core, sectXlat_cores, State.core]
  unfold tlbTake
  split
  · rfl
  · split <;> rename_i h <;> rw [h] at hc
    · rw [← hc]
    · rw [modCore_read, if_pos rfl, ← hc]

/-! ### Fetching one word -/

section
variable {s : State} {core fn pc pa cid k : Nat} {held : List CodeWord} {w : CodeWord} {l : CodeLine}

theorem takeWord_held (hp : peek s fn core .exec pc = .ok pa cid) (hw : heldWord fn pc held = some w) :
    takeWord core fn held pc s = (.inr w, s) := by
  simp only [takeWord, hp, hw]

theorem takeWord_unheld (hw : heldWord fn pc held = none) : takeWord core fn held pc s = fetchWord core fn pc s := by
  rw [takeWord, hw]
  cases peek s fn core .exec pc <;> rfl

/-- A word of a line that the instruction cache holds. -/
theorem fetchWord_cached (hp : peek s fn core .exec pc = .ok pa cid)
    (hl : codeFind fn (lineOf pc) (s.core core).icache = some l) :
    (fetchWord core fn pc s).1 = .inr ⟨fn, pc, BitVec.ofNat 64 (valAt (pc % 128) 8 l.bytes), l.filling⟩ := by
  simp only [fetchWord, hp, tlbTake_icache, hl]

/-- A word of a line that the instruction cache does not hold is memory's. -/
theorem fetchWord_memory (hp : peek s fn core .exec pc = .ok pa cid)
    (hl : codeFind fn (lineOf pc) (s.core core).icache = none) (ha : pa % 8 = 0) (hpc : pa % 128 = pc % 128) :
    ∃ n, (fetchWord core fn pc s).1 = .inr ⟨fn, pc, BitVec.ofNat 64 (ofBytes (memRead s.mem pa 8)), n⟩ := by
  have hb := bytesAt_homeLine (tlbTake fn core pc s) ha
  rw [tlbTake_mem, hpc] at hb
  exact ⟨_, by simp only [fetchWord, hp, tlbTake_icache, hl, valAt, hb]; rfl⟩

/-! ### Fetching an instruction of one word -/

theorem takeInstr_single (hw : (takeWord core fn held pc s).1 = .inr w) (h8 : wordLength w.word = 8) :
    (takeInstr core fn held pc s).1 = .inr [w] := by
  obtain ⟨u, hu⟩ : ∃ u, takeWord core fn held pc s = (.inr w, u) := ⟨_, Prod.ext hw rfl⟩
  simp only [takeInstr, hu, h8, Nat.div_self (show 0 < 8 by decide), takeWords]

/-- One word mixes no two fillings of a line (R28). -/
theorem pathHeld_single {stream : Bool} (hw : (takeWord (coreOf k) fn (pathWords s k stream) pc s).1 = .inr w)
    (h8 : wordLength w.word = 8) : pathHeld s k fn stream pc = pathWords s k stream := by
  simp [pathHeld, takeInstr_single hw h8, mixed]

theorem fetchInstr_words (k fn pc : Nat) (s : State) :
    (fetchInstr k fn pc s).1 = bareWords (pathInstr k fn (onStream s k pc) pc s).1 := by
  unfold fetchInstr
  dsimp only
  split <;> rename_i h <;> rw [h]

theorem fetchInstr_single (hw : (takeWord (coreOf k) fn (pathWords s k (onStream s k pc)) pc s).1 = .inr w)
    (h8 : wordLength w.word = 8) : instrOf (fetchInstr k fn pc s).1 = decode w.word 0 0 := by
  rw [fetchInstr_words, pathInstr, pathHeld_single hw h8, takeInstr_single hw h8]
  rfl
end

/-! ### The turns of a step -/

theorem step_event {s : State} {i : Instr} (ha : s.agenda = .event i :: s.agenda.tail) :
    step s = afterStep (exec i { s with agenda := s.agenda.tail, issue := [] }) := by
  unfold step move nextTurn
  rw [ha]
  rfl

theorem step_issue {s : State} {core slot : Nat} {rest : List Turn} {c : Candidate} {k : Nat} {ks : List Nat}
    {t : Thread} (ha : s.agenda = .issue core slot :: rest)
    (htrap : trapDue { s with agenda := rest } core slot = none)
    (hbest : best (candidates { s with agenda := rest } core slot) = some c) (hhere : c.here = k :: ks)
    (ht : look k s.threads = some t) (hcode : codeForeign { s with agenda := rest } k t.fn t.pc.toNat = none) :
    let r := fetchInstr k t.fn t.pc.toNat { s with agenda := rest }
    let o := fetchOthers t.fn t.pc.toNat r.1 ks r.2
    step s = exec (instrOf r.1) { o.2 with issue := k :: o.1 } := by
  simp only [step, move, nextTurn, ha, runTurn, issueNext, htrap, hbest, hhere, List.headD_cons, ht, hcode, fetchBundle]

/-- Settles O55: a word comes from the fetch path, the instruction cache or memory, and an instruction of one word is what
it decodes to. -/
theorem stepRunsTheInstruction : Obligations.StepRunsTheInstruction := by
  refine ⟨?_, ?_, fun s i => step_event⟩
  · intro s core slot rest c k ks t ha s0 htrap hbest hhere ht hcode
    refine ⟨step_issue ha htrap hbest hhere ht hcode, fun l hl => ?_⟩
    rw [fetchInstr_words, hl]
    rfl
  · intro s k fn pc pa cid core hp hpc hpa
    refine ⟨fun w hw h8 => ?_, fun hw => ⟨?_, ?_⟩⟩
    · exact fetchInstr_single (by rw [takeWord_held hp hw]) h8
    · intro hl w h8
      obtain ⟨n, hn⟩ := fetchWord_memory hp hl (by omega) hpa
      exact fetchInstr_single (w := ⟨fn, pc, w, n⟩) (by rw [takeWord_unheld hw, hn]) h8
    · intro l hl w h8
      exact fetchInstr_single (w := ⟨fn, pc, w, l.filling⟩) (by rw [takeWord_unheld hw, fetchWord_cached hp hl]) h8

end Sys2Proof.Machine
end

section
/-! SUPPORT. The bits of a word and its fields: each reads back from the other (R31, R44). -/

namespace Sys2Proof

/-- A single bit is a field of width 1. -/
theorem ofBool_getLsbD_eq_extractLsb' {n : Nat} (w : BitVec n) (i : Nat) :
    BitVec.ofBool (w.getLsbD i) = w.extractLsb' i 1 := by
  ext j hj
  obtain rfl : j = 0 := by omega
  simp

/-! ### A half of a pair word -/

/-- The fields of a half stand next to each other and fill it. -/
theorem halfBits_halfOf (h : BitVec 31) : halfBits (halfOf h) = h := by
  simp (disch := decide) only [halfBits, halfOf, ofBool_getLsbD_eq_extractLsb',
    BitVec.extractLsb'_append_extractLsb'_eq_extractLsb']
  exact BitVec.extractLsb'_eq_self

theorem halfOf_halfBits (h : Half) : halfOf (halfBits h) = h := by
  simp (disch := decide) only [halfBits, halfOf, BitVec.extractLsb'_append_eq_of_le,
    BitVec.extractLsb'_append_eq_of_add_le, BitVec.getLsbD_append, Nat.reduceSub, Nat.reduceLT, if_true, if_false,
    BitVec.extractLsb'_eq_self, BitVec.getLsbD_ofBool]
  simp

/-! ### The first word of a full instruction -/

/-- The fields of a word stand next to each other and fill it. -/
theorem wordOf_fieldsOf {w : DWord} {opc : Nat} (h : w.extractLsb' 52 10 = BitVec.ofNat 10 opc) (e1 e2 : DWord) :
    wordOf opc (fieldsOf w e1 e2) = w := by
  simp (disch := decide) only [wordOf, fieldsOf, ← h, ofBool_getLsbD_eq_extractLsb',
    BitVec.extractLsb'_append_extractLsb'_eq_extractLsb']
  exact BitVec.extractLsb'_eq_self

theorem form_wordOf (opc : Nat) (f : Fields) : (wordOf opc f).extractLsb' 62 2 = f.form := by
  simp (disch := decide) only [wordOf, BitVec.extractLsb'_append_eq_of_le, Nat.reduceSub, BitVec.extractLsb'_eq_self]

theorem opcode_wordOf (opc : Nat) (f : Fields) : (wordOf opc f).extractLsb' 52 10 = BitVec.ofNat 10 opc := by
  simp (disch := decide) only [wordOf, BitVec.extractLsb'_append_eq_of_le, BitVec.extractLsb'_append_eq_of_add_le,
    Nat.reduceSub, BitVec.extractLsb'_eq_self]

/-- Fields whose unused extension words are 0 read back from their words. -/
theorem fieldsOf_wordOf (opc : Nat) {f : Fields} (h1 : formExt f.form = 0 → f.ext1 = 0)
    (h2 : formExt f.form ≠ 2 → f.ext2 = 0) : fieldsOf (wordOf opc f) f.ext1 f.ext2 = f := by
  have hext1 : (if formExt f.form = 0 then 0 else f.ext1) = f.ext1 := ite_eq_right_iff.mpr fun h => (h1 h).symm
  have hext2 : (if formExt f.form = 2 then f.ext2 else 0) = f.ext2 := ite_eq_left_iff.mpr fun h => (h2 h).symm
  simp only [fieldsOf, form_wordOf, hext1, hext2]
  simp (disch := decide) only [wordOf, BitVec.extractLsb'_append_eq_of_le, BitVec.extractLsb'_append_eq_of_add_le,
    BitVec.getLsbD_append, Nat.reduceSub, Nat.reduceLT, if_true, if_false, BitVec.extractLsb'_eq_self,
    BitVec.getLsbD_ofBool]
  simp

/-! ### The words of an instruction -/

/-- A form announces no extension word, one or two (R29). -/
theorem formExt_cases (form : BitVec 2) : formExt form = 0 ∨ formExt form = 1 ∨ formExt form = 2 := by
  unfold formExt
  split
  · simp
  · split <;> simp

/-- The decoder on the words of a full instruction is `decode`: an extension word that is not there is 0. -/
theorem decodeWords_wordsOf (opc : Nat) {f : Fields} (h1 : formExt f.form = 0 → f.ext1 = 0)
    (h2 : formExt f.form ≠ 2 → f.ext2 = 0) :
    decodeWords (wordsOf opc f) = some (decode (wordOf opc f) f.ext1 f.ext2) := by
  rcases formExt_cases f.form with h | h | h
  · simp [wordsOf, decodeWords, h, h1 h, h2 (by omega)]
  · simp [wordsOf, decodeWords, h, h2 (by omega)]
  · simp [wordsOf, decodeWords, h]

/-- The words of the fields of a word are that word and the extension words that its form announces (R29). -/
theorem wordsOf_fieldsOf {w : DWord} {opc : Nat} (h : w.extractLsb' 52 10 = BitVec.ofNat 10 opc) (e1 e2 : DWord) :
    wordsOf opc (fieldsOf w e1 e2) = [w, e1, e2].take (wordLength w / 8) := by
  rw [wordsOf, wordOf_fieldsOf h]
  rcases formExt_cases (w.extractLsb' 62 2) with hn | hn | hn <;> simp [fieldsOf, wordLength, hn]

end Sys2Proof
end

section
/-! SUPPORT. The opcode map and the opcodes that the encoder gives are one table, and the decoder by the cases of a first
word (R48). -/

namespace Sys2Proof

/-! ### The opcode map -/

/-- The instruction that the decoder makes of a row's: of a FENCE, the one that its scope field gives (R234). -/
def splitFence : Instr → Instr
  | .fence f => if f.mod.extractLsb' 9 2 = 0#2 then .fenceCode f else .fence f
  | i => i

theorem mem_of_opRow {opc most : Nat} {make : Fields → Instr} :
    ∀ {l : List OpRow}, opRow opc l = some (most, make) → (opc, most, make) ∈ l
  | (k, e, c) :: t, h => by
    unfold opRow at h
    split at h
    next hk => cases h; simp [hk]
    next => exact List.mem_cons_of_mem _ (mem_of_opRow h)

/-- Every row makes an instruction that has the row's opcode. -/
theorem code_of_mem_opcodes (f : Fields) : ∀ r ∈ opcodes, (r.2.2 f).code = some (r.1, f) := by
  simp only [opcodes, opcodes0, opcodes1, opcodes2, opcodes3, opcodes4, opcodes5, opcodes6, List.forall_mem_append]
  and_intros <;> exact List.map_inj_left.mp rfl

variable {opc most : Nat} {make : Fields → Instr} {i : Instr} {f : Fields} {w : DWord}

theorem code_of_opRow (h : opRow opc opcodes = some (most, make)) (f : Fields) : (make f).code = some (opc, f) :=
  code_of_mem_opcodes f _ (mem_of_opRow h)

theorem opcode_lt_of_opRow (h : opRow opc opcodes = some (most, make)) : opc < 2 ^ 10 :=
  (by decide +kernel : ∀ r ∈ opcodes, r.1 < 2 ^ 10) _ (mem_of_opRow h)

/-- FENCE and FENCE.code share a row, and it makes FENCE. -/
theorem ne_fenceCode_of_opRow (h : opRow opc opcodes = some (most, make)) (f g : Fields) : make f ≠ .fenceCode g := by
  intro hm
  have hc := code_of_opRow h f
  rw [hm] at hc
  cases hc
  cases h
  cases hm

/-- An instruction with an opcode is the one that the opcode's row makes. -/
theorem opRow_of_code (h : i.code = some (opc, f)) (hf : fenceOk i f = true) :
    ∃ most make, opRow opc opcodes = some (most, make) ∧ splitFence (make f) = i := by
  cases i <;> cases h
  case fence => exact ⟨0, .fence, rfl, if_neg (by simpa [fenceOk] using hf)⟩
  case fenceCode => exact ⟨0, .fence, rfl, if_pos (by simpa [fenceOk] using hf)⟩
  all_goals exact ⟨_, _, rfl, rfl⟩

theorem code_splitFence (i : Instr) : (splitFence i).code = i.code := by
  cases i
  case fence f => simp only [splitFence]; split <;> rfl
  all_goals rfl

theorem fenceOk_splitFence (hc : i.code = some (opc, f)) (hi : i ≠ .fenceCode f) : fenceOk (splitFence i) f = true := by
  cases i
  case fence => cases hc; simp only [splitFence]; split <;> simpa [fenceOk]
  case fenceCode => cases hc; exact absurd rfl hi
  all_goals rfl

/-! ### The decoder on a first word -/

theorem decode_pairWord (h : w.extractLsb' 62 2 = 0b01#2) (e1 e2 : DWord) :
    decode w e1 e2 = .pairWord (halfOf (w.extractLsb' 31 31)) (halfOf (w.extractLsb' 0 31)) := if_pos h

theorem decode_of_opRow (h : w.extractLsb' 62 2 ≠ 0b01#2)
    (hr : opRow (w.extractLsb' 52 10).toNat opcodes = some (most, make)) (hm : formExt (w.extractLsb' 62 2) ≤ most)
    (e1 e2 : DWord) : decode w e1 e2 = splitFence (make (fieldsOf w e1 e2)) := by
  have hn : ¬ most < formExt (fieldsOf w e1 e2).form := Nat.not_lt.mpr hm
  simp only [decode, if_neg h, hr, if_neg hn]
  rfl

/-- A first word is no instruction where it is no pair word and its opcode has no row with its form (R48). -/
theorem isIllegal_iff : isIllegal w = true ↔ w.extractLsb' 62 2 ≠ 0b01#2 ∧ ∀ most make,
    opRow (w.extractLsb' 52 10).toNat opcodes = some (most, make) → most < formExt (w.extractLsb' 62 2) := by
  rw [isIllegal, Bool.and_eq_true, bne_iff_ne]
  cases opRow (w.extractLsb' 52 10).toNat opcodes with
  | none => simp
  | some r => obtain ⟨most, make⟩ := r; simp

theorem decode_of_isIllegal (h : isIllegal w = true) (e1 e2 : DWord) : decode w e1 e2 = .illegalInstruction w := by
  obtain ⟨hform, hrow⟩ := isIllegal_iff.mp h
  simp only [decode, if_neg hform]
  split
  · rfl
  next most make hr => exact if_pos (hrow most make hr)

/-- A first word is a pair word, no instruction, or one of an opcode that has its form. -/
theorem word_cases (w : DWord) : w.extractLsb' 62 2 = 0b01#2 ∨ isIllegal w = true ∨
    (w.extractLsb' 62 2 ≠ 0b01#2 ∧ ∃ most make, opRow (w.extractLsb' 52 10).toNat opcodes = some (most, make) ∧
      formExt (w.extractLsb' 62 2) ≤ most) := by
  rw [isIllegal_iff]
  by_cases hform : w.extractLsb' 62 2 = 0b01#2
  · exact .inl hform
  · by_cases hrow : ∃ most make, opRow (w.extractLsb' 52 10).toNat opcodes = some (most, make) ∧
      formExt (w.extractLsb' 62 2) ≤ most
    · exact .inr (.inr ⟨hform, hrow⟩)
    · exact .inr (.inl ⟨hform, fun most make hr => Nat.lt_of_not_le fun hm => hrow ⟨most, make, hr, hm⟩⟩)

end Sys2Proof
end

section
/-! SUPPORT. Decoding and encoding agree (R29 to R31, R44, R48). -/

namespace Sys2Proof

variable {opc : Nat} {i : Instr} {f : Fields} {w : DWord}

/-! ### What the encoder and well-formedness say of an instruction with an opcode -/

theorem encode_of_code (h : i.code = some (opc, f)) : encode i = wordsOf opc f := by
  unfold encode
  split
  · cases h
  · cases h
  · simp only [h]

theorem wellFormed_of_code (h : i.code = some (opc, f)) : i.wellFormed = (formOk opc f && fenceOk i f) := by
  unfold Instr.wellFormed
  split
  · cases h
  · cases h
  · simp only [h]

/-- Without an opcode only a pair word and a word that is no instruction have words. -/
theorem pairWord_or_illegal_of_encode (h : i.code = none) (he : encode i ≠ []) :
    (∃ a b, i = .pairWord a b) ∨ ∃ w, i = .illegalInstruction w := by
  unfold encode at he
  split at he
  next a b => exact .inl ⟨a, b, rfl⟩
  next w => exact .inr ⟨w, rfl⟩
  next => simp [h] at he

/-- Fields are in order for an opcode where the opcode has their form, which is not that of a pair word, and the extension
words that the form does not have are 0 (R29, R48). -/
theorem formOk_iff : formOk opc f = true ↔ f.form ≠ 0b01#2 ∧ (formExt f.form = 0 → f.ext1 = 0) ∧
    (formExt f.form ≠ 2 → f.ext2 = 0) ∧
    ∃ most make, opRow opc opcodes = some (most, make) ∧ formExt f.form ≤ most := by
  cases hr : opRow opc opcodes with
  | none => simp [formOk, hr]
  | some r => obtain ⟨most, make⟩ := r; simp [formOk, hr, or_iff_not_imp_left, and_assoc]

/-! ### From an instruction to its words and back -/

theorem decode_wordOf (hc : i.code = some (opc, f)) (hform : formOk opc f = true) (hf : fenceOk i f = true) :
    decode (wordOf opc f) f.ext1 f.ext2 = i := by
  obtain ⟨h01, h1, h2, most, make, hr, hm⟩ := formOk_iff.mp hform
  obtain ⟨_, _, hr', hi⟩ := opRow_of_code hc hf
  obtain ⟨rfl, rfl⟩ : _ = most ∧ _ = make := by simpa [hr'] using hr
  have hopc : ((wordOf opc f).extractLsb' 52 10).toNat = opc := by
    rw [opcode_wordOf, BitVec.toNat_ofNat, Nat.mod_eq_of_lt (opcode_lt_of_opRow hr)]
  rw [decode_of_opRow (by rwa [form_wordOf]) (by rwa [hopc]) (by rwa [form_wordOf]), fieldsOf_wordOf opc h1 h2, hi]

theorem decode_encode_pairWord (a b : Half) : decodeWords (encode (.pairWord a b)) = some (.pairWord a b) := by
  have hform : (0b01#2 ++ halfBits a ++ halfBits b : BitVec 64).extractLsb' 62 2 = 0b01#2 := by
    simp (disch := decide) only [BitVec.extractLsb'_append_eq_of_le, Nat.reduceSub, BitVec.extractLsb'_eq_self]
  have ha : (0b01#2 ++ halfBits a ++ halfBits b : BitVec 64).extractLsb' 31 31 = halfBits a := by
    simp (disch := decide) only [BitVec.extractLsb'_append_eq_of_le, BitVec.extractLsb'_append_eq_of_add_le,
      Nat.reduceSub, BitVec.extractLsb'_eq_self]
  have hb : (0b01#2 ++ halfBits a ++ halfBits b : BitVec 64).extractLsb' 0 31 = halfBits b :=
    BitVec.extractLsb'_append_eq_right
  simp only [encode, decodeWords, decode_pairWord hform, ha, hb, halfOf_halfBits]

theorem decode_encode (hw : i.wellFormed = true) (he : encode i ≠ []) : decodeWords (encode i) = some i := by
  cases hc : i.code with
  | some p =>
    obtain ⟨opc, f⟩ := p
    rw [wellFormed_of_code hc, Bool.and_eq_true] at hw
    obtain ⟨hform, hf⟩ := hw
    obtain ⟨-, h1, h2, -⟩ := formOk_iff.mp hform
    rw [encode_of_code hc, decodeWords_wordsOf opc h1 h2, decode_wordOf hc hform hf]
  | none =>
    obtain ⟨a, b, rfl⟩ | ⟨w, rfl⟩ := pairWord_or_illegal_of_encode hc he
    · exact decode_encode_pairWord a b
    · exact congrArg some (decode_of_isIllegal hw 0 0)

/-! ### From words to an instruction and back -/

theorem encode_pairWord_halfOf (h : w.extractLsb' 62 2 = 0b01#2) :
    encode (.pairWord (halfOf (w.extractLsb' 31 31)) (halfOf (w.extractLsb' 0 31))) = [w] := by
  simp (disch := decide) only [encode, halfBits_halfOf, ← h, BitVec.extractLsb'_append_extractLsb'_eq_extractLsb']
  exact congrArg (fun v => [v]) BitVec.extractLsb'_eq_self

theorem code_decode_of_opRow {most : Nat} {make : Fields → Instr} (h : w.extractLsb' 62 2 ≠ 0b01#2)
    (hr : opRow (w.extractLsb' 52 10).toNat opcodes = some (most, make)) (hm : formExt (w.extractLsb' 62 2) ≤ most)
    (e1 e2 : DWord) : (decode w e1 e2).code = some ((w.extractLsb' 52 10).toNat, fieldsOf w e1 e2) := by
  rw [decode_of_opRow h hr hm]
  exact (code_splitFence _).trans (code_of_opRow hr _)

theorem wellFormed_decode (w e1 e2 : DWord) : (decode w e1 e2).wellFormed = true := by
  obtain h | h | ⟨h, most, make, hr, hm⟩ := word_cases w
  · rw [decode_pairWord h]; rfl
  · rw [decode_of_isIllegal h]; exact h
  · have hform : formOk (w.extractLsb' 52 10).toNat (fieldsOf w e1 e2) = true :=
      formOk_iff.mpr ⟨h, fun h0 => if_pos h0, fun h2 => if_neg h2, most, make, hr, hm⟩
    rw [wellFormed_of_code (code_decode_of_opRow h hr hm e1 e2), hform, decode_of_opRow h hr hm,
      fenceOk_splitFence (code_of_opRow hr _) (ne_fenceCode_of_opRow hr _ _)]
    rfl

theorem encode_decode (w e1 e2 : DWord) : encode (decode w e1 e2) =
    (if decode w e1 e2 = .illegalInstruction w then [w] else [w, e1, e2].take (wordLength w / 8)) := by
  obtain h | h | ⟨h, most, make, hr, hm⟩ := word_cases w
  · rw [decode_pairWord h, encode_pairWord_halfOf h, if_neg (by simp)]
    simp [wordLength, formExt, h]
  · rw [decode_of_isIllegal h, if_pos rfl]; rfl
  · have hc := code_decode_of_opRow h hr hm e1 e2
    have hne : decode w e1 e2 ≠ .illegalInstruction w := fun hi => by rw [hi] at hc; cases hc
    rw [if_neg hne, encode_of_code hc, wordsOf_fieldsOf (by rw [BitVec.ofNat_toNat, BitVec.setWidth_eq])]

/-- Settles O57: both round trips, by whether the instruction has an opcode and by the cases of the first word. -/
theorem decodeEncode : Obligations.DecodeEncode :=
  ⟨fun _ hw he => decode_encode hw he, fun w e1 e2 => ⟨wellFormed_decode w e1 e2, encode_decode w e1 e2⟩⟩

/-- Settles O56, by running the decoder on each word. -/
theorem decodedWords : Obligations.DecodedWords := ⟨rfl, rfl, rfl, rfl, rfl, rfl⟩

end Sys2Proof
end

section
/-! SUPPORT. Branches: what a target comes to, and the link (R43, R114, R115). -/

namespace Sys2Proof.Machine

variable {register : Bool} {a : Nat}

/-! ### Targets -/

theorem branchTo_beyond (h : 2 ^ 57 ≤ a) (s : State) :
    branchTo register a s = .trap (trapBefore cAccessViolation 2) := by
  simp only [branchTo, targetTrap, if_pos h]

theorem branchTo_misaligned (h : a < 2 ^ 57) (hr : register = true) (h8 : a % 8 ≠ 0) (s : State) :
    branchTo register a s = .trap (trapBefore cMisaligned) := by
  have hn : ¬ 2 ^ 57 ≤ a := Nat.not_le.mpr h
  have hc : (register && a % 8 != 0) = true := by simp [hr, h8]
  simp only [branchTo, targetTrap, if_neg hn, if_pos hc]

theorem branchTo_good (h : a < 2 ^ 57) (hr : register = false ∨ a % 8 = 0) (s : State) :
    branchTo register a s = .jump (BitVec.ofNat 64 a) s := by
  have hn : ¬ 2 ^ 57 ≤ a := Nat.not_le.mpr h
  have hc : ¬ (register && a % 8 != 0) = true := by
    rw [Bool.and_eq_true, bne_iff_ne]
    rintro ⟨h1, h8⟩
    exact hr.elim (fun h0 => Bool.false_ne_true (h0.symm.trans h1)) h8
  simp only [branchTo, targetTrap, if_neg hn, if_neg hc]

/-! ### An instruction that branches -/

/-- The body of a branch, which leaves the address after an instruction of `len` bytes in LNK if it is a call. -/
def branchOut (call register : Bool) (a k len : Nat) (s : State) : LaneOut :=
  if call then linked k len (branchTo register a s) else branchTo register a s

/-- An instruction whose body is a branch traps by its target, or goes there, with the link made if it is a call. -/
theorem Issue.Of.branch {x : Issue} {i : Instr} {G : Form} {bd : Body} {call : Bool} (h : x.Of i)
    (hi : programForm i = some G) (he : exec i x.s = answer G bd x.s)
    (hb : bd x.k x.t x.src x.s = branchOut call register a x.k G.len x.s) :
    (2 ^ 57 ≤ a → exec i x.s = .next (x.trap (trapBefore cAccessViolation 2) x.s)) ∧
    (a < 2 ^ 57 → register = true → a % 8 ≠ 0 → exec i x.s = .next (x.trap (trapBefore cMisaligned) x.s)) ∧
    (a < 2 ^ 57 → register = false ∨ a % 8 = 0 → exec i x.s = .next (x.jump (BitVec.ofNat 64 a)
      (if call then x.s.modThread x.k (fun t => { t with lnk := nextPc t x.F }) else x.s))) := by
  obtain rfl : x.F = G := Option.some.inj (h.1.symm.trans hi)
  refine ⟨fun hbig => h.trap hi he ?_, fun hlt hr h8 => h.trap hi he ?_, fun hlt hr => h.jump hi he ?_⟩
  · rw [hb, branchOut, branchTo_beyond hbig]
    cases call <;> rfl
  · rw [hb, branchOut, branchTo_misaligned hlt hr h8]
    cases call <;> rfl
  · rw [hb, branchOut, branchTo_good hlt hr]
    cases call <;> rfl

/-- Settles O7: each of the five is a branch to its target, with the link made by CALL and CALLX. -/
theorem branches : Obligations.Branches := by
  intro f x i a call reg hcase h
  obtain ⟨rfl, rfl, rfl, rfl⟩ | ⟨rfl, rfl, rfl, rfl⟩ | ⟨rfl, rfl, rfl, rfl⟩ | ⟨rfl, rfl, rfl, rfl⟩ |
    ⟨rfl, rfl, rfl, rfl⟩ := hcase
  all_goals exact h.branch rfl rfl rfl

end Sys2Proof.Machine
end

section
/-! SUPPORT. Pair words whose half opcodes are defined (R44 to R47). -/

namespace Sys2Proof.Machine

theorem programForm_pairWord {a b : Half} {ka kb : HalfKind} (ha : halfKind a.hop = some ka)
    (hb : halfKind b.hop = some kb) : programForm (.pairWord a b) = some (pairForm a b ka kb) := by
  simp only [programForm, ha, hb]

theorem exec_pairWord {a b : Half} {ka kb : HalfKind} (ha : halfKind a.hop = some ka)
    (hb : halfKind b.hop = some kb) (s : State) :
    exec (.pairWord a b) s = answer (pairForm a b ka kb) (pairBody a b ka kb) s := by
  simp only [exec, execPairWord, ha, hb]

/-- Settles O14, by whether the exceptions of the two halves together trap. -/
theorem pairWords : Obligations.PairWords := by
  intro a b ka kb x ha hb h rm va vb vs e s
  have hi := programForm_pairWord ha hb
  have he := exec_pairWord ha hb x.s
  by_cases ht : trapsFp e x.t.fstat = true
  · rw [if_pos ht]
    exact h.after hi he (if_pos ht)
  · rw [if_neg ht]
    exact h.done hi he (if_neg ht)

end Sys2Proof.Machine
end

section
/-! SUPPORT. Integers and their types: what a number read or placed as a type is congruent to, and the range it lies in
(R65 to R67). -/

namespace Sys2Proof.Machine

/-! ### The type codes (R39, R65) -/

theorem typeWidth_pos (c : Nat) : 0 < typeWidth c := by
  unfold typeWidth; split <;> simp

/-- The range of a width is two half ranges. -/
theorem two_pow_typeWidth (c : Nat) : 2 ^ typeWidth c = 2 * 2 ^ (typeWidth c - 1) := by
  rw [← Nat.pow_succ', Nat.succ_eq_add_one, Nat.sub_add_cancel (typeWidth_pos c)]

/-- A type has 2 to its width values. -/
theorem maxInt_sub_minInt (c : Nat) : maxInt c - minInt c = (2 ^ typeWidth c : Nat) - 1 := by
  have hw := two_pow_typeWidth c
  unfold maxInt minInt
  split <;> omega

theorem minInt_le_maxInt (c : Nat) : minInt c ≤ maxInt c := by
  have hr := maxInt_sub_minInt c
  have := Nat.two_pow_pos (typeWidth c)
  omega

/-! ### Congruence modulo the width -/

theorem wrapNat_modEq (w : Nat) (v : Int) : wrapNat w v ≡ v [ZMOD (2 ^ w : Nat)] := by
  have hpos : ((2 ^ w : Nat) : Int) ≠ 0 := by exact_mod_cast (Nat.two_pow_pos w).ne'
  rw [wrapNat, Int.toNat_of_nonneg (Int.emod_nonneg v hpos)]
  exact Int.mod_modEq ..

theorem mod_two_pow_modEq (w v : Nat) : (v % 2 ^ w : Nat) ≡ v [ZMOD (2 ^ w : Nat)] := by
  rw [Int.natCast_mod]
  exact Int.mod_modEq ..

theorem sextInt_modEq (w v : Nat) : sextInt w v ≡ v [ZMOD (2 ^ w : Nat)] := by
  unfold sextInt
  dsimp only
  split
  · exact mod_two_pow_modEq w v
  · exact Int.sub_modulus_modEq_iff.mpr (mod_two_pow_modEq w v)

/-- A number read as a type is congruent to it. -/
theorem readInt_modEq (c v : Nat) : readInt c v ≡ v [ZMOD (2 ^ typeWidth c : Nat)] := by
  unfold readInt
  split
  · exact sextInt_modEq ..
  · exact mod_two_pow_modEq ..

/-- What a register holds of a result is congruent to it, however it is filled (R66). -/
theorem placeInt_modEq (c v : Nat) : placeInt c v ≡ v [ZMOD (2 ^ typeWidth c : Nat)] := by
  unfold placeInt
  dsimp only
  split
  · exact mod_two_pow_modEq ..
  · rename_i h32
    have hdvd : ((2 ^ typeWidth c : Nat) : Int) ∣ (2 ^ 32 : Nat) :=
      Int.natCast_dvd_natCast.mpr (Nat.pow_dvd_pow 2 (Nat.le_of_not_le h32))
    split
    · exact ((wrapNat_modEq 32 _).of_dvd hdvd).trans (sextInt_modEq ..)
    · exact mod_two_pow_modEq ..

/-- A result in its register is congruent to the exact result, clamped or not. -/
theorem intResult_modEq (c : Nat) (sat : Bool) (v : Int) :
    intResult c sat v ≡ (if sat then satInt c v else v) [ZMOD (2 ^ typeWidth c : Nat)] :=
  (placeInt_modEq ..).trans (wrapNat_modEq ..)

/-- And so is what it reads back as. -/
theorem readInt_intResult_modEq (c : Nat) (sat : Bool) (v : Int) :
    readInt c (intResult c sat v) ≡ (if sat then satInt c v else v) [ZMOD (2 ^ typeWidth c : Nat)] :=
  (readInt_modEq ..).trans (intResult_modEq ..)

/-! ### Ranges -/

theorem sextInt_range {w : Nat} (hw : 2 ^ w = 2 * 2 ^ (w - 1)) (v : Nat) :
    -(2 ^ (w - 1) : Nat) ≤ sextInt w v ∧ sextInt w v ≤ (2 ^ (w - 1) : Nat) - 1 := by
  have hlt : v % 2 ^ w < 2 ^ w := Nat.mod_lt _ (Nat.two_pow_pos w)
  unfold sextInt
  dsimp only
  split <;> omega

/-- A number read as a type is one of the type's values. -/
theorem readInt_range (c v : Nat) : minInt c ≤ readInt c v ∧ readInt c v ≤ maxInt c := by
  unfold readInt minInt maxInt
  split
  · exact sextInt_range (two_pow_typeWidth c) v
  · have hlt : v % 2 ^ typeWidth c < 2 ^ typeWidth c := Nat.mod_lt _ (Nat.two_pow_pos _)
    omega

theorem satInt_range (c : Nat) (v : Int) : minInt c ≤ satInt c v ∧ satInt c v ≤ maxInt c :=
  ⟨le_max_left .., max_le (minInt_le_maxInt c) (min_le_left ..)⟩

/-- Two values of a type that are congruent are equal. -/
theorem eq_of_range_of_modEq {c : Nat} {u v : Int} (hu : minInt c ≤ u ∧ u ≤ maxInt c) (hv : minInt c ≤ v ∧ v ≤ maxInt c)
    (h : u ≡ v [ZMOD (2 ^ typeWidth c : Nat)]) : u = v := by
  have hr := maxInt_sub_minInt c
  exact sub_eq_zero.mp (Int.eq_zero_of_abs_lt_dvd h.symm.dvd (abs_lt.mpr ⟨by omega, by omega⟩))

/-- A clamped result reads back as the clamped value. -/
theorem readInt_intResult_sat (c : Nat) (v : Int) : readInt c (intResult c true v) = satInt c v :=
  eq_of_range_of_modEq (readInt_range ..) (satInt_range ..) (readInt_intResult_modEq c true v)

/-! ### An instruction of integers -/

/-- An instruction whose sources are read as its type completes with the exact result, clamped or wrapped. -/
theorem Issue.Of.int {x : Issue} {i : Instr} {G : Form} {f : Fields} {op : List Int → Int} {v : Int} (h : x.Of i)
    (hi : programForm i = some G) (he : exec i x.s = answer G (intBody f op) x.s)
    (hv : op (x.src.map (readInt (mTYPE f))) = v) :
    exec i x.s = .next (x.done [intResult (mTYPE f) (mSAT f) v] x.s) :=
  h.done hi he (by rw [intBody, hv])

section
variable (c : Nat) (x : Issue)

@[simp] theorem fst1_readInt : fst1 (x.src.map (readInt c)) = readInt c x.a := nth_map_readInt c 0 _
@[simp] theorem snd1_readInt : snd1 (x.src.map (readInt c)) = readInt c x.b := nth_map_readInt c 1 _
@[simp] theorem trd1_readInt : trd1 (x.src.map (readInt c)) = readInt c x.c := nth_map_readInt c 2 _
end

/-- Settles O1: each instruction is one of `Issue.Of.int`, and a result reads back as the value of the range that is
congruent to it. -/
theorem integerArithmetic : Obligations.IntegerArithmetic := by
  refine ⟨fun f x => ⟨?iadd, ?isub, ?imul, ?imad, ?imin, ?imax, ?iabs, ?ineg, ?imulh, ?imadw⟩,
    fun c v _ => ⟨readInt_intResult_sat c v, (readInt_intResult_modEq c false v).symm.dvd, readInt_range ..⟩⟩
  case iadd | isub | imul | imad | imin | imax | ineg | imulh => exact fun h => h.int rfl rfl (by simp)
  case iabs =>
    refine fun h => h.int rfl rfl ?_
    rw [fst1_readInt]
    split
    · rename_i hneg; exact (abs_of_neg hneg).symm
    · rename_i hneg; exact (abs_of_nonneg (not_lt.mp hneg)).symm
  case imadw => exact fun h => h.done rfl rfl rfl

end Sys2Proof.Machine
end

section
/-! SUPPORT. Carry, borrow and division (R68, R96, R97). -/

namespace Sys2Proof.Machine

/-- A difference borrows where what is taken off is more (R96). -/
theorem sub_sub_neg_iff (a b p : Nat) : (a : Int) - b - p < 0 ↔ a < b + p := by omega

/-- The special cases of a division: a divisor of 0, and a signed quotient that overflows (R68). -/
theorem divSpecial_iff {c : Nat} {a b : Int} :
    divSpecial c a b = true ↔ b = 0 ∨ (signedTy c = true ∧ a = minInt c ∧ b = -1) := by
  simp [divSpecial, and_assoc]

theorem quotient_eq (c : Nat) (a b : Int) :
    quotient c a b = if b = 0 then (if signedTy c then -1 else maxInt c)
      else if signedTy c ∧ a = minInt c ∧ b = -1 then minInt c else a.tdiv b := by
  unfold quotient
  split
  · rfl
  · rename_i hb; simp only [divSpecial_iff, hb, false_or]

theorem remainder_eq (c : Nat) (a b : Int) :
    remainder c a b = if b = 0 then a else if signedTy c ∧ a = minInt c ∧ b = -1 then 0 else a.tmod b := by
  unfold remainder
  split
  · rfl
  · rename_i hb; simp only [divSpecial_iff, hb, false_or]

section
variable {x : Issue} {i : Instr} {G : Form} {f : Fields} {op : Nat → Int → Int → Int}

/-- A checked division traps before any effect in the special cases. -/
theorem Issue.Of.div_trap (h : x.Of i) (hi : programForm i = some G) (he : exec i x.s = answer G (divBody f op) x.s)
    (hc : mFZ f = true) (hs : divSpecial (mTYPE f) (readInt (mTYPE f) x.a) (readInt (mTYPE f) x.b) = true) :
    exec i x.s = .next (x.trap (trapBefore cDivCheck) x.s) :=
  h.trap hi he (by simp [divBody, hc, hs])

/-- Any other division completes with its result, wrapped. -/
theorem Issue.Of.div_done (h : x.Of i) (hi : programForm i = some G) (he : exec i x.s = answer G (divBody f op) x.s)
    (hs : ¬ (mFZ f = true ∧ divSpecial (mTYPE f) (readInt (mTYPE f) x.a) (readInt (mTYPE f) x.b) = true)) :
    exec i x.s = .next (x.done
      [intResult (mTYPE f) false (op (mTYPE f) (readInt (mTYPE f) x.a) (readInt (mTYPE f) x.b))] x.s) :=
  h.done hi he (if_neg (by simpa using hs))
end

/-- Settles O3: IADDC is its body as it stands, ISUBB's borrow is a negative difference, and a division goes by whether it is
checked and special. -/
theorem carryAndDivision : Obligations.CarryAndDivision := by
  refine ⟨fun f x => ⟨fun h => h.done rfl rfl rfl, fun h => h.done rfl rfl ?_⟩, fun f x => ?_⟩
  · simp only [Issue.nth_zero, Issue.nth_one, sub_sub_neg_iff, one]
  · dsimp only
    simp only [← divSpecial_iff, ← quotient_eq, ← remainder_eq]
    exact ⟨fun ⟨hc, hs⟩ => ⟨fun h => h.div_trap rfl rfl hc hs, fun h => h.div_trap rfl rfl hc hs⟩,
      fun hs => ⟨fun h => h.div_done rfl rfl hs, fun h => h.div_done rfl rfl hs⟩⟩

end Sys2Proof.Machine
end

section
/-! SUPPORT. Packed arithmetic, element by element (R66, R126). -/

namespace Sys2Proof.Machine

/-- The sources' upper elements. -/
@[simp] theorem nth_map_upper (n : Nat) (l : List Nat) :
    nth 0 n (l.map (fun v => v / 65536 % 65536)) = nth 0 n l / 65536 % 65536 :=
  nth_map (g := fun v => v / 65536 % 65536) (d := 0) rfl n l

/-- A packed instruction finishes with the results of both elements and the exceptions of either. -/
theorem Issue.Of.packed {x : Issue} {i : Instr} {G : Form} {f : Fields} {op : FpOp} {p q : Nat × Exc} (h : x.Of i)
    (hi : programForm i = some G) (he : exec i x.s = answer G (packedBody f op) x.s)
    (hp : op (fmtOf (mTYPE f)) (modeOf (mRND f) x.t.fstat) (mFZ f) (x.src.map (· % 65536)) = p)
    (hq : op (fmtOf (mTYPE f)) (modeOf (mRND f) x.t.fstat) (mFZ f) (x.src.map (fun v => v / 65536 % 65536)) = q) :
    exec i x.s = .next (x.fp (p.2.or q.2) [p.1 + 2 ^ 16 * q.1] x.s) :=
  h.fp hi he (by subst hp hq; rfl)

/-- Settles O12: each operation on the lower elements and on the upper ones. -/
theorem packedArithmetic : Obligations.PackedArithmetic := by
  refine fun f x => ⟨fun h => h.packed rfl rfl ?_ ?_, fun h => h.packed rfl rfl ?_ ?_, fun h => h.packed rfl rfl ?_ ?_⟩
  all_goals simp [opAdd, opMul, opFma]

end Sys2Proof.Machine
end

section
/-! SUPPORT. The thread whose instruction completes: its operand cache agrees with its frame up to the write, and the
register that it writes keeps its value after it (R13 to R17, R194). -/

namespace Sys2Proof.Machine

/-! ### Changes of a thread that keep its frame's size, and cache and frame in agreement -/

/-- A thread of a frame of `m` registers, with which its operand cache agrees. -/
structure Thread.FrameOf (t : Thread) (m : Nat) : Prop where
  ok : t.OcOk
  size : t.fsize = m

section
variable {t : Thread} {m : Nat}

theorem Thread.FrameOf.congr {u : Thread} (h : t.FrameOf m) (hoc : u.oc = t.oc) (hframe : u.frame = t.frame)
    (hsize : u.fsize = t.fsize) : u.FrameOf m where
  ok := ⟨by rw [hsize, hframe]; exact h.ok.sized, by rw [hoc, hframe]; exact h.ok.inFrame,
    by rw [hoc]; exact h.ok.single, by rw [hoc]; unfold frameAt; rw [hframe]; exact h.ok.clean⟩
  size := hsize.trans h.size

theorem ocPlace_fsize (named : List Nat) (e : OcEntry) (t : Thread) : (ocPlace named e t).fsize = t.fsize := by
  obtain h | ⟨-, h | ⟨v, -, h⟩ | h⟩ := ocPlace_cases named e t <;> rw [h]
  · exact writeBack_fsize ..
  · exact writeBack_fsize ..

theorem touchG_fsize (named : List Nat) (n : Nat) (t : Thread) : (touchG named n t).fsize = t.fsize := by
  unfold touchG
  split
  · rfl
  · split
    · rfl
    · split
      · rfl
      · exact ocPlace_fsize ..

/-- A source of the frame takes its place. -/
theorem Thread.FrameOf.touchG (h : t.FrameOf m) {n : Nat} (hn : n < m) (named : List Nat) :
    (touchG named n t).FrameOf m :=
  ⟨touchG_ocOk h.ok (hn.trans_le (h.size ▸ h.ok.sized)) named, (touchG_fsize ..).trans h.size⟩

theorem Thread.FrameOf.foldl (h : t.FrameOf m) {α : Type} {f : Thread → α → Thread} {l : List α}
    (hf : ∀ (u : Thread) (x : α), u.FrameOf m → x ∈ l → (f u x).FrameOf m) : (l.foldl f t).FrameOf m :=
  List.foldlRecOn l f h fun u hu x hx => hf u x hu hx

/-- Registers die. -/
theorem Thread.FrameOf.killG (h : t.FrameOf m) (l : List Nat) : (killG l t).FrameOf m :=
  h.foldl fun _ n hu _ => Thread.FrameOf.congr ⟨hu.ok.free n, hu.size⟩ rfl rfl rfl

theorem Thread.FrameOf.setPred (h : t.FrameOf m) (p : Nat) (b : Bool) : (setPred p b t).FrameOf m := by
  unfold Machine.setPred
  split
  · exact h
  · exact h.congr rfl rfl rfl

/-- A thread goes on after the instruction that it waits at. -/
theorem Thread.FrameOf.goOn (h : t.FrameOf m) (now : Nat) : (goOn now t).FrameOf m := by
  unfold Machine.goOn
  dsimp only
  split
  · exact h.congr rfl rfl rfl
  · refine Thread.FrameOf.congr (Thread.FrameOf.killG ?_ _) rfl rfl rfl
    exact h.congr rfl rfl rfl

/-- The sources of an instruction, which lie in the frame, take their places and die. -/
theorem Thread.FrameOf.consume (h : t.FrameOf m) {F : Form}
    (hr : ∀ r ∈ F.reads, regClass r.1 = .g → r.1.toNat + r.2 ≤ m) : (consume F t).FrameOf m := by
  refine (h.foldl fun u n hu hn => hu.touchG ?_ F.named).killG F.marks
  obtain ⟨r, hrg, hi⟩ := List.mem_flatMap.mp hn
  obtain ⟨hmem, hg⟩ := List.mem_filter.mp hrg
  obtain ⟨i, hlt, rfl⟩ := List.mem_map.mp hi
  have hsize := hr r hmem (by simpa using hg)
  have hi := List.mem_range.mp hlt
  omega
end

/-! ### The same for the state -/

/-- Thread `k` lives and is one of a frame of `m` registers, with which its operand cache agrees. -/
def State.FrameOf (s : State) (k m : Nat) : Prop := ∃ t, look k s.threads = some t ∧ t.FrameOf m

/-- A table whose values change by their keys. -/
theorem look_map {α : Type} {g : Nat × α → Nat × α} (hg : ∀ p, (g p).1 = p.1) (k : Nat) (l : Tbl α) :
    look k (l.map g) = (look k l).map (fun v => (g (k, v)).2) := by
  induction l with
  | nil => rfl
  | cons p l ih =>
    obtain ⟨j, v⟩ := p
    have hj : (g (j, v)).1 = j := hg _
    by_cases h : j = k
    · subst h; simp [look, hj]
    · simpa [look, hj, h] using ih

section
variable {s u : State} {k m : Nat}

theorem State.FrameOf.congr (h : s.FrameOf k m) (hu : u.threads = s.threads) : u.FrameOf k m := by
  rwa [State.FrameOf, hu]

theorem State.FrameOf.modThread (h : s.FrameOf k m) {f : Thread → Thread} (hf : ∀ t, t.FrameOf m → (f t).FrameOf m) :
    (s.modThread k f).FrameOf k m := by
  obtain ⟨t, ht, hm⟩ := h
  exact ⟨f t, by simp [ht], hf t hm⟩

theorem State.FrameOf.foldl (h : s.FrameOf k m) {α : Type} {f : State → α → State}
    (hf : ∀ v x, v.FrameOf k m → (f v x).FrameOf k m) (l : List α) : (l.foldl f s).FrameOf k m :=
  List.foldlRecOn l f h fun v hv x _ => hf v x hv

theorem State.FrameOf.map (h : s.FrameOf k m) {g : Nat × Thread → Nat × Thread} (hg : ∀ p, (g p).1 = p.1)
    (hf : ∀ p, p.2.FrameOf m → (g p).2.FrameOf m) : ({ s with threads := s.threads.map g } : State).FrameOf k m := by
  obtain ⟨t, ht, hm⟩ := h
  exact ⟨(g (k, t)).2, by simp [look_map hg, ht], hf (k, t) hm⟩

theorem State.FrameOf.traffic (h : s.FrameOf k m) (hu : FrameTraffic k s u) : u.FrameOf k m := by
  obtain ⟨t, ht, hm⟩ := h
  obtain ⟨lines, wrote, hz⟩ := hu.own t ht
  exact ⟨_, hz, hm.congr rfl rfl rfl⟩

/-! ### A halt reaches the threads of its context (R20, R339, R348, R375) -/

theorem State.FrameOf.endStopped (h : s.FrameOf k m) (fn : Nat) : (endStopped fn s).FrameOf k m := by
  refine h.map (fun p => ?_) (fun p hp => ?_)
  · split <;> rfl
  · split
    · exact hp.congr rfl rfl rfl
    · exact hp

theorem State.FrameOf.endCkptWaits (h : s.FrameOf k m) (fn : Nat) (v : Bool) : (endCkptWaits fn v s).FrameOf k m := by
  refine h.map (fun p => ?_) (fun p hp => ?_)
  · split
    · split <;> rfl
    · rfl
  · split
    · split
      · exact (hp.setPred _ v).goOn _
      · exact hp
    · exact hp

theorem State.FrameOf.abandonCkpt (h : s.FrameOf k m) (fn : Nat) : (abandonCkpt fn s).FrameOf k m := by
  unfold Machine.abandonCkpt
  refine State.FrameOf.endCkptWaits (State.FrameOf.congr ?_ rfl) fn false
  split
  · exact h.endStopped fn
  · exact h

theorem State.FrameOf.integrityHalt (h : s.FrameOf k m) (fn unit : Nat) (x : Nat × Nat) :
    (integrityHalt fn unit x s).FrameOf k m := by
  have hfill : (foreignFill fn x s).FrameOf k m := h.congr rfl
  unfold Machine.integrityHalt raiseHalt
  split
  · exact hfill
  · exact (hfill.abandonCkpt fn).congr rfl

theorem State.FrameOf.orIntegrity (h : s.FrameOf k m) (fn unit : Nat) (met : Option (Nat × Nat)) :
    (orIntegrity fn unit met s).FrameOf k m := by
  unfold Machine.orIntegrity
  split
  · exact h.integrityHalt ..
  · exact h

/-! ### The parts of completing an instruction, up to its results -/

theorem State.FrameOf.useBanks (h : s.FrameOf k m) (j : Nat) (l : List Nat) : (useBanks j l s).FrameOf k m := by
  refine h.congr ?_
  unfold Machine.useBanks
  split <;> rfl

theorem State.FrameOf.fillChecked (h : s.FrameOf k m) (t : Thread) (l : List Nat) :
    (fillChecked k t l s).FrameOf k m := by
  unfold Machine.fillChecked
  split
  · refine State.FrameOf.traffic ?_ (fillFrames_traffic ..)
    unfold coreIntegrity
    split
    · exact h
    · exact h.integrityHalt ..
  · exact h.traffic (fillFrames_traffic ..)

theorem sectXlat_threads (fn core va : Nat) (s : State) : (sectXlat fn core va s).2.threads = s.threads := by
  unfold sectXlat
  split
  · rfl
  · split <;> exact (walkSlices_threads_wgs ..).1

theorem sliceReads_threads (fn cid pa n : Nat) (s : State) : (sliceReads fn cid pa n s).threads = s.threads :=
  foldl_same (g := State.threads) (by intros; rfl) _ s

theorem readNote_threads (fn core fuel va n : Nat) (s : State) : (readNote fn core fuel va n s).threads = s.threads := by
  induction fuel generalizing va n s with
  | zero => rfl
  | succ fuel ih =>
    unfold readNote
    dsimp only
    split
    · rfl
    · split
      · rw [ih, sliceReads_threads, sectXlat_threads]
      · exact sectXlat_threads ..

theorem ite_readNote_threads (b : Bool) (fn core fuel va n : Nat) (s : State) :
    (if b then s else readNote fn core fuel va n s).threads = s.threads := by
  split
  · rfl
  · exact readNote_threads ..

/-- The lines of a popped record's regions leave the L1; a walk to them may halt the context (R262, R402). -/
theorem State.FrameOf.dropRegion (h : s.FrameOf k m) (fn core fuel a n : Nat) :
    (dropRegion fn core fuel a n s).FrameOf k m := by
  induction fuel generalizing a n s with
  | zero => exact h
  | succ fuel ih =>
    unfold Machine.dropRegion
    split
    · exact h
    · refine ih ?_ _ _
      split
      · exact h.congr (sectXlat_threads fn core a s)
      · exact State.FrameOf.orIntegrity (h.congr (sectXlat_threads fn core a s)) ..

theorem State.FrameOf.popEffect (h : s.FrameOf k m) (t : Thread) (core q : Nat) (word : Word) :
    (popEffect t core q word s).FrameOf k m := by
  unfold Machine.popEffect
  dsimp only
  split
  · split
    · exact h.congr rfl
    · split
      · exact h.congr rfl
      · split
        · exact h.congr ((modCore_threads ..).trans (ite_readNote_threads ..))
        · refine State.FrameOf.foldl ?_ (fun _ _ hv => hv.dropRegion ..) _
          exact h.congr (ite_readNote_threads ..)
  · exact h.congr rfl

theorem State.FrameOf.popQueues (h : s.FrameOf k m) (j : Nat) (t : Thread) (reads : List (BitVec 8 × Nat)) :
    (popQueues j t reads s).FrameOf k m := by
  refine h.foldl (fun v q hv => ?_) _
  split
  · exact hv
  · have hset : ∀ w : Workgroup → Workgroup, (v.modWg t.wg w).FrameOf k m := fun _ => hv.congr rfl
    split
    · exact (hset _).foldl (fun _ _ hu => hu.popEffect ..) _
    · exact hset _

theorem orderPoint_threads (fn kind point : Nat) (object : DWord) (agent event : Nat) (seq : Option Nat) (s : State) :
    (orderPoint fn kind point object agent event seq s).threads = s.threads := by
  unfold orderPoint
  split
  · rfl
  · split <;> rfl

theorem orderReads_threads (j : Nat) (t : Thread) (F : Form) (s : State) : (orderReads j t F s).threads = s.threads := by
  unfold orderReads
  split
  · rfl
  · refine (foldl_same (g := State.threads) (fun v q => ?_) _ _).trans
      (foldl_same (g := State.threads) (fun v n => orderPoint_threads ..) _ s)
    exact foldl_same (g := State.threads) (fun v _ => orderPoint_threads ..) _ v

theorem orderWrites_threads (j : Nat) (t : Thread) (F : Form) (s : State) :
    (orderWrites j t F s).threads = s.threads := by
  unfold orderWrites
  split
  · rfl
  · exact foldl_same (g := State.threads) (fun v n => orderPoint_threads ..) _ s

theorem State.FrameOf.takeSources (h : s.FrameOf k m) (j : Nat) (t : Thread) (F : Form) :
    (takeSources j t F s).FrameOf k m := by
  unfold Machine.takeSources
  split
  · exact h
  · exact (h.popQueues j t F.reads).congr (orderReads_threads ..)

/-! ### The written register -/

/-- A result of one register, which is not transient, is what the register then reads as. -/
theorem regG_writeReg (h : s.FrameOf k m) {n : BitVec 8} (hg : regClass n = .g) (hn : n.toNat < m) (named : List Nat)
    (v : Nat) : (writeReg k named n 1 v false s).regG k n.toNat = some (BitVec.ofNat 32 v) := by
  obtain ⟨t, ht, hm⟩ := h
  have hlen : n.toNat < t.frame.length := hn.trans_le (hm.size ▸ hm.ok.sized)
  have hwords : wordsFrom v 1 = [BitVec.ofNat 32 v] := by simp [wordsFrom, upto]
  have hread := readG_storeG_same (hm.ok.ageTrans [n.toNat]) hlen (transient?_ageTrans (.inl List.mem_cons_self)) named
    (BitVec.ofNat 32 v)
  simpa [writeReg, hg, State.regG, ht, hwords, writeG_one] using hread

theorem regG_congr (h : u.threads = s.threads) (n : Nat) : u.regG k n = s.regG k n := by
  rw [State.regG, h, State.regG]

/-- Frame traffic changes no register. -/
theorem regG_traffic (h : FrameTraffic k s u) {n : Nat} {v : Word} (hs : s.regG k n = some v) :
    u.regG k n = some v := by
  obtain ⟨t, ht, rfl⟩ := Option.map_eq_some_iff.mp hs
  obtain ⟨lines, wrote, hz⟩ := h.own t ht
  rw [State.regG, hz]
  rfl

/-- Going on changes no register. -/
theorem regG_advance (now : Nat) (pc : DWord) (stop : Bool) (s : State) (k n : Nat) :
    (s.modThread k (advance now pc stop)).regG k n = s.regG k n := by
  simp only [State.regG, modThread_threads, look_change_same, Option.map_map]
  rfl

theorem settle_threads (bundle wgs counted issued : List Nat) (pc : DWord) (ord : Nat) (s : State) :
    (settle bundle wgs counted issued pc ord s).threads = s.threads := by
  unfold settle
  split
  · rfl
  · dsimp only
    split
    · rfl
    · exact foldl_same (g := State.threads) (by intros; rfl) _ _

/-- After an instruction with one result of one register, which is not transient, the register reads as the result. -/
theorem regG_completed (h : s.FrameOf k m) {F : Form} {n : BitVec 8} (hw : F.writes = [(n, 1, false)])
    (hr : ∀ r ∈ F.reads, regClass r.1 = .g → r.1.toNat + r.2 ≤ m) (hg : regClass n = .g) (hn : n.toNat < m)
    (t : Thread) (pc : DWord) (v : Nat) : (completed k t F pc [v] s).regG k n.toNat = some (BitVec.ofNat 32 v) := by
  rw [completed, regG_congr (settle_threads ..), complete, regG_advance]
  refine regG_traffic (accountFrames_traffic ..) ?_
  rw [regG_congr (orderWrites_threads ..), writeAll, hw]
  exact regG_writeReg ((((h.useBanks ..).fillChecked ..).takeSources ..).modThread fun _ hz => hz.consume hr) hg hn ..

end

end Sys2Proof.Machine
end

section
/-! SUPPORT. What the encoding check says of the registers of an instruction: those that are g-registers lie in the frame
(R8, R49). -/

namespace Sys2Proof.Machine

variable {f : Fields} {e : Enc} {m : Nat}

theorem accepts_g {a : Acc} {regs align : Nat} {n : BitVec 8} (h : accepts m a regs align n = true)
    (hg : regClass n = .g) : n.toNat + regs ≤ m := by
  simp only [accepts, hg, Bool.and_eq_true, decide_eq_true_eq] at h
  exact h.2

/-- A source lies in the frame where its field breaks no rule. -/
theorem roleRead_inFrame {isDst mark tdOk : Bool} {n : BitVec 8} {role : Role}
    (h : roleBad m isDst mark tdOk n role = false) :
    ∀ r ∈ roleRead n role, regClass r.1 = .g → r.1.toNat + r.2 ≤ m := by
  intro r hr hg
  cases role with
  | src regs a | srcAt regs align a =>
    simp only [roleRead, List.mem_singleton] at hr
    subst hr
    simp only [roleBad, Bool.or_eq_false_iff, Bool.not_eq_false'] at h
    exact accepts_g h.1 hg
  | none | raw | dst regs a => simp [roleRead] at hr

/-- A destination lies in the frame where its field breaks no rule. -/
theorem dst_inFrame {isDst mark tdOk : Bool} {n : BitVec 8} {regs : Nat} {a : Acc}
    (h : roleBad m isDst mark tdOk n (.dst regs a) = false) (hg : regClass n = .g) : n.toNat + regs ≤ m := by
  simp only [roleBad, Bool.or_eq_false_iff, Bool.not_eq_false'] at h
  exact accepts_g h.1.1 hg

/-- No field of a legal instruction breaks a rule of its role (R50). -/
theorem roleBad_of_legal (h : encTrap f e m = none) :
    roleBad m true f.td e.tdOk f.dst e.dst = false ∧ roleBad m false f.lua false f.sa e.sa = false ∧
    roleBad m false f.lub false f.sb e.sb = false ∧ roleBad m false f.luc false f.sc e.sc = false := by
  unfold encTrap at h
  split at h
  · cases h
  · split at h
    · cases h
    · rename_i hbad
      simp only [Bool.or_eq_true, not_or, Bool.not_eq_true] at hbad
      obtain ⟨⟨⟨⟨-, hd⟩, ha⟩, hb⟩, hc⟩ := hbad
      exact ⟨hd, ha, hb, hc⟩

/-- The sources of a legal instruction lie in the frame. -/
theorem formOf_reads_inFrame (h : encTrap f e m = none) (imm : Option Nat) (predR predW : List Nat) :
    ∀ r ∈ (formOf f e imm predR predW).reads, regClass r.1 = .g → r.1.toNat + r.2 ≤ m := by
  obtain ⟨hd, ha, hb, hc⟩ := roleBad_of_legal h
  intro r hr
  simp only [formOf, List.mem_append] at hr
  obtain ((hr | hr) | hr) | hr := hr
  · exact roleRead_inFrame ha r hr
  · exact roleRead_inFrame hb r hr
  · exact roleRead_inFrame hc r hr
  · exact roleRead_inFrame hd r hr

end Sys2Proof.Machine
end

section
/-! SUPPORT. Arithmetic on 32-bit types is arithmetic on words (R67, R93). -/

namespace Sys2Proof.Machine

/-! ### Words -/

theorem ofInt_eq_of_modEq {w : Nat} {u v : Int} (h : u ≡ v [ZMOD (2 ^ w : Nat)]) : BitVec.ofInt w u = BitVec.ofInt w v :=
  BitVec.eq_of_toNat_eq (by rw [BitVec.toNat_ofInt, BitVec.toNat_ofInt, h.eq])

theorem ofInt_sub (w : Nat) (u v : Int) : BitVec.ofInt w (u - v) = BitVec.ofInt w u - BitVec.ofInt w v :=
  eq_sub_of_add_eq (by rw [← BitVec.ofInt_add, sub_add_cancel])

section
variable {c : Nat} (hc : typeWidth c = 32)
include hc

/-- A word read as a 32-bit type, signed or not, is the word again. -/
theorem ofInt_readInt (A : Word) : BitVec.ofInt 32 (readInt c A.toNat) = A := by
  have h := readInt_modEq c A.toNat
  rw [hc] at h
  rw [ofInt_eq_of_modEq h, BitVec.ofInt_natCast, BitVec.ofNat_toNat, BitVec.setWidth_eq]

/-- The register's word of a 32-bit result that is not clamped. -/
theorem ofNat_intResult (v : Int) : BitVec.ofNat 32 (intResult c false v) = BitVec.ofInt 32 v := by
  have h := intResult_modEq c false v
  rw [hc] at h
  rw [← BitVec.ofInt_natCast]
  exact ofInt_eq_of_modEq h
end

/-! ### An instruction with a 32-bit result -/

/-- An instruction of a 32-bit type with a g-destination that is not transient leaves its exact result, wrapped, there. -/
theorem Issue.Of.word {x : Issue} {i : Instr} {f : Fields} {n : Nat} {types : List Nat} {sat chk imm : Bool}
    {op : List Int → Int} {v : Int} (h : x.Of i) (hi : programForm i = some (intForm f n types sat chk imm))
    (he : exec i x.s = answer (intForm f n types sat chk imm) (intBody f op) x.s)
    (hv : op (x.src.map (readInt (mTYPE f))) = v) (hc : typeWidth (mTYPE f) = 32) (hs : mSAT f = false)
    (hg : regClass f.dst = .g) (htd : f.td = false) (hoc : x.t.OcOk) :
    ∃ u, exec i x.s = .next u ∧ u.regG x.k f.dst.toNat = some (BitVec.ofInt 32 v) := by
  refine ⟨_, h.int hi he hv, ?_⟩
  have hF : x.F = intForm f n types sat chk imm := Option.some.inj (h.1.symm.trans hi)
  have hlegal : encTrap f (intEnc f n types sat chk imm) x.t.fsize = none := by
    have hcheck := h.2.legal
    rwa [hF] at hcheck
  have hregs : regsFor (typeWidth (mTYPE f)) = 1 := by rw [hc]; rfl
  have hwrites : x.F.writes = [(f.dst, 1, false)] := by rw [hF, ← hregs, ← htd]; rfl
  have hreads : ∀ r ∈ x.F.reads, regClass r.1 = .g → r.1.toNat + r.2 ≤ x.t.fsize := by
    rw [hF]
    exact formOf_reads_inFrame hlegal _ [] []
  have hdst : f.dst.toNat + 1 ≤ x.t.fsize := hregs ▸ dst_inFrame (roleBad_of_legal hlegal).1 hg
  rw [hs, ← ofNat_intResult hc]
  exact regG_completed ⟨x.t, h.2.thread, hoc, rfl⟩ hwrites hreads hg hdst ..

/-- Settles O2: a sum, difference or product of integers, taken as a word, is that of their words. -/
theorem wordArithmetic : Obligations.WordArithmetic := by
  intro f x A B hty hs hg htd hoc ha hb
  have hc : typeWidth (mTYPE f) = 32 := by obtain h | h := hty <;> rw [h] <;> rfl
  have hA : BitVec.ofInt 32 (readInt (mTYPE f) x.a) = A := ha ▸ ofInt_readInt hc A
  have hB : BitVec.ofInt 32 (readInt (mTYPE f) x.b) = B := hb ▸ ofInt_readInt hc B
  refine ⟨fun h => ?add, fun h => ?sub, fun h => ?mul⟩
  case add =>
    rw [← hA, ← hB, ← BitVec.ofInt_add]
    exact h.word rfl rfl (by simp) hc hs hg htd hoc
  case sub =>
    rw [← hA, ← hB, ← ofInt_sub]
    exact h.word rfl rfl (by simp) hc hs hg htd hoc
  case mul =>
    rw [← hA, ← hB, ← BitVec.ofInt_mul]
    exact h.word rfl rfl (by simp) hc hs hg htd hoc

end Sys2Proof.Machine
end

section
/-! SUPPORT. Bitwise instructions, and numbers built bit by bit (R98, R99). -/

namespace Sys2Proof.Machine

/-! ### Bits of a number -/

theorem bit_eq_testBit (v n : Nat) : bit v n = v.testBit n := by
  rw [bit, Nat.testBit_eq_decide_div_mod_eq]

theorem one_eq_toNat (b : Bool) : one b = b.toNat := by cases b <;> rfl

/-- A number built from its bits, below a width. -/
def bitSum (g : Nat → Bool) (w : Nat) : Nat := (upto w).foldl (fun r i => r + one (g i) * 2 ^ i) 0

theorem bitSum_succ (g : Nat → Bool) (w : Nat) : bitSum g (w + 1) = bitSum g w + 2 ^ w * (g w).toNat := by
  simp only [bitSum, upto, List.range_succ, List.foldl_append, List.foldl_cons, List.foldl_nil, one_eq_toNat,
    Nat.mul_comm]

theorem bitSum_lt (g : Nat → Bool) (w : Nat) : bitSum g w < 2 ^ w := by
  induction w with
  | zero => exact Nat.one_pos
  | succ w ih =>
    rw [bitSum_succ, Nat.pow_succ]
    cases g w <;> simp <;> omega

/-- Its bits are those that it was built from. -/
theorem testBit_bitSum (g : Nat → Bool) (w i : Nat) : (bitSum g w).testBit i = (decide (i < w) && g i) := by
  induction w with
  | zero => simp [bitSum, upto]
  | succ w ih =>
    rw [bitSum_succ, Nat.add_comm, Nat.testBit_two_pow_mul_add _ (bitSum_lt g w)]
    split
    · rename_i h
      simp [ih, h, Nat.lt_succ_of_lt h]
    · rename_i h
      by_cases hi : i = w
      · subst hi; cases g i <;> simp
      · have hs : (g w).toNat.testBit (i - w) = false :=
          Nat.testBit_eq_false_of_lt ((Bool.toNat_lt _).trans_le (Nat.le_self_pow (by omega) 2))
        rw [hs, decide_eq_false (by omega), Bool.false_and]

theorem lutBits_eq (table w a b c : Nat) :
    lutBits table w a b c = bitSum (fun i => lut3 table (bit a i) (bit b i) (bit c i)) w := rfl

/-! ### An instruction on raw bits -/

/-- An instruction whose sources are cut to its type's width completes with their combination, placed. -/
theorem Issue.Of.raw {x : Issue} {i : Instr} {G : Form} {f : Fields} {op : Nat → List Nat → Nat} {v : Nat} (h : x.Of i)
    (hi : programForm i = some G) (he : exec i x.s = answer G (rawBody f op) x.s)
    (hv : op (typeWidth (mTYPE f)) (x.src.map (· % 2 ^ typeWidth (mTYPE f))) = v) :
    exec i x.s = .next (x.done [placeInt (mTYPE f) (v % 2 ^ typeWidth (mTYPE f))] x.s) :=
  h.done hi he (by rw [rawBody, hv])

/-- The complement of a number of the width. -/
theorem compl_mod (w v : Nat) : compl w (v % 2 ^ w) = 2 ^ w - 1 - v % 2 ^ w := by rw [compl, Nat.mod_mod]

/-- Settles O4: the bitwise instructions are each one of `Issue.Of.raw`, and BLUT's result is built bit by bit. -/
theorem bitwiseLogic : Obligations.BitwiseLogic := by
  refine fun f x => ⟨?and, ?or, ?xor, ?andn, ?orn, ?blut⟩
  case and | or | xor => exact fun h => h.raw rfl rfl (by simp)
  case andn | orn => exact fun h => h.raw rfl rfl (by simp [compl_mod])
  case blut =>
    refine fun h => ⟨_, h.done rfl rfl rfl, fun i => ?_⟩
    simp only [lutBits_eq, testBit_bitSum, lut3, bit_eq_testBit, one_eq_toNat, Issue.nth_zero, Issue.nth_one,
      Issue.nth_two]

end Sys2Proof.Machine
end

section
/-! SUPPORT. Shifts (R69, R100 to R104). -/

namespace Sys2Proof.Machine

/-! ### Shifts of numbers are shifts of bit vectors (R69) -/

section
variable {w : Nat} (v : BitVec w) (n : Nat)

theorem shiftLeft_toNat : shiftLeft w v.toNat n = (v <<< n).toNat := by
  rw [shiftLeft, BitVec.toNat_shiftLeft, Nat.shiftLeft_eq]
  split
  · rename_i h
    exact (Nat.mod_eq_zero_of_dvd ((Nat.pow_dvd_pow 2 h).trans (Nat.dvd_mul_left ..))).symm
  · rfl

theorem shiftRight_toNat : shiftRight w v.toNat n = (v >>> n).toNat := by
  rw [shiftRight, BitVec.toNat_ushiftRight, Nat.shiftRight_eq_div_pow, Nat.mod_eq_of_lt v.isLt]
  split
  · rename_i h
    exact (Nat.div_eq_of_lt (v.isLt.trans_le (Nat.pow_le_pow_right Nat.two_pos h))).symm
  · rfl

/-- The signed reading of a bit vector. -/
theorem sextInt_toNat (hw : 0 < w) : sextInt w v.toNat = v.toInt := by
  have hp : 2 ^ w = 2 * 2 ^ (w - 1) := by rw [← Nat.pow_succ', Nat.succ_eq_add_one, Nat.sub_add_cancel hw]
  rw [sextInt, BitVec.toInt, Nat.mod_eq_of_lt v.isLt]
  split <;> split <;> first | rfl | omega

/-- A count of the width or more leaves only copies of the sign bit. -/
theorem sshiftRight_of_le (h : w ≤ n) : v.sshiftRight n = v.sshiftRight w := by
  ext i hi
  rw [BitVec.getElem_sshiftRight, BitVec.getElem_sshiftRight, dif_neg (by omega), dif_neg (by omega)]

theorem shiftArith_toNat (hw : 0 < w) : shiftArith w v.toNat n = (v.sshiftRight n).toNat := by
  have hmin : v.sshiftRight n = v.sshiftRight (if w ≤ n then w else n) := by
    split
    · rename_i h; exact sshiftRight_of_le v n h
    · rfl
  rw [hmin, shiftArith, sextInt_toNat v hw, BitVec.sshiftRight, BitVec.toNat_ofInt, Int.shiftRight_eq_div_pow, wrapNat]
end

/-- A sum over four places. -/
theorem foldl_four (g : Nat → Nat) : (upto 4).foldl (fun r i => r + g i) 0 = g 0 + g 1 + g 2 + g 3 := by
  simp only [upto, List.range_succ, List.range_zero, List.foldl_append, List.foldl_cons, List.foldl_nil, List.nil_append,
    Nat.zero_add]

/-- Settles O5: the instructions' bodies as they stand, and the shifts of numbers as shifts of bit vectors. -/
theorem shiftsAndFields : Obligations.ShiftsAndFields := by
  refine ⟨fun f x => ⟨?shl, ?shr, ?sar, ?dsh, ?bfx, ?bfi, ?popc, ?clz, ?brev, ?prmb⟩, fun w v n hw =>
    ⟨shiftLeft_toNat v n, shiftRight_toNat v n, shiftArith_toNat v n hw, fun h => ⟨if_pos h, if_pos h⟩⟩⟩
  case prmb =>
    refine fun h => h.done rfl rfl ?_
    rw [foldl_four]
    simp only [Issue.nth_zero, Issue.nth_one, Issue.nth_two, Nat.mul_zero, pow_zero, Nat.mul_one, Nat.reduceMul]
  all_goals exact fun h => h.done rfl rfl rfl

end Sys2Proof.Machine
end

section
/-! SUPPORT. Compares, moves and predicates (R105 to R112). -/

namespace Sys2Proof.Machine

/-- Settles O6: each is its body as it stands; MOVS takes its values from the issuing thread's workgroup. -/
theorem comparesAndMoves : Obligations.ComparesAndMoves := by
  refine fun f x => ⟨?icmp, ?sel, ?mov, ?movi, ?lea, ?movs, ?plog, ?pget, ?pset⟩
  case movs => exact fun h => h.done rfl rfl (by simp only [h.2.workgroup, movsSel])
  all_goals exact fun h => h.done rfl rfl rfl

end Sys2Proof.Machine
end

section
/-! SUPPORT. The loop stack (R116). -/

namespace Sys2Proof.Machine

/-- Outside a trap handler no loop is saved. -/
theorem savedDepth_of_outside {t : Thread} (h : t.tdepth = 0) : savedDepth t = 0 := if_pos h

/-! ### LOOP -/

section
variable {f : Fields} {k : Nat} {t : Thread} {l : List Nat} {s : State}

theorem loopBody_beyond (h : 2 ^ 57 ≤ relative t.pc (loopDisp f)) :
    loopBody f k t l s = .trap (trapBefore cAccessViolation 2) := by
  simp only [loopBody, if_pos h]

section
variable (h : relative t.pc (loopDisp f) < 2 ^ 57) (ht : t.tdepth = 0)
include h ht

/-- A count of 0 goes to the exit. -/
theorem loopBody_exits (h0 : nth 0 0 l = 0) :
    loopBody f k t l s = .jump (BitVec.ofNat 64 (relative t.pc (loopDisp f)))
      (s.modThread k (fun u => { u with loops := loopsBelow t.pc t.loops })) := by
  simp [-Nat.reducePow, loopBody, Nat.not_le.mpr h, savedDepth_of_outside ht, h0]

/-- The stack has no room. -/
theorem loopBody_full (h0 : nth 0 0 l ≠ 0) (h4 : (loopsBelow t.pc t.loops).length = 4) :
    loopBody f k t l s = .trap (trapBefore cIllegalInstruction) := by
  simp [-Nat.reducePow, loopBody, Nat.not_le.mpr h, savedDepth_of_outside ht, h0, h4]

/-- The loop enters the stack. -/
theorem loopBody_pushes (h0 : nth 0 0 l ≠ 0) (h4 : (loopsBelow t.pc t.loops).length ≠ 4) :
    loopBody f k t l s = .done [] (s.modThread k (fun u => { u with
      loops := ⟨u.pc, nextPc u (formOf f (loopEnc f)), BitVec.ofNat 32 (nth 0 0 l)⟩ :: loopsBelow t.pc t.loops })) := by
  simp [-Nat.reducePow, loopBody, Nat.not_le.mpr h, savedDepth_of_outside ht, h0, h4, nextPc, formOf]
end

/-! ### ENDL -/

theorem endlBody_nil (h : t.loops = []) : endlBody k t l s = .trap (trapBefore cIllegalInstruction) := by
  simp only [endlBody, h]

section
variable {e : LoopEntry} {rest : List LoopEntry} (h : t.loops = e :: rest) (ht : t.tdepth = 0)
include h ht

/-- The last turn of the top loop. -/
theorem endlBody_pops (hc : e.count = 1) :
    endlBody k t l s = .done [] (s.modThread k (fun u => { u with loops := rest })) := by
  simp [endlBody, h, savedDepth_of_outside ht, hc]

/-- Another turn of the top loop. -/
theorem endlBody_repeats (hc : e.count ≠ 1) :
    endlBody k t l s = .jump e.start (s.modThread k (fun u => { u with
      loops := { e with count := e.count - 1 } :: rest })) := by
  have hleft : ¬ e.count - 1 = 0 := sub_ne_zero.mpr hc
  simp only [endlBody, h, savedDepth_of_outside ht, List.length_cons, Nat.le_zero, Nat.succ_ne_zero, hleft, if_false]
end
end

/-- Settles O8, a lemma for each case of the two bodies. -/
theorem loops : Obligations.Loops := by
  intro f x ht
  refine ⟨fun h => ⟨fun hx => ?beyond, fun hx ha => ?exits, fun hx ha hr => ?full, fun hx ha hr => ?pushes⟩,
    fun h => ⟨fun hl => ?empty, fun e l hl hc => ?pops, fun e l hl hc => ?repeats⟩⟩
  case beyond => exact h.trap rfl rfl (loopBody_beyond hx)
  case exits => exact h.jump rfl rfl (loopBody_exits hx ht ha)
  case full => exact h.trap rfl rfl (loopBody_full hx ht ha hr)
  case pushes =>
    have hF : formOf f (loopEnc f) = x.F := Option.some.inj h.1
    rw [← hF]
    exact h.done rfl rfl (loopBody_pushes hx ht ha hr)
  case empty => exact h.trap rfl rfl (endlBody_nil hl)
  case pops => exact h.done rfl rfl (endlBody_pops hl ht hc)
  case repeats => exact h.jump rfl rfl (endlBody_repeats hl ht hc)

end Sys2Proof.Machine
end

section
/-! SUPPORT. NOP, the operand cache and the frame (R118 to R121, R188, R347). -/

namespace Sys2Proof.Machine

/-- Settles O9: the conditions of OCSYNC and FSHRK select a branch of their bodies. -/
theorem frameInstructions : Obligations.FrameInstructions := by
  refine fun f x => ⟨fun h => h.done rfl rfl rfl, fun h => h.done rfl rfl rfl, fun h => h.done rfl rfl rfl,
    fun h hroom => h.done rfl rfl ?_, fun h => ⟨fun hlt => h.trap rfl rfl (if_pos hlt), fun hle hp => h.done rfl rfl ?_⟩⟩
  · simp only [hroom, Bool.not_true, Bool.false_eq_true, if_false]
  · have hpend : x.t.pendG.any (fun n => decide (x.t.fsize - f.sc.toNat ≤ n)) = false := by
      simp only [List.any_eq_false, decide_eq_true_eq, not_le]
      exact hp
    rw [if_neg (Nat.not_lt.mpr hle), hpend]
    rfl

end Sys2Proof.Machine
end

section
/-! SUPPORT. ST by the way in which it is served, and the writes of a thread that release nothing (R122, R184, R199, R222,
R225, R347). -/

namespace Sys2Proof.Machine

/-! ### Bytes of a value -/

/-- The bytes of a number are those of its low part. -/
theorem toBytes_mod (n v : Nat) : toBytes n (v % 2 ^ (8 * n)) = toBytes n v := by
  induction n generalizing v with
  | zero => rfl
  | succ n ih =>
    have hp : 2 ^ (8 * (n + 1)) = 256 * 2 ^ (8 * n) := by rw [Nat.mul_succ, pow_add]; exact Nat.mul_comm ..
    have hlow : BitVec.ofNat 8 (v % (256 * 2 ^ (8 * n))) = BitVec.ofNat 8 v :=
      BitVec.eq_of_toNat_eq (by rw [BitVec.toNat_ofNat, BitVec.toNat_ofNat, Nat.mod_mod_of_dvd _ (Nat.dvd_mul_right ..)])
    rw [toBytes, toBytes, hp, hlow, Nat.mod_mul_right_div_self, ih]

/-- A number of at most 128 bits is its two halves. -/
theorem halves_toNat {v : Nat} (h : v < 2 ^ 128) :
    (BitVec.ofNat 64 v).toNat + 2 ^ 64 * (BitVec.ofNat 64 (v / 2 ^ 64)).toNat = v := by
  have hh : v / 2 ^ 64 < 2 ^ 64 := Nat.div_lt_of_lt_mul (by rw [← pow_add]; exact h)
  rw [BitVec.toNat_ofNat, BitVec.toNat_ofNat, Nat.mod_eq_of_lt hh, Nat.mod_add_div]

/-! ### A write of a thread that releases nothing -/

section
variable {o : MemOp} {va : Nat} {t : Thread} {need : Need} {s : State}

/-- A write to scratchpad that passes its checks. -/
theorem issueWrite_pad {off : Nat} (hh : accessHold t o.cls = none) (hv : o.va.toNat = va)
    (hc : checkAccess s o.fn o.core o.wg need va o.size = .pad off) :
    issueWrite o t need none s = issuePad { o with addr := off } t s := by
  simp only [issueWrite, hh, hv, hc, Option.bind_none]

/-- A write to device memory that passes its checks. -/
theorem issueWrite_dev {pa cid : Nat} (hh : accessHold t o.cls = none) (hv : o.va.toNat = va)
    (hc : checkAccess s o.fn o.core o.wg need va o.size = .dev pa cid) :
    issueWrite o t need none s = issueDev { o with addr := pa, cid := cid } t s := by
  simp only [issueWrite, hh, hv, hc, Option.bind_none]

/-- A store to scratchpad that nothing holds is performed there. -/
theorem issuePad_store {w : Workgroup} (hk : o.kind = .store) (hw : look o.wg s.wgs = some w)
    (ho : ∀ p ∈ s.ops, p.stage ≠ .claimed) (hc : claimedPad s o.wg o.addr o.size = false)
    (hr : padReady s o.thread t o.addr 1 = true) (hf : padFull s o.fn o.wg o.addr = false)
    (hb : banksBusy s o.thread (padGranule w o.addr).toList = false) :
    issuePad o t s = .done []
      (performPad { o with aperture := true } (useBanks o.thread (padGranule w o.addr).toList s)).1 := by
  have hn : s.ops.any (fun p => p.stage = .claimed && padOverlap p o.wg o.addr o.size) = false := by
    simp only [List.any_eq_false]
    intro p hp
    simp [ho p hp]
  have hr' : padReady s o.thread t o.addr OpKind.store.event = true := hr
  simp only [issuePad, hw, Option.bind_some, hc, hn, hr', hf, hb, hk, Bool.or_self, Bool.not_true, Bool.false_eq_true,
    if_false, if_true]

/-- A store to device memory is performed in the L1 and sent to the home slice. -/
theorem issueDev_store (hk : o.kind = .store) (hv : o.va.toNat = va) (hf : undoFull s o.fn o.addr = false)
    (hb : banksBusy s o.thread ((l1Find (lineOf o.addr) o.cid (s.core o.core).l1).map (·.way)).toList = false) :
    issueDev o t s = .done [] (send o t (l1Store o.core o.cid o.addr o.bytes (tlbTake o.fn o.core va
      (useBanks o.thread ((l1Find (lineOf o.addr) o.cid (s.core o.core).l1).map (·.way)).toList s)))) := by
  simp only [issueDev, hk, hv, hf, hb, Bool.false_eq_true, if_false, if_true]
end

/-! ### ST -/

/-- The operation that an ST of a thread of the value `c` at `va` is, before it is known where it is served. -/
def storeOp (f : Fields) (k : Nat) (t : Thread) (va c : Nat) : MemOp :=
  let n := sizeOf' (mSIZE f)
  let v := c % 2 ^ (8 * n)
  { blankOp k t with
    kind := .store, va := BitVec.ofNat 64 va, size := n, data := BitVec.ofNat 64 v
    data2 := BitVec.ofNat 64 (v / 2 ^ 64), cls := 2 }

/-- ST without an order is a write that releases nothing. -/
theorem stBody_plain {f : Fields} (hr : mORD f = 0) (k : Nat) (t : Thread) (l : List Nat) (s : State) :
    stBody f k t l s
      = issueWrite (storeOp f k t (addrOf (nth 0 0 l) (nth 0 1 l) (mSCALE f) (dispOf f)) (nth 0 2 l)) t .write none s := by
  have h2 : ¬ mORD f = 2 := by omega
  simp only [stBody, if_neg h2]
  rfl

/-- A legal encoding keeps its modifier's rules. -/
theorem modOk_of_legal {f : Fields} {e : Enc} {m : Nat} (h : encTrap f e m = none) : e.modOk = true := by
  unfold encTrap at h
  split at h
  · cases h
  · rename_i hm; simpa using hm

/-- A legal ST is of at most 16 bytes. -/
theorem Issue.Of.st_size {x : Issue} {f : Fields} (h : x.Of (.st f)) : sizeOf' (mSIZE f) ≤ 16 := by
  obtain ⟨hF, hready⟩ := h
  have hlegal : encTrap f (stEnc f) x.t.fsize = none := by
    have hcheck := hready.legal
    rwa [← Option.some.inj hF] at hcheck
  have hmod := modOk_of_legal hlegal
  simp only [stEnc, Bool.and_eq_true, decide_eq_true_eq] at hmod
  obtain ⟨⟨-, hsize⟩, -⟩ := hmod
  unfold sizeOf'
  interval_cases mSIZE f <;> decide

/-- The operation carries the bytes of the value. -/
theorem storeOp_bytes {f : Fields} (hn : sizeOf' (mSIZE f) ≤ 16) (k : Nat) (t : Thread) (va c : Nat) :
    (storeOp f k t va c).bytes = toBytes (sizeOf' (mSIZE f)) c := by
  have hlt : c % 2 ^ (8 * sizeOf' (mSIZE f)) < 2 ^ 128 :=
    (Nat.mod_lt _ (Nat.two_pow_pos _)).trans_le (Nat.pow_le_pow_right Nat.two_pos (by omega))
  rw [MemOp.bytes, storeOp]
  dsimp only
  rw [halves_toNat hlt, toBytes_mod]

theorem storeOp_va (f : Fields) (k : Nat) (t : Thread) {va : Nat} (h : va < 2 ^ 64) (c : Nat) :
    (storeOp f k t va c).va.toNat = va := by
  rw [storeOp, BitVec.toNat_ofNat, Nat.mod_eq_of_lt h]

/-- Settles O16: ST is a write that releases nothing, to scratchpad or to device memory. -/
theorem stores : Obligations.Stores := by
  intro f x h hh hord n va Store
  have hva : (storeOp f x.k x.t va x.c).va.toNat = va := storeOp_va f x.k x.t (addrOf_lt ..) x.c
  have hbody := stBody_plain hord x.k x.t x.src x.s
  have hbytes := storeOp_bytes h.st_size x.k x.t va x.c
  refine ⟨fun off hc ho hcl hr hf hb => ?_, fun pa cid hc hf hb => ?_⟩
  · refine ⟨{ storeOp f x.k x.t va x.c with addr := off, aperture := true },
      ⟨rfl, rfl, rfl, rfl, rfl, rfl, hbytes⟩, rfl, rfl, h.done rfl rfl (hbody.trans ?_)⟩
    exact (issueWrite_pad hh hva hc).trans (issuePad_store rfl h.2.workgroup ho hcl hr hf hb)
  · refine ⟨{ storeOp f x.k x.t va x.c with addr := pa, cid := cid },
      ⟨rfl, rfl, rfl, rfl, rfl, rfl, hbytes⟩, rfl, rfl, rfl, rfl, h.done rfl rfl (hbody.trans ?_)⟩
    exact (issueWrite_dev hh hva hc).trans (issueDev_store rfl hva hf hb)

end Sys2Proof.Machine
end

section
/-! SUPPORT. FGROW and PGROW by what the Pool Allocator answers (R119, R186, R187, R189, R238). -/

namespace Sys2Proof.Machine

/-- The state in which a grow has written its predicate, if it is a `.nw` form. -/
def grown (pred : Option Nat) (v : Bool) (k : Nat) (s : State) : State :=
  match pred with
  | some d => s.modThread k (setPred d v)
  | none => s

theorem growDone_eq (pred : Option Nat) (v : Bool) (k : Nat) (s : State) :
    growDone pred v k s = .done [] (grown pred v k s) := by
  cases pred <;> rfl

theorem growPred_nw {f : Fields} (h : mNW f = true) : (growPred f).isSome := by simp [growPred, h]

theorem growPred_waiting {f : Fields} (h : mNW f = false) : growPred f = none := if_neg (by simp [h])

/-! ### What the pool answers, outside a replay -/

section
variable {pred : Option Nat} {scratch : Bool} {n k : Nat} {t : Thread} {s : State}
  (hlog : loggedOutcome s k t.fn 3 = none)
include hlog

/-- Nobody waits, and the pool has what is needed. -/
theorem askPool_grants (hw : (s.core (coreOf k)).waitList = [])
    (hn : needOf s (coreOf k) scratch n ≤ grantable s (coreOf k)) :
    askPool pred scratch n k t s
      = .done [] (grown pred true k (growNow k t.wg scratch n (noteOutcome k t.fn 3 0 s))) := by
  simp only [askPool, hlog, hw, hn, List.isEmpty_nil, decide_true, Bool.and_self, if_true, growDone_eq]

/-- A `.nw` form does not wait. -/
theorem askPool_refuses (hn : grantable s (coreOf k) < needOf s (coreOf k) scratch n) (hp : pred.isSome) :
    askPool pred scratch n k t s = .done [] (grown pred false k (noteOutcome k t.fn 3 2 s)) := by
  obtain ⟨d, rfl⟩ := Option.isSome_iff_exists.mp hp
  simp [askPool, hlog, Nat.not_le.mpr hn, growDone_eq]

/-- A request that may wait joins the wait list. -/
theorem askPool_waits (hn : grantable s (coreOf k) < needOf s (coreOf k) scratch n) (hl : growLimit s t.fn k ≠ 0)
    (hm : needOf s (coreOf k) scratch n ≤ Config.growMax) :
    askPool none scratch n k t s = .wait (.pool scratch n) (s.modCore (coreOf k) (fun c => { c with
      waitList := c.waitList ++ [⟨k, scratch, n, (s.ctx t.fn).clock⟩] })) := by
  simp [askPool, hlog, Nat.not_le.mpr hn, hl, Nat.not_lt.mpr hm]

/-- A request that may not wait, or that the pool could never grant, fails at once. -/
theorem askPool_fails (hn : grantable s (coreOf k) < needOf s (coreOf k) scratch n)
    (hl : growLimit s t.fn k = 0 ∨ Config.growMax < needOf s (coreOf k) scratch n) :
    askPool none scratch n k t s = .fail (growTrap scratch true n) (noteOutcome k t.fn 3 2 s) := by
  have ho : (decide (growLimit s t.fn k = 0) || decide (Config.growMax < needOf s (coreOf k) scratch n)) = true := by
    simpa using hl
  simp [askPool, hlog, Nat.not_le.mpr hn, ho]
end

/-! ### FGROW and PGROW ask the pool -/

/-- What FGROW does in a thread. -/
def fgrowBody (f : Fields) : Body := fun k t _ s =>
  if t.flim < t.fsize + f.sc.toNat then .trap (growTrap false true (f.sc.toNat / 8))
  else askPool (growPred f) false (f.sc.toNat / 8) k t s

/-- What PGROW of `n` granules does in a thread whose scratchpad has `size` bytes. -/
def pgrowOut (f : Fields) (n size k : Nat) (t : Thread) (s : State) : LaneOut :=
  if n = 0 then growDone (growPred f) true k s
  else if Config.granuleBytes * Config.growMax < size + Config.granuleBytes * n then
    match growPred f with
    | some _ => growDone (growPred f) false k s
    | none => .trap (growTrap true true n)
  else askPool (growPred f) true n k t s

def pgrowBody (f : Fields) : Body := fun k t l s =>
  pgrowOut f (countOf f l) (((look t.wg s.wgs).map (·.spsize)).getD 0) k t s

theorem exec_fgrow (f : Fields) (s : State) :
    exec (.fgrow f) s = answer (formOf f (fgrowEnc f) none [] (growPred f).toList) (fgrowBody f) s := rfl

theorem exec_pgrow (f : Fields) (s : State) :
    exec (.pgrow f) s = answer (formOf f (pgrowEnc f) none [] (growPred f).toList) (pgrowBody f) s := rfl

/-- FGROW within FLIM asks for its registers' units (R8, R119). -/
theorem fgrowBody_asks {f : Fields} {t : Thread} (hl : t.fsize + f.sc.toNat ≤ t.flim) (k : Nat) (l : List Nat)
    (s : State) : fgrowBody f k t l s = askPool (growPred f) false (f.sc.toNat / 8) k t s :=
  if_neg (Nat.not_lt.mpr hl)

/-- PGROW of a count that the scratchpad may reach asks for its granules (R238). -/
theorem pgrowBody_asks {f : Fields} {t : Thread} {w : Workgroup} {l : List Nat} {s : State}
    (hw : look t.wg s.wgs = some w) (hn : countOf f l ≠ 0)
    (hm : w.spsize + Config.granuleBytes * countOf f l ≤ Config.granuleBytes * Config.growMax) (k : Nat) :
    pgrowBody f k t l s = askPool (growPred f) true (countOf f l) k t s := by
  rw [pgrowBody, hw]
  exact (if_neg hn).trans (if_neg (Nat.not_lt.mpr hm))

/-- Settles O20: both ask the pool, whose answers exclude each other. -/
theorem grows : Obligations.Grows := by
  intro f x i scratch n hi h hlog need limit set
  obtain ⟨G, bd, hG, he, hb⟩ : ∃ G bd, programForm i = some G ∧ exec i x.s = answer G bd x.s ∧
      bd x.k x.t x.src x.s = askPool (growPred f) scratch n x.k x.t x.s := by
    obtain ⟨rfl, rfl, rfl, hl⟩ | ⟨rfl, rfl, rfl, hn, hm⟩ := hi
    · exact ⟨_, _, rfl, exec_fgrow f x.s, fgrowBody_asks hl ..⟩
    · exact ⟨_, _, rfl, exec_pgrow f x.s, pgrowBody_asks h.2.workgroup hn hm x.k⟩
  refine ⟨fun hw hn => ?_, fun hn hnw => ?_, fun hn hnw hl hm => ?_, fun hn hnw hl => ?_⟩
  · exact h.done hG he (hb.trans (askPool_grants hlog hw hn))
  · exact h.done hG he (hb.trans (askPool_refuses hlog hn (growPred_nw hnw)))
  · rw [growPred_waiting hnw] at hb
    exact h.waits hG he (hb.trans (askPool_waits hlog hn hl hm))
  · rw [growPred_waiting hnw] at hb
    exact h.fail hG he (hb.trans (askPool_fails hlog hn hl))

end Sys2Proof.Machine
end

section
/-! SUPPORT. EXIT with a table of threads that lists a key twice (R117, R170). -/

namespace Sys2Proof.Machine

/-- EXIT. -/
def plainExit : Fields := ⟨0, 7, false, false, false, false, false, false, 0xF8, 0xF8, 0xF8, 0xF8, 0, 0, 0⟩
def plainExitForm : Form := formOf plainExit { modOk := plainExit.mod = 0 }

/-- A thread of workgroup 1 whose second arrival at b0 waits for the generation that it is already in. -/
def secondArrival : Thread := { placedThread with tlin := 1, wg := 1, wait := some (.barrierAgain 0 0 true) }

/-- A thread of the exiting thread's workgroup that has arrived at b0. -/
def arrivedMember : Thread := { placedThread with tlin := 1, arrived := 1 }

/-- Workgroup 0 at an open generation of b0, which names every thread (R154). -/
def openBarrierWg : Workgroup := { placedWg with bars := setNth ⟨0, 1, 0, 0, []⟩ 0 placedWg.bars }

/-- Thread 0 stands at EXIT. Its table of threads lists key 1 twice: the key reads as the thread of workgroup 1, while
the list of workgroup 0's threads shows the other entry. -/
def sharedKey : State :=
  { State.reset with
    issue := [0]
    threads := [(0, placedThread), (1, secondArrival), (1, arrivedMember)]
    wgs := [(0, openBarrierWg), (1, placedWg)] }

def sharedKeyExit : Issue := ⟨sharedKey, 0, placedThread, openBarrierWg, plainExitForm⟩

theorem sharedKeyExit_of : sharedKeyExit.Of (.exit plainExit) :=
  ⟨rfl, rfl, rfl, rfl, rfl, rfl, rfl, rfl, rfl, rfl, rfl, rfl, rfl, rfl, rfl, rfl⟩

/-- The exit completes the generation, and the second arrival is then made by what the key reads as: the thread of the
other workgroup, which goes on. -/
theorem secondArrival_made :
    (look 1 sharedKey.threads).map (·.wait) = some (some (.barrierAgain 0 0 true)) ∧
    (look 1 (sharedKeyExit.left (exitThread 0 sharedKey)).threads).map (·.wait) = some none := by
  decide +kernel

/-- Refutes O10: the statement is of every state, and asks nothing of the table of threads, whose keys `Tbl` takes to
rise strictly. Where a key is listed twice, EXIT completes a generation of its workgroup's barrier, the second arrivals
are made by key, and a thread of another workgroup that has the key arrives and goes on. -/
theorem not_threadExit : ¬ Obligations.ThreadExit := by
  intro h
  obtain ⟨hexec, u, hu, -, -, hothers⟩ := h plainExit sharedKeyExit sharedKeyExit_of
  obtain rfl : sharedKeyExit.left (exitThread 0 sharedKey) = u := Host.Outcome.next.inj (hexec.symm.trans hu)
  have hsame := hothers rfl rfl (fun _ => rfl) 1 secondArrival rfl (by decide) (fun _ h => by cases h)
  obtain ⟨-, hafter⟩ := secondArrival_made
  rw [hsame] at hafter
  cases hafter

end Sys2Proof.Machine
end

section
/-! SUPPORT. Floating-point arithmetic on one element, and the conversions (R126 to R138). -/

namespace Sys2Proof.Machine

/-- An instruction of one element finishes with its operation's result and exceptions, on its sources cut to the
format's width. -/
theorem Issue.Of.element {x : Issue} {i : Instr} {G : Form} {f : Fields} {op : FpOp} {y : Nat × Exc} (h : x.Of i)
    (hi : programForm i = some G) (he : exec i x.s = answer G (fpBody f op) x.s)
    (hy : op (fmtOf (mTYPE f)) (modeOf (mRND f) x.t.fstat) (mFZ f)
      (x.src.map (· % 2 ^ (fmtOf (mTYPE f)).width)) = y) :
    exec i x.s = .next (x.fp y.2 [y.1] x.s) :=
  h.fp hi he (by subst hy; rfl)

/-- Settles O11: each instruction is one of `Issue.Of.element`, whose operands are the sources at the positions that its
operation reads. -/
theorem floatArithmetic : Obligations.FloatArithmetic := by
  refine fun f x => ⟨?fadd, ?fsub, ?fmul, ?ffma, ?fdiv, ?dadd, ?dmul, ?dfma, ?fmin, ?fmax, ?frcp, ?frsq, ?fsqrt, ?fex2,
    ?flg2, ?fsin, ?fcos, ?frnd⟩ <;> refine fun h => h.element rfl rfl ?_
  case fadd | fsub | fmul | fdiv | dadd | dmul => simp [opAdd, opSub, opMul, opDiv]
  case ffma | dfma => simp [opFma]
  case fmin | fmax => simp [opMin, opMax]
  case frcp | frsq | fsqrt | fex2 | flg2 | fsin | fcos | frnd => simp

/-- Settles O13: FCLS and the bit-plane instructions complete, and the others finish with the exceptions of their
operation; each is its body as it stands. -/
theorem floatComparesAndConversions : Obligations.FloatComparesAndConversions := by
  refine fun f x => ⟨?fcmp, ?dcmp, ?fcls, ?f2i, ?i2f, ?f2f, ?sclq, ?bpack, ?bpext⟩
  case fcmp | dcmp | f2i | i2f | f2f | sclq => exact fun h => h.fp rfl rfl rfl
  case fcls | bpack | bpext => exact fun h => h.done rfl rfl rfl

end Sys2Proof.Machine
end

section
/-! SUPPORT. PAUSE, SUSPEND and the event counters (R161, R162, R179 to R181). -/

namespace Sys2Proof.Machine

/-- Settles O25: each clause is one way through the instruction's body, which the clause's hypotheses and the thread's
workgroup, where the counters are, decide. -/
theorem eventInstructions : Obligations.EventInstructions := by
  intro f x
  dsimp only
  refine ⟨fun h => h.done rfl rfl rfl, fun h hspace v hv => ⟨fun hr => h.jump rfl rfl ?reached,
    fun hr hroom => h.waits rfl rfl ?suspended⟩, fun h hready => h.done rfl rfl ?evadd,
    fun h hready => h.done rfl rfl ?evget⟩ <;> have hw := h.2.workgroup
  case reached => simpa [hw, hv, hr] using hspace
  case suspended => simpa [hw, hv, hr, hroom] using hspace
  case evadd | evget => simp [hw, hready]

end Sys2Proof.Machine
end

section
/-! SUPPORT. The ends of waits: pauses, idling, and the time-outs of barriers, collectives, HGET and VSWPT (R155, R161,
R173, R178, R324, R381). -/

namespace Sys2Proof.Machine

/-! ### Lists and tables -/

theorem length_insertBy {α : Type} (rank : α → Nat) (a : α) (l : List α) :
    (insertBy rank a l).length = l.length + 1 := by
  induction l with
  | nil => rfl
  | cons b l ih => unfold insertBy; split <;> simp [ih]

theorem length_sortBy {α : Type} (rank : α → Nat) (l : List α) : (sortBy rank l).length = l.length := by
  have h : ∀ acc : List α, (l.foldl (fun acc a => insertBy rank a acc) acc).length = acc.length + l.length := by
    induction l with
    | nil => simp
    | cons a l ih => intro acc; rw [List.foldl_cons, ih, length_insertBy, List.length_cons]; omega
  simpa [sortBy] using h []

/-- Sorting leaves no elements out. -/
theorem sortBy_eq_nil {α : Type} {rank : α → Nat} {l : List α} : sortBy rank l = [] ↔ l = [] := by
  rw [← List.length_eq_zero_iff, length_sortBy, List.length_eq_zero_iff]

theorem mem_of_look {α : Type} {k : Nat} {v : α} {l : Tbl α} (h : look k l = some v) : (k, v) ∈ l := by
  induction l with
  | nil => cases h
  | cons p l ih =>
    obtain ⟨j, w⟩ := p
    by_cases hj : j = k
    · obtain rfl : w = v := by simpa [look, hj] using h
      exact hj ▸ List.mem_cons_self
    · exact List.mem_cons_of_mem _ (ih (by simpa [look, hj] using h))

/-! ### Barriers -/

/-- The threads of a workgroup that wait at a barrier, in ascending TLIN. -/
def barWaiters (s : State) (g n : Nat) : List Nat :=
  (sortBy (fun p => p.2.tlin) ((s.computeOf g).filter (fun p => waitsAt n p.2))).map (·.1)

/-- A thread whose arrival at a barrier is withdrawn: BARW traps in it later, unless it traps now (R155, R170). -/
def withdrawArrival (n : Nat) (t : Thread) : Thread :=
  { t with
    arrived := t.arrived &&& ~~~(barBit n)
    withdrawn := if waitsAt n t then t.withdrawn else t.withdrawn ||| barBit n }

/-- The state after the arrivals of a barrier's open generation are withdrawn. -/
def withdrawGeneration (g n : Nat) (s : State) : State :=
  let s := s.modBar g n (fun b => { b with range := 0, arrivals := 0, regs := [] })
  { s with threads := s.threads.map (fun p =>
      if p.2.wg = g && p.2.arrived.getLsbD n then (p.1, withdrawArrival n p.2) else p) }

section
variable {s : State} {g n : Nat} {w : Workgroup}

theorem barWaiters_ne_nil {k : Nat} {t : Thread} (ht : look k s.threads = some t) (hg : t.wg = g)
    (hn : waitsAt n t = true) (ha : t.apprentice = false) : barWaiters s g n ≠ [] := by
  have hmem : (k, t) ∈ (s.computeOf g).filter (fun p => waitsAt n p.2) := by
    simp [State.computeOf, mem_of_look ht, hg, hn, ha]
  simpa [barWaiters, sortBy_eq_nil] using List.ne_nil_of_mem hmem

theorem barrierStall_traps (hw : look g s.wgs = some w) (hwait : barWaiters s g n ≠ [])
    (hdue : stallDue s w.fn w.core (s.bar g n).origin = true) :
    exec (.barrierStall g n) s = .next (stallTrap (barWaiters s g n)
      (stallDetail n (s.bar g n).arrivals (namedThreads s g (s.bar g n).range.toNat).length)
      (withdrawGeneration g n s)) := by
  have hrun : ((barWaiters s g n).isEmpty || !stallDue s w.fn w.core (s.bar g n).origin) = false := by simp [hwait, hdue]
  simp only [exec, execBarrierStall, hw]
  exact if_neg (Bool.eq_false_iff.mp hrun)

theorem withdrawGeneration_arrivals (hw : look g s.wgs = some w) (hn : n < w.bars.length) :
    ((withdrawGeneration g n s).bar g n).arrivals = 0 := by
  simp [withdrawGeneration, State.bar, State.modBar, hw, nth_setNth_same _ _ hn]

theorem getLsbD_withdrawArrival (h16 : n < 16) (t : Thread) : (withdrawArrival n t).arrived.getLsbD n = false := by
  simp [withdrawArrival, barBit, h16]

theorem withdrawGeneration_arrived (h16 : n < 16) {p : Nat × Thread} (hp : p ∈ (withdrawGeneration g n s).threads)
    (hg : p.2.wg = g) : p.2.arrived.getLsbD n = false := by
  obtain ⟨q, -, rfl⟩ := List.mem_map.mp hp
  by_cases hq : (q.2.wg = g && q.2.arrived.getLsbD n) = true
  · rw [if_pos hq]
    exact getLsbD_withdrawArrival h16 q.2
  · rw [if_neg hq] at hg ⊢
    simpa [hg] using hq
end

/-! ### The other waits -/

section
variable {s : State} {g : Nat} {w : Workgroup}

theorem hgetStall_traps {k n since : Nat} {t : Thread} (ht : look k s.threads = some t)
    (hstall : t.stall = some ⟨11, 3, n⟩) (hfrom : t.stallFrom = some since) (hw : look t.wg s.wgs = some w)
    (hdue : stallDue s t.fn (coreOf k) (max since (nth 0 n w.hlast)) = true)
    (hwaits : hgetWaits w n ((hgetMates s t).map (·.2)) = true) :
    exec (.hgetStall k) s = .next (stallTrap ((hgetMates s t).map (·.1)) (stallDetail (0x80 + n) 0 0) s) := by
  simp only [exec, execHgetStall, ht, hstall, hfrom, hw, hdue, hwaits, Bool.not_true, Bool.or_self, Bool.false_eq_true,
    if_false]

theorem collectiveStall_traps {c : Collective} (hw : look g s.wgs = some w)
    (hc : w.colls.find? (isColl c.warp c.pc) = some c) (hdue : stallDue s w.fn w.core c.origin = true) :
    exec (.collectiveStall g c.warp c.pc) s = .next (stallTrap (c.here.map (·.thread))
      (stallDetail 0x40 c.here.length (members s c.warp c.mask).length) (s.modWg g (putColl c.warp c.pc none))) := by
  simp only [exec, execCollectiveStall, hw, hc, hdue, Bool.not_true, Bool.false_eq_true, if_false]
  rfl

theorem vswptStall_traps {p : SwitchPoint} (hw : look g s.wgs = some w) (hp : w.vsw = [p]) (hnone : p.target = none)
    (hhere : p.here ≠ []) (hdue : stallDue s w.fn w.core p.origin = true) :
    exec (.vswptStall g) s = .next (stallTrap p.here (stallDetail 0x41 p.here.length (s.computeOf g).length)
      (s.modWg g (fun w => { w with vsw := w.vsw.filter (fun q => q.id != p.id) }))) := by
  have hfind : w.vsw.find? (fun p => p.target.isNone && !p.here.isEmpty && stallDue s w.fn w.core p.origin) = some p := by
    simp [hp, hnone, hhere, hdue]
  simp only [exec, execVswptStall, hw, hfind]
  rfl
end

/-- Settles O36, a lemma for each step that times out; of the state in which a barrier's waiters trap, the three facts
are those of `withdrawGeneration`. -/
theorem waitEnds : Obligations.WaitEnds := by
  refine fun s k t ht => ⟨fun c hc hle hmod => ?pause, fun c hc hle => ?idle,
    fun n since w hstall hfrom hw => hgetStall_traps ht hstall hfrom hw, fun g w c => collectiveStall_traps,
    fun g w p => vswptStall_traps, fun g w n hw hg hwait ha hdue h16 hlen => ?barrier⟩
  case pause => simp [exec, execPauseExpiry, ht, hc, hmod, Nat.not_lt.mpr hle]
  case idle => simp [exec, execIdleWake, ht, hc, Nat.not_lt.mpr hle]
  case barrier =>
    exact ⟨withdrawGeneration g n s, barrierStall_traps hw (barWaiters_ne_nil ht hg hwait ha) hdue,
      withdrawGeneration_arrivals hw (hlen ▸ h16), fun p => withdrawGeneration_arrived h16, rfl⟩

end Sys2Proof.Machine
end

section
/-! SUPPORT. Admission and placement of launches, and requests to switch variants (R165 to R167, R298). -/

namespace Sys2Proof.Machine

section
variable {s u : State} {key : Nat} {l : Launch} (hl : look key s.launches = some l)
include hl

/-- A descriptor that fails its integrity check is a context fault (R402). -/
theorem launchAdmission_faults (ha : l.admitted = false) {x : Nat × Nat} (hx : launchIntegrity l s = (some x, u)) :
    exec (.launchAdmission key) s = .next (integrityHalt l.fn 0xFFFF x u) := by
  simp [exec, execLaunchAdmission, hl, ha, hx]

variable (hx : launchIntegrity l s = (none, u))
include hx

/-- A launch of sound descriptors is admitted if an empty partition could hold it, and ends otherwise (R166, R167). -/
theorem launchAdmission_decides (ha : l.admitted = false) :
    exec (.launchAdmission key) s = .next (if couldFit key l u
      then endLaunches l.fn (u.modLaunch key (fun l => { l with admitted := true }))
      else completeLaunch l 1 { u with launches := drop key u.launches }) := by
  cases hfit : couldFit key l u <;> simp [exec, execLaunchAdmission, hl, ha, hx, hfit]

variable (ha : l.admitted = true) (hd : dispatching s l.fn = true) (hnext : nextLaunch s l.fn = some key)
include ha hd hnext

/-- All cohorts of a co-operative launch are placed together (R165, R167). -/
theorem workgroupPlacement_coop {t : State} (hc : l.coop = true) (hp : placeCoop key l l.left u = some t) :
    exec (.workgroupPlacement key) s = .next (t.modLaunch key (fun l => { l with
      left := [], running := (t.wgs.filter (fun p => p.2.launch = key)).length })) := by
  simp [exec, execWorkgroupPlacement, hl, ha, hd, hnext, hx, hc, hp]

/-- The next cohort of any other launch is placed alone (R165). -/
theorem workgroupPlacement_next {c : Nat × Nat} {rest : List (Nat × Nat)} {t : State} (hc : l.coop = false)
    (hleft : l.left = c :: rest) (hp : placeGreedy key l c u = some t) :
    exec (.workgroupPlacement key) s = .next (t.modLaunch key (fun l => { l with
      left := rest, running := l.running + (t.wgs.length - u.wgs.length) })) := by
  simp [exec, execWorkgroupPlacement, hl, ha, hd, hnext, hx, hc, hleft, hp]
end

/-! ### Requests to switch a variant (R298) -/

/-- Whether a core has, once a workgroup runs variant `v`, the granules that a request needs. -/
def downHelps (s : State) (core g : Nat) (w : Workgroup) (k : Kernel) (r : PoolReq) (v : Nat) : Bool :=
  decide ((needAfter s g w (k.variant v) r : Int) ≤ grantable s core - switchGrowth s g w (k.variant v))

/-- The variant that a request for fewer granules asks for: the first smaller one that helps, else the least. -/
def downChoice (s : State) (core g : Nat) (w : Workgroup) (k : Kernel) (r : PoolReq) : Nat :=
  ((otherNeeds s w k true).find? (downHelps s core g w k r)).getD ((leastNeed s core k).headD 0)

section
variable {s : State} {core g : Nat} {w : Workgroup} {k : Kernel}

theorem downRequest_posts {r : PoolReq} {rest : List PoolReq} {t : Thread}
    (hr : (s.core core).waitList = r :: rest) (ht : look r.thread s.threads = some t)
    (hage : r.since + Config.downAge ≤ (s.ctx t.fn).clock)
    (hlast : ((multiVariant s core).filter (fun x => !(otherNeeds s x.2.1 x.2.2 true).isEmpty)).getLast?
      = some (g, w, k)) :
    exec (.downRequest core) s = .next (postRequest g (downChoice s core g w k r) s) := by
  simp only [exec, execDownRequest, hr, ht, hlast]
  exact if_neg (Nat.not_lt.mpr hage)

theorem downChoice_mem (s : State) (core g : Nat) (w : Workgroup) (k : Kernel) (r : PoolReq) :
    downChoice s core g w k r ∈ otherNeeds s w k true ∨ downChoice s core g w k r = (leastNeed s core k).headD 0 := by
  unfold downChoice
  cases hf : (otherNeeds s w k true).find? (downHelps s core g w k r) with
  | none => exact .inr rfl
  | some v => exact .inl (List.mem_of_find?_eq_some hf)

/-- Where some smaller variant helps, the choice does. -/
theorem downChoice_helps {r : PoolReq} {v : Nat} (hv : v ∈ otherNeeds s w k true)
    (hh : downHelps s core g w k r v = true) :
    downChoice s core g w k r ∈ otherNeeds s w k true ∧ downHelps s core g w k r (downChoice s core g w k r) = true := by
  unfold downChoice
  cases hf : (otherNeeds s w k true).find? (downHelps s core g w k r) with
  | none => exact absurd hh (List.find?_eq_none.mp hf v hv)
  | some v => exact ⟨List.mem_of_find?_eq_some hf, List.find?_some hf⟩

theorem upRequest_posts {v : Nat} {rest : List (Nat × Workgroup × Kernel)} (hr : (s.core core).waitList = [])
    (hm : multiVariant s core = (g, w, k) :: rest)
    (hv : (otherNeeds s w k false).find? (fun v =>
      decide (switchGrowth s g w (k.variant v) ≤ (grantable s core : Int))) = some v) :
    exec (.upRequest core) s = .next (postRequest g v s) := by
  simp [exec, execUpRequest, hr, hm, hv]
end

/-- Settles O42, a lemma for each step; the variant that a request for fewer granules asks for is `downChoice`. -/
theorem placementSteps : Obligations.PlacementSteps := by
  refine fun s key l hl => ⟨fun ha x hx => launchAdmission_faults hl ha (Prod.ext hx rfl),
    fun ha hx => launchAdmission_decides hl (Prod.ext hx rfl) ha,
    fun ha hx hd hnext => ⟨fun t => workgroupPlacement_coop hl (Prod.ext hx rfl) ha hd hnext,
      fun c rest t => workgroupPlacement_next hl (Prod.ext hx rfl) ha hd hnext⟩,
    fun core r rest t g w k hr ht hage hlast => ?down, fun core g w k v rest => upRequest_posts⟩
  refine ⟨downChoice s core g w k r, downRequest_posts hr ht hage hlast, downChoice_mem .., ?_⟩
  rintro ⟨v, hv, hh⟩
  obtain ⟨hmem, hhelps⟩ := downChoice_helps hv (decide_eq_true hh)
  exact ⟨hmem, of_decide_eq_true hhelps⟩

end Sys2Proof.Machine
end

section
/-! SUPPORT. The state after reset, in which nothing is due (R156, R190, R191, R329, R342, R358, R421). -/

namespace Sys2Proof.Machine

theorem enabled_reset (fn : Nat) : enabled State.reset fn = false := (by decide : VF.reset.ctl.getLsbD 0 = false)

/-- No operation, thread, context or queue is there for a device step to be about. -/
theorem steps_reset : steps State.reset = [] := rfl

theorem runningFns_reset : runningFns State.reset = [] := rfl

/-- Neither a device step, nor an issue, nor a cycle of a function is due. -/
theorem defaultTurn_reset : defaultTurn State.reset = none := by
  simp [defaultTurn, steps_reset, issueTurns, cycleTurn, runningFns_reset, sortBy]

theorem step_reset : step State.reset = .next State.reset := by
  have hturn : nextTurn State.reset = (none, State.reset) := congrArg (·, State.reset) defaultTurn_reset
  simp only [step, move, hturn]

/-- Settles O60: every table of the reset state is empty, so that each unit reads as its own reset value. -/
theorem resetState : Obligations.ResetState :=
  ⟨⟨rfl, Nat.zero_le 3⟩, rfl, rfl, rfl, rfl, memByte_nil, fun fn => ⟨enabled_reset fn, rfl, rfl, rfl, rfl, rfl⟩,
    fun _ => ⟨rfl, rfl, rfl, rfl⟩, step_reset⟩

end Sys2Proof.Machine
end

section
/-! SUPPORT. BAR, BARA and BARW (R168 to R170). -/

namespace Sys2Proof.Machine

section
variable {f : Fields} {waits : Bool} {k : Nat} {t : Thread} {l : List Nat} {s u : State}
  (hrole : t.apprentice = false) (hrange : rangeBad s t (nth 0 0 l) = false)
  (hrel : releaseWait s k t 0 0 = none)
include hrole hrange hrel

/-- A thread that has arrived at the open generation waits for it before it arrives again. -/
theorem arriveBody_again (ha : t.arrived.getLsbD (mBAR f) = true) :
    arriveBody f waits k t l s
      = .wait (.barrierAgain (mBAR f) (BitVec.ofNat 32 (nth 0 0 l)) waits) (beginWait t (mBAR f) s) := by
  simp [arriveBody, hrole, hrange, hrel, ha]

variable (ha : t.arrived.getLsbD (mBAR f) = false)
include ha

/-- The open generation has another set of threads. -/
theorem arriveBody_clashes (h : arrive k t (mBAR f) (BitVec.ofNat 32 (nth 0 0 l)) s = none) :
    arriveBody f waits k t l s = .trap (trapBefore cIllegalOperand) := by
  simp [arriveBody, hrole, hrange, hrel, ha, h]

/-- The last arrival of a generation. -/
theorem arriveBody_completes (h : arrive k t (mBAR f) (BitVec.ofNat 32 (nth 0 0 l)) s = some (true, u)) :
    arriveBody f waits k t l s = .done [] (arriveWaiting t.wg (mBAR f) u) := by
  simp [arriveBody, hrole, hrange, hrel, ha, h]

/-- An arrival that leaves the generation open. -/
theorem arriveBody_arrives (h : arrive k t (mBAR f) (BitVec.ofNat 32 (nth 0 0 l)) s = some (false, u)) :
    arriveBody f waits k t l s
      = if waits then .wait (.barrier (mBAR f)) (beginWait t (mBAR f) u) else .done [] u := by
  simp [arriveBody, hrole, hrange, hrel, ha, h]
end

/-- Settles O22: BAR and BARA share `arriveBody`, a lemma for each way through it, and differ where the generation stays
open; BARW looks at the mark of withdrawal and then at the thread's arrival. -/
theorem barriers : Obligations.Barriers := by
  intro f x hrole
  refine ⟨fun i waits hi h hrange hrel => ?arrival, fun h => ⟨fun hw => ?withdrawn, fun hw ha => ?waiting,
    fun hw ha => ?passes⟩⟩
  case arrival =>
    obtain ⟨G, hG, he⟩ : ∃ G, programForm i = some G ∧ exec i x.s = answer G (arriveBody f waits) x.s := by
      obtain ⟨rfl, rfl⟩ | ⟨rfl, rfl⟩ := hi <;> exact ⟨_, rfl, rfl⟩
    refine ⟨fun ha => h.waits hG he (arriveBody_again hrole hrange hrel ha),
      fun ha => ⟨fun u hu => h.done hG he (arriveBody_completes hrole hrange hrel ha hu), fun u hu => ?_,
        fun hu => h.trap hG he (arriveBody_clashes hrole hrange hrel ha hu)⟩⟩
    have hb := arriveBody_arrives (waits := waits) hrole hrange hrel ha hu
    split <;> rename_i hw
    · exact h.waits hG he (hb.trans (if_pos hw))
    · exact h.done hG he (hb.trans (if_neg hw))
  case withdrawn => exact h.fail rfl rfl (by simp [hrole, hw])
  case waiting => exact h.waits rfl rfl (by simp [hrole, hw, ha])
  case passes => exact h.done rfl rfl (by simp [hrole, hw, ha])

end Sys2Proof.Machine
end

section
/-! SUPPORT. The warp collectives PCOLL, LXCH and MATCH (R172 to R176). -/

namespace Sys2Proof.Machine

/-- A thread may not take part in a collective: the mask leaves it out, or the open instance is of another operation,
modifiers or mask (R172). -/
def collRefused (mod : BitVec 11) (op lane : Nat) (mask : Word) (old : Option Collective) : Bool :=
  (mask != 0 && !mask.getLsbD lane) || old.any (fun d => d.op != op || d.mod != mod || d.mask != mask)

/-- A thread may take part exactly where the mask names it and an open instance is of the same collective. -/
theorem collRefused_eq_false {mod : BitVec 11} {op lane : Nat} {mask : Word} {old : Option Collective} :
    collRefused mod op lane mask old = false ↔ (mask = 0 ∨ mask.getLsbD lane = true) ∧
      ∀ d, old = some d → d.op = op ∧ d.mod = mod ∧ d.mask = mask := by
  cases old <;> simp [collRefused, and_assoc, or_iff_not_imp_left]

/-- The instance that a thread's arrival makes of the open one, if there is one. -/
def collWith (k : Nat) (t : Thread) (op : Nat) (mod : BitVec 11) (mask : Word) (me : Arrival) (now : Nat)
    (old : Option Collective) : Collective :=
  ⟨warpOf k, t.apprentice, t.pc, op, mod, mask, ((old.map (·.here)).getD []) ++ [me], now⟩

/-- What the last member to arrive does: the others have their results, and it completes with its own. -/
def collCompletes (c : Collective) (k : Nat) (me : Arrival) (s : State) : LaneOut :=
  let s := (c.here.filter (fun a => a.thread != k)).foldl (deliver c) s
  if collPred c.op c.mod then .done [] (s.modThread k (setPred me.sel.toNat (collResult c me != 0)))
  else .done [collResult c me] s

/-- A thread that reaches a collective is refused, completes it or waits. -/
theorem collArrive_eq {s : State} {t : Thread} {w : Workgroup} (hw : look t.wg s.wgs = some w) (f : Fields)
    (op k : Nat) (mask : Word) (value : DWord) (sel : Word) :
    collArrive f op k t mask value sel s =
      let old := w.colls.find? (isColl (warpOf k) t.pc)
      let me : Arrival := ⟨k, laneOf k, value, sel⟩
      let c := collWith k t op f.mod mask me (s.ctx t.fn).clock old
      if collRefused f.mod op (laneOf k) mask old then .trap (trapBefore cIllegalOperand)
      else if collFull s c then collCompletes c k me (s.modWg t.wg (putColl (warpOf k) t.pc none))
      else .wait (.collective t.pc) (s.modWg t.wg (putColl (warpOf k) t.pc (some c))) := by
  simp only [collArrive, hw]
  cases w.colls.find? (isColl (warpOf k) t.pc) <;> rfl

/-- Settles O23: the three instructions are one arrival, whose ways `collArrive_eq` lists. -/
theorem collectives : Obligations.Collectives := by
  intro f x i op mask value sel hi h
  obtain ⟨G, bd, hG, he, hb⟩ : ∃ G bd, programForm i = some G ∧ exec i x.s = answer G bd x.s ∧
      bd x.k x.t x.src x.s = collArrive f op x.k x.t mask value sel x.s := by
    obtain ⟨rfl, rfl, rfl, rfl, rfl⟩ | ⟨rfl, rfl, rfl, rfl, rfl⟩ | ⟨rfl, rfl, rfl, rfl, rfl⟩ := hi <;>
      exact ⟨_, _, rfl, rfl, rfl⟩
  rw [collArrive_eq h.2.workgroup] at hb
  refine ⟨fun hbad => ?refused, fun hok hfull => ?waits, fun hok hfull => ?last⟩
  case refused =>
    exact h.trap hG he (hb.trans (if_pos (Bool.of_not_eq_false (mt collRefused_eq_false.mp hbad))))
  all_goals replace hb := hb.trans (if_neg (Bool.eq_false_iff.mp (collRefused_eq_false.mpr hok)))
  case waits => exact h.waits hG he (hb.trans (if_neg (Bool.eq_false_iff.mp hfull)))
  case last =>
    replace hb := hb.trans (if_pos hfull)
    dsimp only
    split <;> rename_i hp
    · exact h.done hG he (hb.trans (if_pos hp))
    · exact h.done hG he (hb.trans (if_neg hp))

end Sys2Proof.Machine
end

section
/-! SUPPORT. Instructions that the driver runs under another immediate, or other leaders, than their `programForm` tells
of. -/

namespace Sys2Proof.Machine

/-- The sources of an issue are those of its instruction's form. -/
theorem Issue.Of.src_eq {x : Issue} {i : Instr} (h : x.Of i) {G : Form} (hi : programForm i = some G) :
    x.src = sources G x.t x.w := by
  obtain rfl : x.F = G := Option.some.inj (h.1.symm.trans hi)
  rfl

theorem Issue.Of.done_with_imm {x : Issue} {i : Instr} (h : x.Of i) {G : Form} {body : Body} {imm : List Nat}
    {byRole : Bool} (hi : programForm i = some G)
    (he : exec i x.s = answer { G with imm := imm, byRole := byRole } body x.s) {vs : List Nat} {u : State}
    (hb : body x.k x.t (readSources x.w x.t [] G.reads ++ imm) x.s = .done vs u) :
    exec i x.s = .next (x.done vs u) := by
  obtain rfl : x.F = G := Option.some.inj (h.1.symm.trans hi)
  exact he.trans (answer_done (h.2.with_imm imm byRole) hb)

end Sys2Proof.Machine
end

section
/-! SUPPORT. The harvest: REDH and HGET (R177, R178). -/

namespace Sys2Proof.Machine

/-- The reduction that a REDH opens. -/
def newHarvest (f : Fields) (range seq : Nat) : Harvest :=
  ⟨mHOP f, mTYPE f, mHRM f, BitVec.ofNat 32 range, BitVec.ofNat 16 seq, []⟩

/-- A thread's value joins a reduction, which completes if that was the last one. -/
def contribute (t : Thread) (n : Nat) (h : Harvest) (v : DWord) (s : State) : State :=
  settleHarvest t.wg n (s.modWg t.wg (fun w => { w with
    harvest := setNth (some { h with given := put t.tlin v h.given }) n w.harvest
    hlast := setNth (s.ctx t.fn).clock n w.hlast }))

section
variable {f : Fields} {k : Nat} {t : Thread} {w : Workgroup} {l : List Nat} {s : State}
  (hw : look t.wg s.wgs = some w) (hrole : t.apprentice = false)
include hw hrole

/-- No reduction is open in the register. -/
theorem redhBody_opens (hrange : rangeBad s t (nth 0 1 l) = false)
    (hn : nth none (f.dst.toNat - 0xF0) w.harvest = none) :
    redhBody f k t l s = .done [] (contribute t (f.dst.toNat - 0xF0) (newHarvest f (nth 0 1 l) (nth 0 2 l))
      (BitVec.ofNat 64 (nth 0 0 l)) s) := by
  simp only [redhBody, hw, hrole, hrange, hn, Bool.false_eq_true, if_false]
  rfl

/-- The open reduction is the same one, and has no value of the thread yet. -/
theorem redhBody_joins {h : Harvest} (hrange : rangeBad s t (nth 0 1 l) = false)
    (hn : nth none (f.dst.toNat - 0xF0) w.harvest = some h)
    (hsame : { h with given := [] } = newHarvest f (nth 0 1 l) (nth 0 2 l)) (hgiven : look t.tlin h.given = none) :
    redhBody f k t l s = .done [] (contribute t (f.dst.toNat - 0xF0) h (BitVec.ofNat 64 (nth 0 0 l)) s) := by
  obtain ⟨op, ty, rm, range, seq, given⟩ := h
  obtain ⟨rfl, rfl, rfl, rfl, rfl, -⟩ := Harvest.mk.inj hsame
  simp [redhBody, hw, hrole, hrange, hn, hgiven, contribute]

/-- The register holds the value of the sequence number. -/
theorem hgetBody_reads (hseq : nth 0 (f.sa.toNat - 0xF0) w.hseq = BitVec.ofNat 16 (nth 0 1 l))
    (hlog : loggedOutcome s k t.fn 5 = none) :
    hgetBody f k t l s
      = .done [(nth 0 (f.sa.toNat - 0xF0) w.hval).toNat] (noteOutcome k t.fn 5 0 s) := by
  have hahead : seqAhead w (f.sa.toNat - 0xF0) (nth 0 1 l) = 0 := by
    rw [seqAhead, hseq, BitVec.sub_self]
    rfl
  simp [hgetBody, hw, hrole, hlog, hahead]
end

/-- Settles O24: REDH opens a reduction or joins the one that is open, and HGET reads; HGET's leaders are the one thing
that its `programForm` does not tell. -/
theorem harvests : Obligations.Harvests := by
  refine fun f x hrole => ⟨fun h hrange r hr => h.done rfl rfl ?redh,
    fun h hseq hlog => h.done_with_imm rfl rfl ?hget⟩
  case hget =>
    rw [Issue.b, h.src_eq rfl] at hseq
    exact hgetBody_reads h.2.workgroup hrole hseq hlog
  case redh =>
    obtain ⟨hn, rfl⟩ | ⟨hn, hop, hty, hrm, hset, hseq, hgiven⟩ := hr
    · exact redhBody_opens h.2.workgroup hrole hrange hn
    · exact redhBody_joins h.2.workgroup hrole hrange hn
        (Harvest.mk.injEq .. ▸ ⟨hop, hty, hrm, hset, hseq, rfl⟩) hgiven

end Sys2Proof.Machine
end

section
/-! SUPPORT. CDECL (R182). -/

namespace Sys2Proof.Machine

theorem cohortOf_eq {s : State} {t : Thread} {w : Workgroup} (hw : look t.wg s.wgs = some w) :
    cohortOf s t = w.cohort := by simp [cohortOf, hw]

/-- CDECL of a register without an open round, by a cohort that has the quadrant. -/
theorem cdeclBody_done {f : Fields} {k : Nat} {t : Thread} {w : Workgroup} {l : List Nat} {s u : State}
    (hw : look t.wg s.wgs = some w) (hrole : t.apprentice = false)
    (hrange : f.mod.getLsbD 4 = true ∨ declBad (BitVec.ofNat 32 (nth 0 0 l)).toNat
      (((look w.cohort s.cohorts).map (·.csize)).getD 0) (cohortSizes s w.cohort (wgSize w)) = false)
    (htake : takeTenure s w.cohort = some u) (hfirst : earlierDecl u k w.cohort (mBAR f) t = false)
    (hround : (cregOf u (cohortSect s w.cohort) (mBAR f)).round = none) :
    cdeclBody f k t l s = .done [] (
      if f.mod.getLsbD 4 = false ∧
          (cregOf u (cohortSect s w.cohort) (mBAR f)).decl = some (BitVec.ofNat 32 (nth 0 0 l)) then u
      else setCreg (cohortSect s w.cohort) (mBAR f)
        ⟨if f.mod.getLsbD 4 then none else some (BitVec.ofNat 32 (nth 0 0 l)), none⟩ u) := by
  have hsize : ((look t.wg s.wgs).map wgSize).getD 0 = wgSize w := by simp [hw]
  have hlegal : (!f.mod.getLsbD 4 && declBad (BitVec.ofNat 32 (nth 0 0 l)).toNat
      (((look w.cohort s.cohorts).map (·.csize)).getD 0) (cohortSizes s w.cohort (wgSize w))) = false := by
    obtain hrel | hgood := hrange
    · simp only [hrel, Bool.not_true, Bool.false_and]
    · simp only [hgood, Bool.and_false]
  simp only [cdeclBody, cohortOf_eq hw, hsize, hrole, hlegal, htake, hfirst, hround, Option.isSome_none,
    Bool.false_eq_true, if_false, Bool.and_eq_true, Bool.not_eq_true', decide_eq_true_eq]
  exact (apply_ite (LaneOut.done []) _ _ _).symm

/-- The source of CDECL is its range word: in the first extension word, where it has one. -/
theorem cdecl_source {f : Fields} {x : Issue} (h : x.Of (.cdecl f)) :
    nth 0 0 (readSources x.w x.t [] (formOf f (cdeclEnc f)).reads
      ++ (if formExt f.form = 0 then none else some f.ext1.toNat).toList)
      = if formExt f.form = 0 then x.a else f.ext1.toNat := by
  split <;> rename_i hx
  · rw [Issue.a, h.src_eq rfl]
    rfl
  · simp [formOf, cdeclEnc, hx, roleRead, readSources, nth]

/-- Settles O28: the register, of a quadrant that the cohort has, takes the declaration or loses it. -/
theorem convergenceDeclaration : Obligations.ConvergenceDeclaration := by
  intro f x s h hrole n rel range c sect hrange htake hfirst hround
  have hsrc := cdecl_source h
  refine h.done_with_imm rfl rfl ((cdeclBody_done h.2.workgroup hrole ?_ htake hfirst hround).trans ?_) <;> rw [hsrc]
  exact hrange

end Sys2Proof.Machine
end

section
/-! SUPPORT. An undo area smaller than one entry, whose only place ends in the line of a store that waits for its entry
(R203, R205, R345, R402). -/

namespace Sys2Proof.Machine

/-- A store under CID 1 of the eight bytes right behind the first 144, which waits for its undo entry. -/
def storeBehindArea : MemOp :=
  { id := 0, fn := 1, thread := 0, others := [], wg := 0, core := 0, kind := .store, stage := .logging, aperture := false,
    addr := 144, va := 144, cid := 1, size := 8, ty := 4, data := 1, data2 := 0, dst := 0xF8, regs := 0, transient := false,
    cls := 2, tag := false, acquire := none, bypass := false, hint := 0, value := [], seqTag := 0 }

/-- Its machine: the undo area of function 1 lies at address 0 and has no bytes, and the context's own CID is 0. -/
def emptyUndoArea : State := { State.reset with ops := [storeBehindArea] }

/-- The machine once the entry has been written to the bytes 0 to 143. -/
def undoEntryPosted : State := postUndo 1 (logUndo 1 1 144 emptyUndoArea)

/-- The entry has put the line that holds its last bytes, and the store's, under the context's own CID. -/
theorem undoEntryPosted_foreign : foreign undoEntryPosted 1 144 = true := by decide +kernel

theorem performHome_foreign {o : MemOp} {s : State} (h : foreign s o.cid o.addr = true) :
    performHome o s = integrityHalt o.fn (s.coreNo o.fn o.core) (o.addr, o.cid) s := if_pos h

/-- So the store fails its line's integrity check, and is not performed. -/
theorem emptyUndoArea_exec : exec (.undoEntryAccepted 0 true) emptyUndoArea
    = .next (integrityHalt 1 (undoEntryPosted.coreNo 1 0) (144, 1) undoEntryPosted) :=
  congrArg Host.Outcome.next (performHome_foreign (o := storeBehindArea) undoEntryPosted_foreign)

/-- Its bytes are as they were. -/
theorem emptyUndoArea_bytes : memRead (integrityHalt 1 (undoEntryPosted.coreNo 1 0) (144, 1) undoEntryPosted).mem 144 8
    = List.replicate 8 0 := by decide +kernel

/-- Refutes O34, whose premise keeps the store 144 bytes behind the end of the undo area: an area smaller than one entry
has one place nonetheless, the 144 bytes from its start, and these can end in the store's line. The entry puts that line
under the context's own CID, and a store under another CID meets an integrity failure in place of memory. -/
theorem not_memorySteps : ¬ Obligations.MemorySteps := by
  intro ⟨_, hstores⟩
  obtain ⟨_, hlogging, _⟩ := hstores emptyUndoArea storeBehindArea rfl rfl rfl rfl rfl ⟨rfl, by decide⟩
  obtain ⟨t, ht, _, hbits, _⟩ := (hlogging rfl rfl).1 (by decide) (.inl (by decide))
  obtain rfl := Host.Outcome.next.inj (emptyUndoArea_exec.symm.trans ht)
  have hbit := hbits 0
  rw [show storeBehindArea.addr = 144 from rfl, show storeBehindArea.size = 8 from rfl, emptyUndoArea_bytes] at hbit
  exact absurd hbit (by decide)

end Sys2Proof.Machine
end

section
/-! SUPPORT. PSHRK by what is still in use, and PQRY (R188, R239, R240). -/

namespace Sys2Proof.Machine

/-- What PSHRK of `n` granules does in a thread whose scratchpad has `size` bytes. -/
def pshrkOut (n size k : Nat) (t : Thread) (s : State) : LaneOut :=
  if size < Config.granuleBytes * n then .trap (trapBefore cIllegalOperand)
  else if n = 0 then .done [] s
  else if padBusy s t.wg (size - Config.granuleBytes * n) size then .stall ⟨15, 21, n⟩ true
  else .done [] (settlePool (coreOf k) (s.modWg t.wg (padResize (size - Config.granuleBytes * n))))

def pshrkForm (f : Fields) : Form :=
  formOf f { modOk := bits f.mod.toNat 9 0 = 0, sa := (countRoles f).1, sb := (countRoles f).2 }

/-- What PSHRK does in a thread. -/
def pshrkBody (f : Fields) : Body := fun k t l s =>
  pshrkOut (countOf f l) (((look t.wg s.wgs).map (·.spsize)).getD 0) k t s

theorem exec_pshrk (f : Fields) (s : State) : exec (.pshrk f) s = answer (pshrkForm f) (pshrkBody f) s := rfl

theorem pshrkBody_eq {t : Thread} {w : Workgroup} {s : State} (hw : look t.wg s.wgs = some w) (f : Fields) (k : Nat)
    (l : List Nat) : pshrkBody f k t l s = pshrkOut (countOf f l) w.spsize k t s := by
  rw [pshrkBody, hw]
  rfl

section
variable {n size k : Nat} {t : Thread} {s : State}

/-- No scratchpad has more granules than are there. -/
theorem pshrkOut_beyond (h : size < Config.granuleBytes * n) :
    pshrkOut n size k t s = .trap (trapBefore cIllegalOperand) := if_pos h

theorem pshrkOut_none (h : n = 0) : pshrkOut n size k t s = .done [] s := by
  simp only [pshrkOut, h, Nat.mul_zero, Nat.not_lt_zero, if_false, if_true]

theorem pshrkOut_shrinks (hn : n ≠ 0) (hs : Config.granuleBytes * n ≤ size)
    (hb : padBusy s t.wg (size - Config.granuleBytes * n) size = false) : pshrkOut n size k t s
      = .done [] (settlePool (coreOf k) (s.modWg t.wg (padResize (size - Config.granuleBytes * n)))) := by
  simp only [pshrkOut, Nat.not_lt.mpr hs, hn, hb, Bool.false_eq_true, if_false]
end

/-- What PQRY does in a thread: in a replay it reads the logged value (R370). -/
def pqryBody (f : Fields) : Body := fun k t _ s =>
  let v := (loggedOutcome s k t.fn 1).getD (pqryValue s (coreOf k) t.wg f.mod.toNat)
  .done [v] (noteOutcome k t.fn 1 v s)

theorem exec_pqry (f : Fields) (s : State) : exec (.pqry f) s
    = answer (formOf f { modOk := decide (f.mod.toNat ≤ 3), dst := .dst 1 { g := true } }) (pqryBody f) s := rfl

theorem pqryBody_reads {f : Fields} {k : Nat} {t : Thread} {s : State} (h : loggedOutcome s k t.fn 1 = none) (l : List Nat) :
    pqryBody f k t l s = .done [pqryValue s (coreOf k) t.wg f.mod.toNat]
      (noteOutcome k t.fn 1 (pqryValue s (coreOf k) t.wg f.mod.toNat) s) := by
  simp only [pqryBody, h, Option.getD_none]

/-- Settles O21: the cases of PSHRK, of the size of the thread's own scratchpad, and PQRY outside a replay. -/
theorem poolInstructions : Obligations.PoolInstructions := by
  refine fun f x => ⟨fun h => ?pshrk, fun h hlog => h.done rfl (exec_pqry f x.s) (pqryBody_reads hlog _)⟩
  case pshrk =>
    have hbody := pshrkBody_eq h.2.workgroup f x.k x.src
    refine ⟨fun hbeyond => ?_, fun hnone => ?_, fun hn hs hfree => ?_⟩
    · exact h.trap rfl (exec_pshrk f x.s) (hbody.trans (pshrkOut_beyond hbeyond))
    · exact h.done rfl (exec_pshrk f x.s) (hbody.trans (pshrkOut_none hnone))
    · exact h.done rfl (exec_pshrk f x.s) (hbody.trans (pshrkOut_shrinks hn hs hfree))

end Sys2Proof.Machine
end

section
/-! SUPPORT. Register writes from outside a thread, which come through the management function (R378, R392, R420). -/

namespace Sys2Proof.Machine

theorem viaMgmt_up {s : State} (h : mgmtUp s = true) (f : State → State) : viaMgmt f s = f s := if_pos h

theorem viaMgmt_down {s : State} (h : mgmtUp s = false) (f : State → State) : viaMgmt f s = s := by simp [viaMgmt, h]

/-- A register write is noted in the context that sees it: the machine's other parts are as they were. -/
theorem noteOutside_kept (core reg old : Nat) (s : State) :
    (noteOutside core reg old s).cores = s.cores ∧ (noteOutside core reg old s).threads = s.threads ∧
    (noteOutside core reg old s).wgs = s.wgs ∧ (noteOutside core reg old s).mem = s.mem := by
  unfold noteOutside
  split <;> exact ⟨rfl, rfl, rfl, rfl⟩

/-- A register of a core that is written from outside a thread: `f` sets it, and nothing else of what a program
works with changes. -/
theorem noteOutside_modCore (core reg old : Nat) (f : Core → Core) (s : State) :
    let u := noteOutside core reg old (s.modCore core f)
    u.core core = f (s.core core) ∧ u.threads = s.threads ∧ u.wgs = s.wgs ∧ u.mem = s.mem := by
  obtain ⟨hcores, hthreads, hwgs, hmem⟩ := noteOutside_kept core reg old (s.modCore core f)
  refine ⟨?_, hthreads, hwgs, hmem⟩
  rw [State.core, hcores]
  exact (modCore_read s core f core).trans (if_pos rfl)

end Sys2Proof.Machine
end

section
/-! SUPPORT. The device steps of the pool: grants, time-outs, residue, and writes of POOLCFG and POOLWAIT (R187, R190,
R191, R378, R387). -/

namespace Sys2Proof.Machine

/-! ### The allocator settles -/

/-- Each workgroup may be given granules, and keeps its scratchpad. -/
theorem fitWgs_cons (c j : Nat) (x : Workgroup) (l : Tbl Workgroup) (supply : List Nat) : ∃ v rest,
    (fitWgs c supply ((j, x) :: l)).2 = (j, v) :: (fitWgs c rest l).2 ∧ v.spsize = x.spsize ∧ v.pad = x.pad := by
  rw [fitWgs]
  by_cases hc : x.core = c
  · rw [if_pos hc]
    exact ⟨_, _, rfl, rfl, rfl⟩
  · rw [if_neg hc]
    exact ⟨x, _, rfl, rfl, rfl⟩

theorem look_fitWgs (c : Nat) {g : Nat} {w : Workgroup} {l : Tbl Workgroup} (h : look g l = some w)
    (supply : List Nat) : ∃ v, look g (fitWgs c supply l).2 = some v ∧ v.spsize = w.spsize ∧ v.pad = w.pad := by
  induction l generalizing supply with
  | nil => cases h
  | cons p l ih =>
    obtain ⟨j, x⟩ := p
    obtain ⟨v, rest, hfit, hsize, hpad⟩ := fitWgs_cons c j x l supply
    rw [hfit]
    by_cases hj : j = g
    · obtain rfl : x = w := Option.some.inj ((if_pos hj).symm.trans h)
      exact ⟨v, if_pos hj, hsize, hpad⟩
    · obtain ⟨u, hu, hkept⟩ := ih ((if_neg hj).symm.trans h) rest
      exact ⟨u, (if_neg hj).trans hu, hkept⟩

theorem settlePool_look {g : Nat} {w : Workgroup} {s : State} (h : look g s.wgs = some w) (c : Nat) :
    ∃ v, look g (settlePool c s).wgs = some v ∧ v.spsize = w.spsize ∧ v.pad = w.pad := look_fitWgs c h _

@[simp] theorem settlePool_poolcfg (c : Nat) (s : State) : ((settlePool c s).core c).poolcfg = (s.core c).poolcfg := by
  simp only [settlePool, modCore_read, dropHeld, if_true]
  rfl

/-! ### POOLCFG (R191) -/

theorem l1Max_eq (c : Core) : l1Max c = c.poolcfg.toNat % 2 ^ 10 := by simp [l1Max]

theorem poolcfg_low (v m : Word) : ((v &&& 0x400) ||| (m &&& 0x3FF)).toNat % 2 ^ 10 = m.toNat % 2 ^ 10 := by
  rw [BitVec.toNat_or, BitVec.toNat_and, BitVec.toNat_and, Nat.or_mod_two_pow, Nat.and_mod_two_pow, Nat.and_mod_two_pow]
  change v.toNat % 2 ^ 10 &&& 0 ||| m.toNat % 2 ^ 10 &&& 2 ^ 10 - 1 = _
  rw [Nat.and_zero, Nat.zero_or, Nat.and_two_pow_sub_one_eq_mod, Nat.mod_mod]

/-- What a write leaves in POOLCFG: DUPEN from the value, and L1MAX of the word `m`. -/
theorem writePoolcfg_poolcfg (core : Nat) (v : Word) (s : State) :
    ((writePoolcfg core v s).core core).poolcfg = (v &&& 0x400)
      ||| ((if 32 ≤ v.toNat % 2 ^ 10 ∧ v.toNat % 2 ^ 10 ≤ 512 then v else (s.core core).poolcfg) &&& 0x3FF) := by
  have hbits : bits v.toNat 9 0 = v.toNat % 2 ^ 10 := by simp [bits]
  simp only [writePoolcfg, settlePool_poolcfg, modCore_read, if_true, hbits, Bool.and_eq_true, decide_eq_true_eq]
  split <;> rfl

theorem writePoolcfg_l1Max (core : Nat) (v : Word) (s : State) : l1Max ((writePoolcfg core v s).core core)
    = if 32 ≤ v.toNat % 2 ^ 10 ∧ v.toNat % 2 ^ 10 ≤ 512 then v.toNat % 2 ^ 10 else l1Max (s.core core) := by
  rw [l1Max_eq, writePoolcfg_poolcfg, poolcfg_low, l1Max_eq]
  split <;> rfl

theorem writePoolcfg_dupen (core : Nat) (v : Word) (s : State) :
    ((writePoolcfg core v s).core core).poolcfg.getLsbD 10 = v.getLsbD 10 := by
  simp [writePoolcfg_poolcfg]

theorem writePoolcfg_look {g : Nat} {w : Workgroup} {s : State} (h : look g s.wgs = some w) (core : Nat) (v : Word) :
    ∃ x, look g (writePoolcfg core v s).wgs = some x ∧ x.spsize = w.spsize ∧ x.pad = w.pad := settlePool_look (s := s.modCore core _) h core

/-! ### The wait list and residue (R187, R387) -/

section
variable {s : State} {core : Nat} {r : PoolReq} {t : Thread}

theorem grantDue_iff : grantDue s core t r = true ↔ (s.core core).waitList.head? = some r ∧ (s.ctx t.fn).ckpt = none ∧
    (s.ctx t.fn).clock ≤ r.since + poolLimit s t.fn core ∧ needOf s core r.scratch r.asked ≤ grantable s core := by
  simp [grantDue, and_assoc]

theorem poolGrant_grants {rest : List PoolReq} (hl : (s.core core).waitList = r :: rest)
    (ht : look r.thread s.threads = some t) (hg : grantDue s core t r = true) :
    let u := growNow r.thread t.wg r.scratch r.asked (noteOutcome r.thread t.fn 3 1
      (s.setCore core { s.core core with waitList := rest }))
    exec (.poolGrant core) s = .next (u.modThread r.thread (goOn (u.ctx t.fn).pcycle)) := by
  change execPoolGrant core s = _
  simp only [execPoolGrant, hl, ht, hg, Bool.not_true, Bool.false_eq_true, if_false]

theorem poolWaitTimeout_fails (hl : (s.core core).waitList.find? (fun q => q.thread = r.thread) = some r)
    (ht : look r.thread s.threads = some t) (hc : (s.ctx t.fn).ckpt = none)
    (hd : r.since + poolLimit s t.fn core ≤ (s.ctx t.fn).clock) (hg : grantDue s core t r = false) :
    exec (.poolWaitTimeout core r.thread) s = .next (takeTraps [⟨r.thread, growTrap r.scratch false r.asked, t.pc, t.pc⟩]
      (noteOutcome r.thread t.fn 3 2 (s.modCore core (fun c => { c with
        waitList := c.waitList.filter (fun q => q.thread != r.thread) })))) := by
  change execPoolWaitTimeout core r.thread s = _
  simp only [execPoolWaitTimeout, hl, ht, hc, hg, Nat.not_lt.mpr hd, Option.isSome_none, decide_false, Bool.or_self,
    Bool.false_eq_true, if_false]

theorem residueDrain_drains {fn : Nat} (hr : runningOn s core = some fn) (hn : (s.core core).residue ≠ [])
    (hd : (s.core core).drainAt ≤ (s.ctx fn).pcycle) : exec (.residueDrain core) s = .next ((drainOne core s).modCore core
      (fun c => { c with drainAt := c.drainAt + Config.drainPeriod })) := by
  change execResidueDrain core s = _
  simp [execResidueDrain, hr, hn, Nat.not_lt.mpr hd]
end

theorem exec_poolcfgWrite {s : State} (h : mgmtUp s = true) (core : Nat) (v : Word) :
    exec (.poolcfgWrite core v) s = .next (writePoolcfg core v s) := congrArg Host.Outcome.next (viaMgmt_up h _)

theorem exec_poolwaitWrite {s : State} (h : mgmtUp s = true) (core : Nat) (v : Word) : exec (.poolwaitWrite core v) s
    = .next (noteOutside core 0x401 (s.core core).poolwait.toNat (s.modCore core (fun c => { c with poolwait := v }))) :=
  congrArg Host.Outcome.next (viaMgmt_up h _)

/-- Settles O37: the three steps of the pool by what is due, and the two registers by what is written. -/
theorem poolSteps : Obligations.PoolSteps := by
  refine fun s core value => ⟨fun r rest t hl ht hc hd hn => ?grant,
    fun r t hl ht hc hd hg => poolWaitTimeout_fails hl ht hc hd hg,
    fun fn hr hn hd => residueDrain_drains hr hn hd, fun hup => ?poolwait, fun hup => ?poolcfg⟩
  case grant =>
    exact poolGrant_grants hl ht (grantDue_iff.mpr ⟨by rw [hl, List.head?_cons], hc, hd, hn⟩)
  case poolwait =>
    obtain ⟨hcore, hkept⟩ := noteOutside_modCore core 0x401 (s.core core).poolwait.toNat
      (fun c => { c with poolwait := value }) s
    exact ⟨_, exec_poolwaitWrite hup core value, by rw [hcore], hkept⟩
  case poolcfg =>
    refine ⟨_, exec_poolcfgWrite hup core value, rfl, rfl, fun g w h => writePoolcfg_look h core value,
      fun hlow hhigh => ?_, fun hout => ?_, writePoolcfg_dupen core value s⟩
    · rw [writePoolcfg_l1Max, if_pos ⟨hlow, hhigh⟩]
    · rw [writePoolcfg_l1Max, if_neg (by omega)]

end Sys2Proof.Machine
end

section
/-! SUPPORT. Page requests that complete, read-back, trace samples, tag errors of a slice, and what a write through the
management function does (R209, R354, R361, R362, R378, R392, R420, R425). -/

namespace Sys2Proof.Machine

/-! ### Page requests (R209) -/

/-- The threads that are parked on an entry of a die's table. -/
def parkedOn (s : State) (die entry : Nat) : List Nat :=
  (s.threads.filter (fun p => p.2.wait = some (.parked die entry))).map (·.1)

theorem mem_parkedOn {s : State} {die entry : Nat} {p : Nat × Thread} (hp : p ∈ s.threads)
    (hw : p.2.wait = some (.parked die entry)) : p.1 ∈ parkedOn s die entry :=
  List.mem_map_of_mem (List.mem_filter.mpr ⟨hp, decide_eq_true hw⟩)

/-- Once all threads that wait in some way have tried again, none waits in that way. -/
theorem foldl_tryAgain_wait {v : Wait} {l : List Nat} {s : State} (h : ∀ p ∈ s.threads, p.2.wait = some v → p.1 ∈ l) :
    ∀ p ∈ (l.foldl (fun s k => tryAgain k s) s).threads, p.2.wait ≠ some v := by
  induction l generalizing s with
  | nil => exact fun p hp hw => List.not_mem_nil (h p hp hw)
  | cons k l ih =>
    refine ih (s := tryAgain k s) (fun p hp hw => ?_)
    obtain ⟨q, hq, rfl⟩ := List.mem_map.mp hp
    by_cases hk : q.1 = k
    · rw [if_pos hk] at hw
      cases hw
    · rw [if_neg hk] at hw ⊢
      exact (List.mem_cons.mp (h q hq hw)).resolve_left hk

theorem foldl_tryAgain_dies (l : List Nat) (s : State) : (l.foldl (fun s k => tryAgain k s) s).dies = s.dies :=
  foldl_same (g := State.dies) (f := fun s k => tryAgain k s) (fun _ _ => rfl) l s

/-- Where nobody is listed at the die there is no more to do. -/
theorem foldl_retryThreads_nil {die : Nat} {s : State} (h : (s.die die).retry = []) : (s.die die).retry.foldl
    (fun s p => retryThreads die p.1 ((look p.1 (s.die die).retry).getD []) s) s = s := by rw [h]; rfl

/-- The entry leaves the table, and whoever is parked on it tries again. -/
theorem pageRequestComplete_retries {s : State} {die entry : Nat} {r : PageReq}
    (hr : look entry (s.die die).pageReqs = some r) (hnone : (s.die die).retry = []) : ∃ v : State,
      exec (.pageRequestComplete die entry) s = .next ((parkedOn s die entry).foldl (fun s k => tryAgain k s) v) ∧
      v.die die = { s.die die with pageReqs := drop entry (s.die die).pageReqs } ∧
      v.threads = s.threads ∧ v.mem = s.mem := by
  have hdie := (modDie_read s die (fun d => { d with pageReqs := drop entry d.pageReqs }) die).trans (if_pos rfl)
  change ∃ v : State, execPageRequestComplete die entry s = _ ∧ _
  rw [execPageRequestComplete, hr]
  refine ⟨_, congrArg Host.Outcome.next (foldl_retryThreads_nil ?_), hdie, rfl, rfl⟩
  rw [State.die, foldl_tryAgain_dies]
  exact (congrArg Die.retry hdie).trans hnone

theorem pageRequestComplete_frees {s : State} {die entry : Nat} {r : PageReq}
    (hr : look entry (s.die die).pageReqs = some r) (hnone : (s.die die).retry = []) : ∃ u,
      exec (.pageRequestComplete die entry) s = .next u ∧ look entry (u.die die).pageReqs = none ∧
      (∀ p ∈ u.threads, p.2.wait ≠ some (.parked die entry)) ∧ u.mem = s.mem := by
  obtain ⟨v, hv, hdie, hthreads, hmem⟩ := pageRequestComplete_retries hr hnone
  refine ⟨_, hv, ?_, foldl_tryAgain_wait (fun p hp hw => mem_parkedOn (hthreads ▸ hp) hw), ?_⟩
  · rw [State.die, foldl_tryAgain_dies, ← State.die, hdie]
    exact look_drop_same entry _
  · exact (foldl_mem (f := fun s k => tryAgain k s) (fun _ _ => rfl) _ v).trans hmem

/-! ### Read-back, trace samples and tag errors (R354, R362, R425) -/

/-- While no read is in progress a command begins one. -/
theorem rbcmdWrite_begins {s : State} (hup : mgmtUp s = true) (hn : s.rbPending = none) (value : DWord) :
    exec (.rbcmdWrite value) s = .next (match objectOwner s value with
      | some fn => { requestCkpt fn 6 s with rbPending := some ⟨s.rbAddr, value, some fn, none⟩ }
      | none => { s with rbPending := some ⟨s.rbAddr, value, none, objectNow s value⟩ }) := by
  refine congrArg Host.Outcome.next ((viaMgmt_up hup _).trans ?_)
  rw [hn]
  rfl

/-- An object of no running context is there, and is delivered with its event. -/
theorem readbackDeliver_delivers {s : State} {addr cmd : DWord} {b : List Byte}
    (h : s.rbPending = some ⟨addr, cmd, none, some b⟩) : exec .readbackDeliver s = .next (reportEvent 0 7 0
      (rbKind cmd + rbIndex cmd * 2 ^ 16) 0 { s with rbPending := none, out := s.out ++ [.hostWrite addr b] }) := by
  change execReadbackDeliver s = _
  rw [execReadbackDeliver, h]
  rfl

theorem traceSample_records {s : State} {core fn : Nat} (hr : runningOn s core = some fn)
    (hdue : sampleDue s fn core = true) (hquiet : coreQuiet s core = true) : exec (.traceSample core) s
      = .next (traceRecord fn core (traceHeader s fn core 1 1 ++ (upto 4).flatMap (slotSample s core))
        (s.modCore core (fun c => { c with sampledAt := some (s.ctx fn).pcycle }))) := by
  change execTraceSample core s = _
  simp only [execTraceSample, hr, hdue, hquiet, Bool.not_true, Bool.or_self, Bool.false_eq_true, if_false]

/-- A tag error in a set of clean lines loses nothing. -/
theorem sliceTagError_scrubs {s : State} {slice : Nat} {lines : List Nat}
    (h : ((s.slice slice).lines.filter (fun p => lines.contains p.1)).all (fun p => !p.2.dirty) = true) (set : Nat) :
    exec (.sliceTagError slice set lines) s
      = .next (countError (sliceUnit slice) true (s.modSlice slice (fun v => { v with lines := [], alloc := [] }))) := by
  have hclean : ((s.slice slice).lines.filter (fun p => lines.contains p.1)).filter (fun p => p.2.dirty) = [] :=
    List.filter_eq_nil_iff.mpr (fun p hp => by simpa using List.all_eq_true.mp h p hp)
  change execSliceTagError slice set lines s = _
  rw [execSliceTagError, hclean]
  rfl

/-! ### TRACESTAT and BARSTALL (R361, R378) -/

theorem exec_barstallWrite {s : State} (h : mgmtUp s = true) (core : Nat) (v : Word) : exec (.barstallWrite core v) s
    = .next (noteOutside core 0x400 (s.core core).barstall.toNat (s.modCore core (fun c => { c with barstall := v }))) :=
  congrArg Host.Outcome.next (viaMgmt_up h _)

theorem exec_tracestatWrite {s : State} (h : mgmtUp s = true) (fn : Nat) (v : DWord) : exec (.tracestatWrite fn v) s
    = .next (writeTracestat fn v s) := congrArg Host.Outcome.next (viaMgmt_up h _)

/-- Bit 31 is STOP, which a 1 clears; the other bits are written. -/
theorem getLsbD_writeTracestat (fn : Nat) (v : DWord) (s : State) {n : Nat} (hn : n < 64) :
    ((writeTracestat fn v s).ctx fn).tracestat.getLsbD n
      = if n = 31 then (s.ctx fn).tracestat.getLsbD n && !v.getLsbD n else v.getLsbD n := by
  have hset : (0xFFFFFFFF7FFFFFFF : DWord) = ~~~BitVec.twoPow 64 31 := by decide
  have hstop : (0x80000000 : DWord) = BitVec.twoPow 64 31 := by decide
  simp only [writeTracestat, modCtx_read, if_true, hset, hstop]
  by_cases h31 : n = 31
  · simp [h31]
  · simp [h31, hn]

/-- Each of these writes comes through the management function. -/
theorem mgmtWrite_viaMgmt (s : State) (n off : Nat) (w : Word) (v : DWord) (b : Bool) (r : ImageUse) :
    ∀ i ∈ [Instr.barstallWrite n w, .poolwaitWrite n w, .poolcfgWrite n w, .ckptintWrite n w, .tracestatWrite n v,
      .vfctlWrite n v, .vfbandWrite n w, .mgmtRegisterWrite off v, .bootcmdWrite v, .loopSetpointWrite off v,
      .rbcmdWrite v, .hypTlbinv n off b, .recordStart n v, .replayStart r b], ∃ f, exec i s = .next (viaMgmt f s) := by
  refine List.forall_iff_forall_mem.mp ?_
  repeat' apply And.intro
  all_goals exact ⟨_, rfl⟩

/-- Settles O48: each step by what is due, and a write by whether the management function answers. -/
theorem hostAndTraceSteps : Obligations.HostAndTraceSteps := by
  refine fun s => ⟨fun die entry r hr hnone => pageRequestComplete_frees hr hnone,
    fun value hup hn => rbcmdWrite_begins hup hn value, fun addr cmd b h => readbackDeliver_delivers h,
    fun core fn hr hdue hquiet => traceSample_records hr hdue hquiet,
    fun slice set lines h => sliceTagError_scrubs h set, fun core value hup => ?barstall, fun fn value hup => ?tracestat,
    fun hdown n off w v b r i hi => ?down⟩
  case barstall =>
    obtain ⟨hcore, hkept⟩ := noteOutside_modCore core 0x400 (s.core core).barstall.toNat
      (fun c => { c with barstall := value }) s
    exact ⟨_, exec_barstallWrite hup core value, by rw [hcore], hkept⟩
  case tracestat =>
    exact ⟨_, exec_tracestatWrite hup fn value, fun n hn => getLsbD_writeTracestat fn value s hn, rfl, rfl, rfl⟩
  case down =>
    obtain ⟨f, hf⟩ := mgmtWrite_viaMgmt s n off w v b r i hi
    rw [hf, viaMgmt_down hdown]

end Sys2Proof.Machine
end

section
/-! SUPPORT. FENCE, the hints PREF and LDEM, and the regions of RCLEAN and RINV (R216, R234 to R237, R241). -/

namespace Sys2Proof.Machine

/-! ### Fences -/

/-- What a FENCE waits for is over: a release's wait, or an acquire's for the thread's loads. -/
theorem fenceWait_none {ord : Nat} {t : Thread} {wait : Option Stall} {st : Stall}
    (h : (2 ≤ ord → wait = none) ∧ (ord < 2 → t.ld = 0)) :
    (if 2 ≤ ord then wait else if t.ld != 0 then some st else none) = none := by
  obtain ⟨hrelease, hacquire⟩ := h
  split
  case isTrue hord => exact hrelease hord
  case isFalse hord => simp [hacquire (Nat.lt_of_not_le hord)]

/-! ### Priorities -/

theorem tlbTake_threads (fn core va : Nat) (s : State) : (tlbTake fn core va s).threads = s.threads := by
  have ht := sectXlat_threads fn core va s
  unfold tlbTake
  split
  · rfl
  · split <;> rename_i h <;> rw [h] at ht <;> exact ht

/-- The line of a device address under a CID takes a priority in a core's L1. -/
def l1SetPrio (core pa cid : Nat) (lvl : Prio) (s : State) : State :=
  s.modCore core (fun c => { c with l1 := c.l1.map (fun l =>
    if l.line = lineOf pa && l.cid = cid then { l with prio := lvl } else l) })

/-- It takes a priority in its home slice. -/
def sliceSetPrio (pa cid : Nat) (lvl : Prio) (s : State) : State :=
  s.modSlice (sliceOf pa) (fun v => { v with lines := v.lines.map (fun p =>
    if p.1 = lineOf pa && p.2.cid = cid then (p.1, { p.2 with prio := lvl }) else p) })

/-- It takes a priority in the levels that a SCOPE of LDEM names: 1 is the L1 alone, 2 the home slice alone (R237). -/
def setPrio (scope core pa cid : Nat) (lvl : Prio) (s : State) : State :=
  let s := if scope = 2 then s else l1SetPrio core pa cid lvl s
  if scope = 1 then s else sliceSetPrio pa cid lvl s

theorem l1SetPrio_prio (core pa cid : Nat) (lvl : Prio) (s : State) :
    ∀ l ∈ ((l1SetPrio core pa cid lvl s).core core).l1, l.line = lineOf pa → l.cid = cid → l.prio = lvl := by
  rw [l1SetPrio, modCore_read, if_pos rfl, List.forall_mem_map]
  intro l _
  split
  case isTrue => exact fun _ _ => rfl
  case isFalse hother => exact fun hline hcid => absurd (by simp [hline, hcid]) hother

theorem sliceSetPrio_prio (pa cid : Nat) (lvl : Prio) (s : State) :
    ∀ p ∈ ((sliceSetPrio pa cid lvl s).slice (sliceOf pa)).lines,
      p.1 = lineOf pa → p.2.cid = cid → p.2.prio = lvl := by
  rw [sliceSetPrio, modSlice_read, if_pos rfl, List.forall_mem_map]
  intro p _
  split
  case isTrue => exact fun _ _ => rfl
  case isFalse hother => exact fun hline hcid => absurd (by simp [hline, hcid]) hother

section
variable (scope core pa cid : Nat) (lvl : Prio) (s : State)

theorem setPrio_mem : (setPrio scope core pa cid lvl s).mem = s.mem := by
  unfold setPrio; (repeat' split) <;> rfl

theorem setPrio_threads : (setPrio scope core pa cid lvl s).threads = s.threads := by
  unfold setPrio; (repeat' split) <;> rfl
end

section
variable {scope core pa cid : Nat} {lvl : Prio} {s : State}

/-- The home slice's part leaves what the L1's part has set. -/
theorem setPrio_l1 (h : scope ≠ 2) : ∀ l ∈ ((setPrio scope core pa cid lvl s).core core).l1,
    l.line = lineOf pa → l.cid = cid → l.prio = lvl := by
  unfold setPrio
  rw [if_neg h]
  split <;> exact l1SetPrio_prio core pa cid lvl s

theorem setPrio_slice (h : scope ≠ 1) : ∀ p ∈ ((setPrio scope core pa cid lvl s).slice (sliceOf pa)).lines,
    p.1 = lineOf pa → p.2.cid = cid → p.2.prio = lvl := by
  unfold setPrio
  rw [if_neg h]
  exact sliceSetPrio_prio pa cid lvl _
end

/-! ### PREF and LDEM -/

/-- The fill that PREF sends of a line which the L1 does not serve. -/
def prefetchOp (f : Fields) (k : Nat) (t : Thread) (va pa cid : Nat) : MemOp :=
  { blankOp k t with
    kind := .fill, va := BitVec.ofNat 64 va, addr := pa, cid := cid, size := 1
    bypass := mSCOPE f = 1, hint := mHINT f }

/-- PREF finds its line in the L1, which it names and which serves outside a recording or a replay. -/
def PrefHit (f : Fields) (s : State) (fn core pa cid : Nat) : Prop :=
  mSCOPE f = 0 ∧ recMode s fn = 0 ∧ (l1Find (lineOf pa) cid (s.core core).l1).isSome = true

section
variable {x : Issue} {f : Fields} {va pa cid : Nat}
  (hva : addrOf (nth 0 0 x.src) (nth 0 1 x.src) (mSCALE f) (dispOf f) = va)
include hva

theorem Issue.Of.pref_none (h : x.Of (.pref f)) (hh : accessHold x.t 0 = none)
    (hq : quietAccess x.s x.t x.k va = none) : exec (.pref f) x.s = .next (x.done [] x.s) :=
  h.done rfl rfl (by simp only [hva, hh, hq])

theorem Issue.Of.pref_hit (h : x.Of (.pref f)) (hh : accessHold x.t 0 = none)
    (hq : quietAccess x.s x.t x.k va = some (pa, cid))
    (hhit : PrefHit f (tlbTake x.t.fn x.core va x.s) x.t.fn x.core pa cid) :
    exec (.pref f) x.s
      = .next (x.done [] (l1Hinted x.core pa cid (mHINT f) (tlbTake x.t.fn x.core va x.s))) := by
  refine h.done rfl rfl ?_
  simp only [hva, hh, hq]
  refine if_pos ?_
  simp only [Bool.and_eq_true, decide_eq_true_eq, and_assoc]
  exact hhit

theorem Issue.Of.pref_miss (h : x.Of (.pref f)) (hh : accessHold x.t 0 = none)
    (hq : quietAccess x.s x.t x.k va = some (pa, cid))
    (hmiss : ¬ PrefHit f (tlbTake x.t.fn x.core va x.s) x.t.fn x.core pa cid) :
    exec (.pref f) x.s
      = .next (x.done [] (pushOp (prefetchOp f x.k x.t va pa cid) (tlbTake x.t.fn x.core va x.s))) := by
  refine h.done rfl rfl ?_
  simp only [hva, hh, hq]
  refine if_neg ?_
  simp only [Bool.and_eq_true, decide_eq_true_eq, and_assoc]
  exact hmiss

theorem Issue.Of.ldem_none (h : x.Of (.ldem f)) (hq : quietAccess x.s x.t x.k va = none) :
    exec (.ldem f) x.s = .next (x.done [] x.s) :=
  h.done rfl rfl (by simp only [hva, hq])

theorem Issue.Of.ldem_found (h : x.Of (.ldem f)) (hq : quietAccess x.s x.t x.k va = some (pa, cid)) :
    exec (.ldem f) x.s = .next (x.done [] (setPrio (mSCOPE f) x.core pa cid
      (if mHINT f = 1 then .first else .normal) (tlbTake x.t.fn x.core va x.s))) := by
  refine h.done rfl rfl ?_
  simp only [hva, hq]
  rfl
end

/-! ### Regions -/

/-- A region that ends within the address space. -/
theorem regionOf_inside {f : Fields} {l : List Nat} (h : addrOf (nth 0 0 l) 0 0 (dispOf f) + nth 0 1 l ≤ 2 ^ 57) :
    regionOf f l = .inr (addrOf (nth 0 0 l) 0 0 (dispOf f),
      if inAperture (addrOf (nth 0 0 l) 0 0 (dispOf f)) then 0 else nth 0 1 l) :=
  if_neg (Nat.not_lt.mpr h)

/-- A core without operations in flight has none of any kind. -/
theorem any_ofCore_false {s : State} {core : Nat} (h : ∀ o ∈ s.ops, o.core ≠ core) (p : MemOp → Bool) :
    s.ops.any (fun o => o.core = core && p o) = false := by
  simp only [List.any_eq_false]
  intro o ho
  simp [h o ho]

/-- Settles O18: what each instruction waits for, and whether it finds its line, select a branch of its body; LDEM's sets
the priority in each level by itself. -/
theorem fencesAndHints : Obligations.FencesAndHints := by
  intro f x
  dsimp only
  refine ⟨fun h hwait => h.done rfl rfl ?fence, fun h hst => h.done rfl rfl ?fenceCode,
    fun h hh hq => h.pref_none rfl hh hq,
    fun h hh pa cid hq => ⟨fun hhit => h.pref_hit rfl hh hq hhit, fun hmiss =>
      ⟨prefetchOp f x.k x.t (addrOf x.a x.b (mSCALE f) (dispOf f)) pa cid, rfl, rfl, rfl, rfl, rfl, rfl, rfl, rfl, rfl,
        h.pref_miss rfl hh hq hmiss⟩⟩,
    fun h hq => h.ldem_none rfl hq,
    fun h pa cid hq => ⟨_, h.ldem_found rfl hq, (setPrio_mem ..).trans (tlbTake_mem ..),
      (setPrio_threads ..).trans (tlbTake_threads ..), setPrio_l1, setPrio_slice⟩,
    fun h hin hops => h.done rfl rfl ?rclean, fun h hin hld => h.done rfl rfl ?rinv⟩
  case fence =>
    simp only [fenceWait_none hwait]
    simp only [Bool.and_eq_true, decide_eq_true_eq, bne_iff_ne]
    rfl
  case fenceCode =>
    simp only [hst, bne_self_eq_false, Bool.false_eq_true, if_false]
    rfl
  case rclean =>
    simp only [regionOf_inside hin, Bool.and_assoc, any_ofCore_false (core := coreOf x.k) hops,
      Bool.false_eq_true, if_false]
    rfl
  case rinv =>
    simp only [regionOf_inside hin, hld, bne_self_eq_false, Bool.false_eq_true, if_false]
    rfl

end Sys2Proof.Machine
end

section
/-! SUPPORT. ATOM, ACAS and RED to device memory (R226, R229, R230, R232). -/

namespace Sys2Proof.Machine

/-- No OP code of an atomic is a store (R228). -/
theorem atomKind_ne_store (op : Nat) : atomKind op ≠ .store := by
  unfold atomKind
  repeat' split
  all_goals decide

/-- An ORD below 2 releases nothing (R215). -/
theorem atomRelease_none {f : Fields} (h : mORD f < 2) : atomRelease f = none := if_neg (Nat.not_le.mpr h)

/-- A write to device memory that is no store leaves the L1 and its banks alone, and is sent to the home slice. -/
theorem issueDev_sent {o : MemOp} {va : Nat} {t : Thread} {s : State} (hk : o.kind ≠ .store) (hv : o.va.toNat = va)
    (hf : undoFull s o.fn o.addr = false) :
    issueDev o t s = .done [] (send o t (tlbTake o.fn o.core va s)) := by
  have hbanks : banksBusy s o.thread [] = false := rfl
  have huse : useBanks o.thread [] s = s := rfl
  simp only [issueDev, if_neg hk, hv, hf, hbanks, huse, Bool.false_eq_true, if_false]

/-- An atomic to device memory that releases nothing, passes its checks and has room in the undo log is sent. -/
theorem issueWrite_atom {f : Fields} {k va b swap cls pa cid : Nat} {t : Thread} {kind : OpKind} {need : Need}
    {s : State} (hva : va < 2 ^ 64) (hk : kind ≠ .store) (hord : mORD f < 2) (hh : accessHold t cls = none)
    (hc : checkAccess s t.fn (coreOf k) t.wg need va (atomWidth (mTY f) / 8) = .dev pa cid)
    (hf : undoFull s t.fn pa = false) :
    issueWrite (atomOp f k t kind va b swap cls) t need (atomRelease f) s
      = .done [] (send { atomOp f k t kind va b swap cls with addr := pa, cid := cid } t
          (tlbTake t.fn (coreOf k) va s)) := by
  have hv : (atomOp f k t kind va b swap cls).va.toNat = va := Nat.mod_eq_of_lt hva
  rw [atomRelease_none hord]
  exact (issueWrite_dev hh hv hc).trans (issueDev_sent hk hv hf)

/-- Settles O17: each of the three is a write of its `atomOp`, which is no store. -/
theorem atomics : Obligations.Atomics := by
  intro f x i kind va swap cls need hi h hord hh pa cid hc hf
  obtain ⟨G, bd, hG, he, hb, hva, hk⟩ : ∃ G bd, programForm i = some G ∧ exec i x.s = answer G bd x.s ∧
      bd x.k x.t x.src x.s
        = issueWrite (atomOp f x.k x.t kind va x.b swap cls) x.t need (atomRelease f) x.s ∧
      va < 2 ^ 64 ∧ kind ≠ .store := by
    obtain ⟨rfl, rfl, rfl, rfl, rfl, rfl⟩ | ⟨rfl, rfl, rfl, rfl, rfl, rfl⟩ | ⟨rfl, rfl, rfl, rfl, rfl, rfl⟩ := hi
    · exact ⟨_, _, rfl, rfl, rfl, addrOf_lt .., atomKind_ne_store _⟩
    · exact ⟨_, _, rfl, rfl, rfl, addrOf_lt .., atomKind_ne_store _⟩
    · exact ⟨_, _, rfl, rfl, rfl, addrOf_lt .., by decide⟩
  exact h.done hG he (hb.trans (issueWrite_atom hva hk hord hh hc hf))

end Sys2Proof.Machine
end

section
/-! SUPPORT. Pushing a command into its queue (R245, R250, R301), and the instructions that push one: ACP, CPY, TKPOP,
TKDONE, NPUT, NGET and NSIG (R303, R306, R321, R322, R414). -/

namespace Sys2Proof.Machine

/-! ### Pushing -/

section
variable {q : QRef} {c : Cmd} {s : State} {ceiling : Option (Nat × Nat)}
  (hslot : ∀ m, c.slot = some m → slotState s (queueCohort s q) m ≠ 0) (hceil : ∀ p ∈ ceiling, p.1 < 63)
  (hroom : queueFull s q = false)
include hslot hceil hroom

/-- Nothing holds a command whose guard slot is not FREE, whose counter is below its ceiling and whose queue has room. -/
theorem pushHold_none : pushHold s q c ceiling = none := by
  have hfree : c.slot.any (fun n => slotState s (queueCohort s q) n = 0) = false := by
    simpa only [Option.any_eq_false, decide_eq_false_iff_not] using hslot
  cases ceiling with
  | none => simp only [pushHold, hfree, hroom, Bool.false_eq_true, if_false]
  | some p =>
    have hbelow : ¬ 63 ≤ p.1 := Nat.not_le.mpr (hceil p rfl)
    simp only [pushHold, hfree, hroom, hbelow, Bool.false_eq_true, if_false]

theorem pushOr_enters (also : State → State) : pushOr q c ceiling also s = .done [] (also (enqueue q c s)) := by
  rw [pushOr, pushHold_none hslot hceil hroom]
end

/-! ### What an instruction looks at before it pushes -/

/-- ACP pushes where none of the traps of R303 applies. -/
theorem acpBody_pushes {f : Fields} {t : Thread} {l : List Nat} {s : State} {src : Nat} (k : Nat)
    (hsrc : wrapNat 64 ((nth 0 0 l : Nat) + ext1Disp f) = src) (hin : src < 2 ^ 57) (hdev : inAperture src = false)
    (hpad : inAperture (nth 0 1 l) = true) (hword : src % 4 = 0) (hplace : nth 0 1 l % acpLen f.mod = 0)
    (hlen : nth 0 2 l ≤ acpLen f.mod) :
    acpBody f k t l s = pushOr (.cp1 t.wg)
      { newCmd f 0x280 k t s with
        va := BitVec.ofNat 64 (nth 0 0 l), vb := BitVec.ofNat 64 (nth 0 1 l), vc := BitVec.ofNat 64 (nth 0 2 l) }
      (some (max t.cp (nth 0 (mTAGN f) t.tags), 6))
      (fun s => s.modThread k (fun t => { t with
        cp := t.cp + 1, tags := setNth (nth 0 (mTAGN f) t.tags + 1) (mTAGN f) t.tags })) s := by
  simp only [acpBody, hsrc, Nat.not_le.mpr hin, hdev, hpad, hword, hplace, Nat.not_lt.mpr hlen, decide_false,
    Bool.or_self, Bool.not_true, bne_self_eq_false, Bool.false_eq_true, if_false]

theorem bindingOf_eq {s : State} {g : Nat} {w : Workgroup} (hw : look g s.wgs = some w) (n : Nat) :
    bindingOf s g n = boundQueue w n := by rw [bindingOf, hw, Option.bind_some]

/-- Settles O26: each of the seven comes to a push, under its counter's ceiling if it has a counter, and nothing holds the
push. -/
theorem commandPushes : Obligations.CommandPushes := by
  intro f x i q c n also base d hi h hslot hn hroom
  obtain ⟨G, bd, ceiling, hG, he, hpush, hceil⟩ : ∃ G bd ceiling, programForm i = some G ∧ exec i x.s = answer G bd x.s ∧
      bd x.k x.t x.src x.s = pushOr q c ceiling also x.s ∧ ∀ p ∈ ceiling, p.1 < 63 := by
    have hnone : ∀ p ∈ (none : Option (Nat × Nat)), p.1 < 63 := nofun
    have hcounter : ∀ p ∈ some (n, 6), p.1 < 63 := by simpa using hn
    obtain ⟨rfl, rfl, ⟨hin, hdev, hpad, hword, hplace, hlen⟩, rfl, rfl, rfl⟩ | ⟨rfl, rfl, rfl, rfl, rfl⟩ |
      ⟨key, rfl, rfl, hkey, rfl, rfl, rfl⟩ | hi | hi | hi | hi := hi
    · exact ⟨_, _, _, rfl, rfl, acpBody_pushes x.k rfl hin hdev hpad hword hplace hlen, hcounter⟩
    · exact ⟨_, _, _, rfl, rfl, rfl, hcounter⟩
    · refine ⟨_, _, none, rfl, rfl, ?_, hnone⟩
      simp only [bindingOf_eq h.2.workgroup, hkey]
      rfl
    all_goals
      obtain ⟨rfl, rfl, rfl, rfl, rfl⟩ := hi
      exact ⟨_, _, _, rfl, rfl, rfl, hnone⟩
  exact h.done hG he (hpush.trans (pushOr_enters hslot hceil hroom also))

end Sys2Proof.Machine
end

section
/-! SUPPORT. TAGW, WAIT, WPTR, QFENCE, GUARD and GRES (R250, R253, R254, R257, R304, R305, R307, R316 to R318). -/

namespace Sys2Proof.Machine

/-- No ACP of the thread has failed. -/
theorem copiesSeen_of_latch_none {t : Thread} (h : t.latch = none) (k : Nat) (useLatch acquire : Bool) (s : State) :
    copiesSeen k t useLatch acquire s = .done [] (if acquire then l1Acquire (coreOf k) s else s) := by
  rw [copiesSeen, h]

/-! ### Outcomes outside a recording and a replay -/

section
variable {s : State} {fn : Nat} (h : recMode s fn = 0)
include h

theorem loggedOutcome_of_plain (k kind : Nat) : loggedOutcome s k fn kind = none := by simp [loggedOutcome, h]

theorem noteOutcome_of_plain (k kind value : Nat) : noteOutcome k fn kind value s = s := by
  simp [noteOutcome, orderPoint, h]
end

/-- The two halves of a write pointer make up its value. -/
theorem wptrValue_of_plain {s : State} {t : Thread} (h : recMode s t.fn = 0) (k v : Nat) : wptrValue k t v s = (v, s) := by
  simp only [wptrValue, loggedOutcome_of_plain h, noteOutcome_of_plain h, Option.getD_none, Nat.mod_add_div]

/-! ### Guard slots -/

theorem slotOfThread_eq {s : State} {t : Thread} {w : Workgroup} (hw : look t.wg s.wgs = some w) (n : Nat) :
    slotOfThread s t n = (w.cohort, slotState s w.cohort n) := by
  simp only [slotOfThread, hw, Option.map_some, Option.getD_some]

/-- A slot that is FREE or OPEN, or that no command standing in a queue names, may be opened. -/
theorem slotBusy_eq_false {v n : Nat} {l : List Cmd} (h : v < 2 ∨ ∀ y ∈ l, y.slot ≠ some n) :
    (decide (2 ≤ v) && l.any (fun y => y.slot = some n)) = false := by
  obtain hv | hl := h
  · rw [decide_eq_false (Nat.not_le.mpr hv), Bool.false_and]
  · have hnone : l.any (fun y => y.slot = some n) = false := by simpa using hl
    rw [hnone, Bool.and_false]

/-- Settles O30: the hypotheses of each clause select the branch of the instruction's body in which it completes. -/
theorem queueControl : Obligations.QueueControl := by
  intro f x
  dsimp only
  refine ⟨fun h htag hlatch => h.done rfl rfl ?tagw, fun h hld hst hcp htl hlatch => h.done rfl rfl ?wait,
    fun h hmode => h.done rfl rfl ?wptr, fun h hroom => h.done rfl rfl ?qfence, fun h hfree => h.done rfl rfl ?guard,
    fun h => ⟨fun hslot => h.trap rfl rfl ?shut, fun hslot => h.done rfl rfl ?gres⟩⟩
  case tagw =>
    simp only [Nat.not_lt.mpr htag, if_false, copiesSeen_of_latch_none hlatch, if_true]
    rfl
  case wait =>
    simp only [Nat.not_lt.mpr hld, Nat.not_lt.mpr hst, Nat.not_lt.mpr hcp, Nat.not_lt.mpr htl, if_false,
      copiesSeen_of_latch_none hlatch, Bool.or_eq_true, decide_eq_true_eq]
    rfl
  case wptr =>
    simp only [h.2.workgroup, Option.map_some, Option.getD_some, wptrValue_of_plain hmode]
    rfl
  case qfence =>
    have hany : (fenceQueues f x.t.wg x.w).any (queueFull x.s) = false := List.any_eq_false.mpr (by simpa using hroom)
    simp only [h.2.workgroup, hany, Bool.false_eq_true, if_false]
    rfl
  case guard =>
    simp only [slotOfThread_eq h.2.workgroup, slotBusy_eq_false hfree, Bool.false_eq_true, if_false]
  case shut =>
    simp only [slotOfThread_eq h.2.workgroup, bne_iff_ne.mpr hslot, if_true]
  case gres =>
    simp only [slotOfThread_eq h.2.workgroup, hslot, bne_self_eq_false, Bool.false_eq_true, if_false]

end Sys2Proof.Machine
end

section
/-! SUPPORT. The head command of a queue: what it comes to where it may begin (R246, R254, R352). -/

namespace Sys2Proof.Machine

section
variable {s : State} {q : QRef} {c : Cmd}

/-- A command that may begin has not begun. -/
theorem goesOn_eq_false_of_mayBegin (h : mayBegin s q c = true) : goesOn s q c = false := by
  simp only [mayBegin, Bool.and_eq_true, Bool.not_eq_true', and_assoc] at h
  obtain ⟨-, -, -, hbegun, -⟩ := h
  simp only [goesOn, hbegun, Bool.false_and]

/-- A head command that may begin and that no OPEN slot holds is discarded, waits for its unit, or runs. -/
theorem beginHead_of_mayBegin {rest : List Cmd} {op : Nat} (hq : queueOf s q = c :: rest) (hop : c.op = op)
    (hmay : mayBegin s q c = true) (hheld : guardHeld s q c = false) (go : Cmd → State → State) :
    beginHead q op go s
      = if discarded s q c then doneHead q 1 0 s else if unitReady s q then go c s else claimHead q s := by
  simp only [beginHead, hq, hop, goesOn_eq_false_of_mayBegin hmay, hmay, hheld, bne_self_eq_false, Bool.and_false,
    Bool.not_true, Bool.or_self, Bool.false_eq_true, if_false]
  cases unitReady s q <;> rfl
end

/-- Settles O38: each of these steps runs the head of its queue under its opcode, and then goes on with what has begun. -/
theorem engineCommands : Obligations.EngineCommands := by
  intro s g i q op run after hi c rest hq hop hmay hheld
  have hstep : exec i s = .next (after (beginHead q op run s)) := by
    obtain h | ⟨ch, n, h⟩ | h | h | h | h | h | h | h | h | h | h | h | h | h | h | h | h | h := hi
    all_goals
      obtain ⟨rfl, rfl, rfl, rfl, rfl⟩ := h
      rfl
  rw [hstep, beginHead_of_mayBegin hq hop hmay hheld run]

end Sys2Proof.Machine
end

section
/-! SUPPORT. Fused commands (R283, R343), and the end of a command (R246 to R248, R250, R253, R304). -/

namespace Sys2Proof.Machine

/-! ### Fused commands -/

/-- The head of a cohort's MX queue that is ready for a fusion is a fused command. -/
theorem fused_of_readyFused {s : State} {g fuse : Nat} {c : Cmd} (hq : (queueOf s (.mx g)).head? = some c)
    (h : (readyFused s g fuse).isSome = true) : c.fused = true := by
  obtain ⟨rest, hrest⟩ := List.head?_eq_some_iff.mp hq
  simp only [readyFused, hrest] at h
  by_contra hc
  simp [hc] at h

/-- The head command `c` of cohort `g`'s MX queue is a fused command that looks for its partners now. -/
structure Joins (s : State) (g : Nat) (c : Cmd) : Prop where
  head : (queueOf s (.mx g)).head? = some c
  fused : c.fused = true
  unheld : guardHeld s (.mx g) c = false
  kept : discarded s (.mx g) c = false
  runs : engineOn s (queueFn s (.mx g)) = true
  goes : c.begun = true ∨ ckptLets s (.mx g) c = true

/-- The state in which a fused command has found its partner quadrants held. -/
def joinSeen (g : Nat) (s : State) : State := modHead (.mx g) (fun c => { c with progress := 1 }) s

section
variable {s : State} {g : Nat} {c : Cmd} (h : Joins s g c)
include h

theorem Joins.passes : (!c.fused || !engineOn s (queueFn s (.mx g)) || guardHeld s (.mx g) c || discarded s (.mx g) c
    || !(c.begun || ckptLets s (.mx g) c)) = false := by
  have hgoes : (c.begun || ckptLets s (.mx g) c) = true := (Bool.or_eq_true _ _).mpr h.goes
  simp only [h.fused, h.unheld, h.kept, h.runs, hgoes, Bool.not_true, Bool.or_self]

/-- A partner quadrant is not held when the command comes to its head: all that are there end BADDESC. -/
theorem Joins.partner_missing (hfirst : c.progress = 0) (hbegun : c.begun = false)
    (hheld : (partnersHeld s g c.fuse).length < (partners (cohortSect s g) c.fuse).length) :
    exec (.fusedCommandJoin g) s = .next (((partnersHeld s g c.fuse).filter (involved s c.fuse)).foldl
      (fun s x => doneHead (.mx x.2) 5 0 s) (doneHead (.mx g) 5 0 s)) := by
  have hmissing : (decide (c.progress = 0) && !c.begun
      && decide ((partnersHeld s g c.fuse).length < (partners (cohortSect s g) c.fuse).length)) = true := by
    simp only [hfirst, hbegun, hheld, decide_true, Bool.not_false, Bool.and_self]
  change execFusedCommandJoin g s = _
  simp only [execFusedCommandJoin, h.head, h.passes, hmissing, Bool.false_eq_true, if_false, if_true]

/-- All partners are at the heads of their queues: they run together where they agree, and end BADDESC otherwise. -/
theorem Joins.partners_ready (hheld : (partners (cohortSect s g) c.fuse).length ≤ (partnersHeld s g c.fuse).length)
    (hready : (partners (cohortSect s g) c.fuse).length ≤ (readyParts (joinSeen g s) g c.fuse).length)
    (hunits : ∀ x ∈ readyParts (joinSeen g s) g c.fuse, unitReady (joinSeen g s) (.mx x.2.cohort) = true) :
    exec (.fusedCommandJoin g) s = .next (
      if (readyParts (joinSeen g s) g c.fuse).all (fun x => sameFused x.2.cmd c) then
        runAllJoined (readyParts (joinSeen g s) g c.fuse) (joinSeen g s)
      else (readyParts (joinSeen g s) g c.fuse).foldl (fun s x => doneHead (.mx x.2.cohort) 5 0 s) (joinSeen g s)) := by
  change execFusedCommandJoin g s = _
  unfold joinSeen at hready hunits ⊢
  simp only [execFusedCommandJoin, h.head, h.passes, Nat.not_lt.mpr hheld, Nat.not_lt.mpr hready,
    List.all_eq_true.mpr hunits, decide_false, Bool.and_false, Bool.not_true, Bool.false_eq_true, if_false]
  exact (apply_ite Host.Outcome.next _ _ _).symm
end

/-! ### COMMAND_COMPLETE -/

section
variable {s : State} {q : QRef} {c : Cmd} {rest : List Cmd} (hq : queueOf s q = c :: rest)
  (hon : engineOn s (queueFn s q) = true)
include hq hon

theorem commandComplete_fence {n : Nat} (hf : c.fence = some n) : exec (.commandComplete q) s
    = .next (reapOwners (.mx (queueCohort s q)) (leaveFence s n (queuesOfCohort s (queueCohort s q)))) := by
  change execCommandComplete q s = _
  simp only [execCommandComplete, hq, hon, hf, Bool.not_true, Bool.false_eq_true, if_false]

/-- A command that is done leaves with its word where its completion queue has room, and stays otherwise. -/
theorem commandComplete_done {status value : Nat} (hf : c.fence = none) (hd : c.done = some (status, value)) :
    exec (.commandComplete q) s = .next (if cqFull s q c then s
      else reapOwners q (latchAcp c status (leaveCounters c (pushWord q c status value
        (modQueueOf q (fun _ => rest) (unitMoved q s)))))) := by
  change execCommandComplete q s = _
  simp only [execCommandComplete, hq, hon, hf, hd, Bool.not_true, Bool.false_eq_true, if_false]
  exact (apply_ite Host.Outcome.next _ _ _).symm
end

/-- Settles O39: a fused command by what its partners have come to, and a head command by whether it is a fence's entry
or is done. -/
theorem fusedAndDoneCommands : Obligations.FusedAndDoneCommands := by
  refine ⟨fun s g c hq hready hheld hdisc hon hgoes => ?fused, fun s q c rest hq hon => ⟨fun n hf => ?fence,
    fun hf status value hd => ⟨fun hfull => ?stays, fun hroom => ?leaves⟩⟩⟩
  case fused =>
    have hj : Joins s g c := ⟨hq, fused_of_readyFused hq hready, hheld, hdisc, hon, hgoes⟩
    refine ⟨hj.partner_missing, fun hn hl hunits => ⟨fun hsame => ?_, fun ⟨x, hx, hdiff⟩ => ?_⟩⟩
    · exact (hj.partners_ready hn hl hunits).trans (congrArg _ (if_pos (List.all_eq_true.mpr hsame)))
    · refine (hj.partners_ready hn hl hunits).trans (congrArg _ (if_neg fun hall => ?_))
      exact Bool.false_ne_true (hdiff.symm.trans (List.all_eq_true.mp hall x hx))
  case fence => exact commandComplete_fence hq hon hf
  case stays => exact (commandComplete_done hq hon hf hd).trans (congrArg _ (if_pos hfull))
  case leaves => exact (commandComplete_done hq hon hf hd).trans (congrArg _ (if_neg (by simp [hroom])))

end Sys2Proof.Machine
end
section
/-! SUPPORT. Operations that leave device memory and the boot store as they are: fetching, the driver, waits and the parts
of a thread's own instructions. -/

namespace Sys2Proof.Machine

/-- Device memory and the boot store of `t` are those of `s`. -/
@[simp, reducible] def Leaves (s t : State) : Prop := t.mem = s.mem ∧ t.boot = s.boot

theorem Leaves.keeps {s t : State} (h : Leaves s t) : Keeps s t := .of_eq h.1 h.2

theorem leaves_foldl {α : Type} {f : State → α → State} (h : ∀ s x, Leaves s (f s x)) (l : List α) (s : State) :
    Leaves s (l.foldl f s) := foldl_kept (fun s x => (h s x).1) (fun s x => (h s x).2) l s

/-! ### Fetching (R24 to R28, R145) -/

@[simp] theorem l1Hinted_leaves (c pa cid hint : Nat) (s : State) : Leaves s (l1Hinted c pa cid hint s) := ⟨rfl, rfl⟩
@[simp] theorem foreignFill_leaves (fn : Nat) (x : Nat × Nat) (s : State) : Leaves s (foreignFill fn x s) :=
  ⟨rfl, rfl⟩
@[simp] theorem deliverWords_leaves (stream : Bool) (ws : List CodeWord) (s : State) (k : Nat) :
    Leaves s (deliverWords stream ws s k) := ⟨rfl, rfl⟩
@[simp] theorem holdWords_leaves (k : Nat) (stream : Bool) (ws : List CodeWord) (s : State) :
    Leaves s (holdWords k stream ws s) := ⟨rfl, rfl⟩
@[simp] theorem fetchWord_leaves (core fn va : Nat) (s : State) : Leaves s (fetchWord core fn va s).2 := by
  unfold fetchWord; dsimp only; (repeat' split) <;> simp
@[simp] theorem takeWord_leaves (core fn : Nat) (held : List CodeWord) (va : Nat) (s : State) :
    Leaves s (takeWord core fn held va s).2 := by
  unfold takeWord; split <;> simp
@[simp] theorem takeWords_leaves (core fn : Nat) (held : List CodeWord) (n va : Nat) (s : State) :
    Leaves s (takeWords core fn held n va s).2 := by
  induction n generalizing va s with
  | zero => exact ⟨rfl, rfl⟩
  | succ n ih =>
    have hword := takeWord_leaves core fn held va s
    unfold takeWords
    generalize takeWord core fn held va s = w at hword ⊢
    obtain ⟨x | w, u⟩ := w
    · exact hword
    · have hrest := ih (va + 8) u
      dsimp only
      generalize takeWords core fn held n (va + 8) u = r at hrest ⊢
      obtain ⟨x | l, v⟩ := r <;> exact ⟨hrest.1.trans hword.1, hrest.2.trans hword.2⟩
@[simp] theorem takeInstr_leaves (core fn : Nat) (held : List CodeWord) (pc : Nat) (s : State) :
    Leaves s (takeInstr core fn held pc s).2 := by
  have hword := takeWord_leaves core fn held pc s
  unfold takeInstr
  generalize takeWord core fn held pc s = w at hword ⊢
  obtain ⟨x | w, u⟩ := w
  · exact hword
  · exact takeWords_leaves ..
@[simp] theorem pathInstr_leaves (k fn : Nat) (stream : Bool) (pc : Nat) (s : State) :
    Leaves s (pathInstr k fn stream pc s).2 := by simp [pathInstr]
@[simp] theorem fetchInstr_leaves (k fn pc : Nat) (s : State) : Leaves s (fetchInstr k fn pc s).2 := by
  have hpath := pathInstr_leaves k fn (onStream s k pc) pc s
  unfold fetchInstr
  dsimp only
  generalize pathInstr k fn (onStream s k pc) pc s = p at hpath ⊢
  obtain ⟨x | l, u⟩ := p <;> exact hpath
@[simp] theorem fetchOthers_leaves (fn pc : Nat) (w : Sum (Nat × Xlat) (List DWord)) (ks : List Nat) (s : State) :
    Leaves s (fetchOthers fn pc w ks s).2 := by
  induction ks generalizing s with
  | nil => exact ⟨rfl, rfl⟩
  | cons k ks ih => unfold fetchOthers; simp [ih]
@[simp] theorem fetchBundle_leaves (t : Thread) (ks : List Nat) (s : State) : Leaves s (fetchBundle t ks s).2 := by
  cases ks <;> simp [fetchBundle]
@[simp] theorem readRun_leaves (k fn : Nat) (stream : Bool) (n pc : Nat) (s : State) :
    Leaves s (readRun k fn stream n pc s) := by
  induction n generalizing pc s with
  | zero => exact ⟨rfl, rfl⟩
  | succ n ih =>
    have hpath := pathInstr_leaves k fn stream pc s
    unfold readRun
    split
    · exact ⟨rfl, rfl⟩
    · generalize pathInstr k fn stream pc s = p at hpath ⊢
      obtain ⟨x | l, u⟩ := p
      · exact ⟨rfl, rfl⟩
      · dsimp only at hpath ⊢
        split <;> simp [ih, hpath.1, hpath.2]
@[simp] theorem readAhead_leaves (k n : Nat) (s : State) : Leaves s (readAhead k n s) := by
  unfold readAhead; (repeat' split) <;> simp
@[simp] theorem splitCores_leaves (s : State) : Leaves s (splitCores s) := ⟨rfl, rfl⟩

/-! ### Threads, traps and waits -/

@[simp] theorem accountAll_leaves (old : Tbl Thread) (s : State) : Leaves s (accountAll old s) :=
  by simp [accountAll, foldl_mem, foldl_boot]
@[simp] theorem noteSwr_leaves (fn reg core : Nat) (thread : Option Nat) (old : Nat) (s : State) :
    Leaves s (noteSwr fn reg core thread old s) := ⟨rfl, rfl⟩
@[simp] theorem noteDue_leaves (k fn : Nat) (s : State) : Leaves s (noteDue k fn s) :=
  by unfold noteDue; split <;> simp
@[simp] theorem reportEvent_leaves (fn kind code : Nat) (queue index : Nat) (s : State) :
    Leaves s (reportEvent fn kind code queue index s) := ⟨rfl, rfl⟩
@[simp] theorem joinLoad_leaves (k : Nat) (load : Option Nat) (s : State) : Leaves s (joinLoad k load s) :=
  by unfold joinLoad; split <;> simp
@[simp] theorem trapAll_leaves (r : TrapReq) (s : State) : Leaves s (trapAll r s) := by simp [trapAll]
@[simp] theorem trapEncoding_leaves (len : Nat) (r : TrapReq) (s : State) : Leaves s (trapEncoding len r s) := by
  have hfold := leaves_foldl (f := fun s k => s.modThread k (reportNext len)) (fun _ _ => ⟨rfl, rfl⟩) s.issue s
  simp [trapEncoding, hfold.1, hfold.2]
@[simp] theorem loadOver_leaves (o : MemOp) (s : State) : Leaves s (loadOver o s) := by
  unfold loadOver; exact leaves_foldl (fun _ _ => by exact ⟨rfl, rfl⟩) _ _
@[simp] theorem expect_leaves (k : Nat) (t : Thread) (dst regs : Nat) (td : Bool) (s : State) :
    Leaves s (expect k t dst regs td s) := by unfold expect; split <;> simp
@[simp] theorem send_leaves (o : MemOp) (t : Thread) (s : State) : Leaves s (send o t s) :=
  by unfold send; split <;> simp
@[simp] theorem growNow_leaves (k wg : Nat) (scratch : Bool) (asked : Nat) (s : State) :
    Leaves s (growNow k wg scratch asked s) := by unfold growNow; split <;> simp
@[simp] theorem writePoolcfg_leaves (core : Nat) (v : Word) (s : State) : Leaves s (writePoolcfg core v s) :=
  ⟨rfl, rfl⟩
@[simp] theorem setImageThreads_leaves (fn : Nat) (threads : Tbl Thread) (s : State) :
    Leaves s (setImageThreads fn threads s) := ⟨rfl, rfl⟩
@[simp] theorem modBar_leaves (g n : Nat) (f : Barrier → Barrier) (s : State) : Leaves s (s.modBar g n f) := ⟨rfl, rfl⟩
@[simp] theorem beginWait_leaves (t : Thread) (n : Nat) (s : State) : Leaves s (beginWait t n s) := by
  unfold beginWait; split <;> simp
@[simp] theorem deliver_leaves (c : Collective) (s : State) (a : Arrival) : Leaves s (deliver c s a) :=
  by unfold deliver; (repeat' split) <;> simp
@[simp] theorem collDrop_leaves (wg warp lane clock : Nat) (s : State) : Leaves s (collDrop wg warp lane clock s) := by
  unfold collDrop
  split
  · exact ⟨rfl, rfl⟩
  · exact leaves_foldl (fun _ _ => by split <;> simp [foldl_mem, foldl_boot]) _ _
@[simp] theorem settleHarvest_leaves (wg n : Nat) (s : State) : Leaves s (settleHarvest wg n s) :=
  by unfold settleHarvest; (repeat' split) <;> simp
@[simp] theorem wakeIdle_leaves (wg : Nat) (s : State) : Leaves s (wakeIdle wg s) := ⟨rfl, rfl⟩
@[simp] theorem wakeEvents_leaves (wg n : Nat) (s : State) : Leaves s (wakeEvents wg n s) := ⟨rfl, rfl⟩
@[simp] theorem taskDone_leaves (q : Nat) (s : State) : Leaves s (taskDone q s) := ⟨rfl, rfl⟩
@[simp] theorem wakeQueue_leaves (q : Nat) (s : State) : Leaves s (wakeQueue q s) :=
  by unfold wakeQueue; split <;> simp [foldl_mem, foldl_boot]
@[simp] theorem eventDone_leaves (k : Nat) (t : Thread) (n event : Nat) (s : State) :
    Leaves s (eventDone k t n event s) := by simp [eventDone]

/-! ### What an instruction does for one thread -/

/-- What holds of the state that an instruction's meaning leaves, if it leaves one. -/
@[simp] def LaneOut.All (P : State → Prop) : LaneOut → Prop
  | .done _ s | .jump _ s | .fail _ s | .after _ _ s | .keep _ s | .wait _ s | .gone s => P s
  | .trap _ | .stall _ _ | .park _ _ _ _ => True

theorem LaneOut.All.mono {P Q : State → Prop} (h : ∀ s, P s → Q s) : ∀ {o : LaneOut}, o.All P → o.All Q
  | .done _ s, hp | .jump _ s, hp | .fail _ s, hp | .after _ _ s, hp | .keep _ s, hp | .wait _ s, hp | .gone s, hp => h s hp
  | .trap _, _ | .stall _ _, _ | .park _ _ _ _, _ => trivial

theorem LaneOut.All.keeps {s : State} {o : LaneOut} (h : o.All (Leaves s)) : o.All (Keeps s) :=
  h.mono (fun _ hs => hs.keeps)

/-- An answer that keeps: whatever state it goes on to. -/
structure OutKeeps (s : State) (o : Out1) : Prop where
  of_next : ∀ t, o = .next t → Keeps s t

theorem outKeeps_next {s t : State} (h : Keeps s t) : OutKeeps s (.next t) :=
  ⟨fun u hu => by obtain rfl := Host.Outcome.next.inj hu; exact h⟩

theorem keeps_take {r : Run} {k : Nat} {t : Thread} {F : Form} {srcs : List Nat} {o : LaneOut}
    (h : o.All (Keeps r.s)) : Keeps r.s (r.take k t F srcs o).s := by
  cases o with
  | done vs s | jump pc s | after q vs s => exact Keeps.trans h (.of_eq (complete_mem ..) (complete_boot ..))
  | fail q s | keep st s | gone s => exact Keeps.trans h (.of_eq rfl rfl)
  | wait w s => exact Keeps.trans h (.of_eq (beginWaiting_mem ..) (beginWaiting_boot ..))
  | trap q => exact .of_eq rfl rfl
  | stall st hold => cases hold <;> exact .of_eq (by simp [Run.take, Run.hold]) (by simp [Run.take, Run.hold])
  | park stage page va kind => exact .of_eq (parkThread_mem ..) (parkThread_boot ..)

/-- A choice between two answers holds what both hold. -/
theorem all_ite {P : State → Prop} {c : Prop} [Decidable c] {a b : LaneOut} (ha : a.All P) (hb : b.All P) :
    (if c then a else b).All P := by
  split
  · exact ha
  · exact hb

/-- A choice between two runs keeps what both keep. -/
theorem Keeps.iteRun {c : Prop} [Decidable c] {s : State} {a b : Run} (ha : Keeps s a.s) (hb : Keeps s b.s) :
    Keeps s (if c then a else b).s := by
  split
  · exact ha
  · exact hb

theorem keeps_laneStep {F : Form} {body : Body} (h : ∀ k t l s, (body k t l s).All (Keeps s)) (r : Run) (k : Nat) :
    Keeps r.s (laneStep F body r k).s := by
  unfold laneStep
  dsimp only
  split
  · exact .refl r.s
  · split
    · exact .refl r.s
    · split
      · exact .of_eq rfl rfl
      · refine .iteRun (.of_eq rfl rfl) (.iteRun (.of_eq rfl rfl) (.iteRun (.of_eq rfl rfl) ?_))
        split
        · exact .iteRun (.of_eq rfl rfl) (keeps_take (joinLoad_leaves ..).keeps)
        · exact .of_eq rfl rfl
        · exact .of_eq rfl rfl
        · exact .of_eq (parkThread_mem ..) (parkThread_boot ..)
        · refine .iteRun (.of_eq rfl rfl) (.iteRun (.of_eq rfl rfl) (.iteRun (.of_eq rfl rfl) (.iteRun (.of_eq rfl rfl)
            (.iteRun (.of_eq rfl rfl) ?_))))
          split
          · exact .of_eq rfl rfl
          · exact .of_eq rfl rfl
          · exact keeps_take (h ..)

theorem keeps_runLanes {F : Form} {body : Body} (h : ∀ k t l s, (body k t l s).All (Keeps s)) (s : State) :
    Keeps s (runLanes F body s) := by
  have hfold : ∀ (l : List Nat) (r : Run), Keeps r.s (l.foldl (laneStep F body) r).s := by
    intro l
    induction l with
    | nil => exact fun r => .refl r.s
    | cons k l ih => exact fun r => (keeps_laneStep h r k).trans (ih _)
  exact (hfold s.issue ⟨s, [], [], []⟩).trans (.of_eq (by simp [runLanes]) (by simp [runLanes]))

/-- An instruction keeps where its meaning does. -/
theorem outKeeps_answer {F : Form} {body : Body} (h : ∀ k t l s, (body k t l s).All (Keeps s)) (s : State) :
    OutKeeps s (answer F body s) := outKeeps_next (keeps_runLanes h s)

/-- An instruction whose meaning leaves memory as it is. -/
theorem outKeeps_plain {F : Form} {body : Body} (h : ∀ k t l s, (body k t l s).All (Leaves s)) (s : State) :
    OutKeeps s (answer F body s) := outKeeps_answer (fun k t l s => (h k t l s).keeps) s

end Sys2Proof.Machine
end
section
/-! SUPPORT. Frame lines that residue gives up, the trace's barrier checksums and the arrivals of threads at barriers write
device memory, and keep its canonical form. -/

namespace Sys2Proof.Machine

/-- A chain of operations, the last first. -/
theorem Keeps.after {s t u : State} (h : Keeps t u) (g : Keeps s t) : Keeps s u := g.trans h
theorem Leaves.after {s t u : State} (h : Leaves t u) (g : Keeps s t) : Keeps s u := g.trans h.keeps
theorem Keeps.then {s t u : State} (h : Keeps s t) (g : Leaves t u) : Keeps s u := h.trans g.keeps

/-! ### Residue (R187, R387) -/

theorem keeps_pushLines (k : Nat) (t : Thread) (gone : Nat → Bool) (s : State) : Keeps s (pushLines k t gone s).2 :=
  keeps_foldl (fun _ _ => keeps_frameBack ..) _ s
theorem keeps_pushThreads (core : Nat) (units : List Nat) (base : Nat) (l : Tbl Thread) (s : State) :
    Keeps s (pushThreads core units base l s).2 := by
  induction l generalizing base s with
  | nil => exact .refl s
  | cons p l ih =>
    obtain ⟨k, t⟩ := p
    unfold pushThreads
    by_cases hk : coreOf k = core
    · simpa only [hk, if_true] using (keeps_pushLines ..).trans (ih ..)
    · simpa only [hk, if_false] using ih ..
theorem keeps_pushOut (fn core : Nat) (units : List Nat) (s : State) : Keeps s (pushOut fn core units s) :=
  (keeps_pushThreads core units 0 (imageThreads s fn) s).then (setImageThreads_leaves ..)
theorem keeps_pushLine (s : State) (x : Nat × Nat × Nat) : Keeps s (pushLine s x) := by
  unfold pushLine
  split
  · exact .refl s
  · refine Keeps.then ?_ (setImageThreads_leaves ..)
    split
    · exact keeps_frameBack ..
    · exact .refl s
theorem keeps_pushMissed (core n : Nat) (s : State) : Keeps s (pushMissed core n s) := by
  induction n generalizing s with
  | zero => exact .of_eq rfl rfl
  | succ n ih =>
    unfold pushMissed
    dsimp only
    split
    · exact .of_eq rfl rfl
    · exact (ih _).after ((keeps_pushLine ..).after (.of_eq rfl rfl))
theorem keeps_drainLowest (core : Nat) (s : State) : Keeps s (drainLowest core s) := by
  unfold drainLowest
  split
  · exact .refl s
  · refine Keeps.trans (keeps_foldl (fun s p => ?_) _ s) (.of_eq rfl rfl)
    split
    · exact keeps_pushOut ..
    · exact .refl s
theorem keeps_drainOne (core : Nat) (s : State) : Keeps s (drainOne core s) :=
  (keeps_drainLowest core s).trans (.of_eq rfl rfl)

/-! ### Barriers (R154, R155, R170, R369) -/

theorem keeps_checksum (wg n : Nat) (s : State) : Keeps s (checksum wg n s) := by
  unfold checksum
  split
  · exact .refl s
  · split
    · exact .refl s
    · extract_lets b c gen x s1 s2
      have htrace : Keeps s s2 := by
        refine (Keeps.of_eq rfl rfl : Keeps s s1).trans ?_
        unfold s2
        split
        · exact keeps_traceRecord ..
        · exact .refl s1
      clear_value s2
      refine htrace.then ?_
      (repeat' split) <;> simp
theorem keeps_finishGen (wg n : Nat) (s : State) : Keeps s (finishGen wg n s) :=
  (keeps_checksum wg n s).trans (.of_eq rfl rfl)
theorem keeps_arrive {k : Nat} {t : Thread} {n : Nat} {range : Word} {s : State} {r : Bool × State}
    (h : arrive k t n range s = some r) : Keeps s r.2 := by
  unfold arrive at h
  extract_lets b regs s1 s2 at h
  split at h
  · cases h
  · split at h <;> cases h
    · exact (Keeps.of_eq rfl rfl : Keeps s s2).trans (keeps_finishGen ..)
    · exact .of_eq rfl rfl
theorem keeps_arriveAgain (n : Nat) (r : List Trapping × State) (k : Nat) : Keeps r.2 (arriveAgain n r k).2 := by
  obtain ⟨l, s⟩ := r
  unfold arriveAgain
  dsimp only
  split
  · exact .refl s
  · split
    · split
      · exact .refl s
      · split
        · exact .refl s
        · rename_i h; exact (keeps_arrive h).trans (.of_eq rfl rfl)
        · rename_i h; split <;> exact (keeps_arrive h).trans (.of_eq rfl rfl)
    · exact .refl s
theorem keeps_arriveWaiting (wg n : Nat) (s : State) : Keeps s (arriveWaiting wg n s) := by
  have hfold : ∀ (l : List Nat) (r : List Trapping × State), Keeps r.2 (l.foldl (arriveAgain n) r).2 := by
    intro l
    induction l with
    | nil => exact fun r => .refl r.2
    | cons k l ih => exact fun r => (keeps_arriveAgain n r k).trans (ih _)
  exact (hfold _ ([], s)).trans (.of_eq (takeTraps_mem ..) (takeTraps_boot ..))
theorem keeps_settleBar (wg n : Nat) (s : State) : Keeps s (settleBar wg n s) := by
  unfold settleBar
  split
  · exact (keeps_finishGen ..).trans (keeps_arriveWaiting ..)
  · exact .refl s
theorem keeps_arriveBody (f : Fields) (waits : Bool) (k : Nat) (t : Thread) (l : List Nat) (s : State) :
    (arriveBody f waits k t l s).All (Keeps s) := by
  unfold arriveBody
  dsimp only
  split
  · trivial
  · split
    · trivial
    · split
      · trivial
      · split
        · exact (beginWait_leaves ..).keeps
        · split
          · trivial
          · rename_i h; exact (keeps_arrive h).trans (keeps_arriveWaiting ..)
          · rename_i h; split
            · exact (keeps_arrive h).then (beginWait_leaves ..)
            · exact keeps_arrive h

end Sys2Proof.Machine
end
section
/-! SUPPORT. Engines keep device memory's canonical form: the runs of ACP, CPY and the matrix commands (R255 to R258,
R267 to R287). -/

namespace Sys2Proof.Machine

/-! ### Heads of queues -/

theorem keeps_claimHead (q : QRef) (s : State) : Keeps s (claimHead q s) := by
  unfold claimHead
  split
  · exact (Keeps.of_eq (modHead_mem ..) (modHead_boot ..)).after (keeps_claimUnit ..)
  · exact .refl s
/-- A head command keeps where its run does. -/
theorem keeps_beginHead {q : QRef} {op : Nat} {go : Cmd → State → State} (h : ∀ c s, Keeps s (go c s)) (s : State) :
    Keeps s (beginHead q op go s) := by
  unfold beginHead
  split
  · exact .refl s
  · split
    · exact h _ s
    · split
      · exact .refl s
      · split
        · exact .of_eq (doneHead_mem ..) (doneHead_boot ..)
        · split
          · exact keeps_claimHead q s
          · exact h _ s
/-- A push leaves memory where what goes with it does. -/
theorem pushOr_leaves {also : State → State} (h : ∀ s, Leaves s (also s)) (q : QRef) (c : Cmd)
    (ceiling : Option (Nat × Nat)) (s : State) : (pushOr q c ceiling also s).All (Leaves s) := by
  unfold pushOr
  split
  · trivial
  · trivial
  · simp [h (enqueue q c s)]

/-! ### What an engine reads and writes -/

theorem leaves_engGet {e : Eng} {wg va n : Nat} {s : State} {r : List Byte × State} (h : engGet e wg va n s = .inr r) :
    Leaves s r.2 := by
  unfold engGet at h
  split at h
  · split at h
    · cases h
    · split at h <;> cases h
      exact ⟨rfl, rfl⟩
  · exact engReadDev_kept h
theorem leaves_engCollect (e : Eng) (g n : Nat) (l : List Nat) (s : State) : Leaves s (engCollect e g n l s).2.1 := by
  induction l generalizing s with
  | nil => exact ⟨rfl, rfl⟩
  | cons a l ih =>
    unfold engCollect
    split
    · exact ⟨rfl, rfl⟩
    · rename_i h
      have hget := leaves_engGet h
      exact ⟨(ih _).1.trans hget.1, (ih _).2.trans hget.2⟩
theorem leaves_collectOn (e : Eng) (g n : Nat) (c : Cmd) (lo hi : Nat) (l : List Nat) (s : State) :
    Leaves s (collectOn e g n c lo hi l s).2.1 := leaves_engCollect ..
theorem keeps_engFold {α : Type} {f : α → State → Sum EngStop State} (h : ∀ a s t, f a s = .inr t → Keeps s t)
    (l : List α) (r : EngRun) : Keeps r.s (engFold f l r).s := by
  induction l generalizing r with
  | nil => exact .refl r.s
  | cons a l ih =>
    unfold engFold
    split
    · rename_i ha; exact (ih _).after (h _ _ _ ha)
    · exact .refl r.s
/-- The end of a run leaves the state that it came to, or the one before it. -/
theorem finishRun_leaves (q : QRef) (s0 : State) (r : EngRun) (keep : Cmd → Cmd) (okValue : Nat)
    (faultValue : Nat → Nat) (reach : List Nat) :
    Leaves r.s (finishRun q s0 r keep okValue faultValue reach) ∨
      Leaves s0 (finishRun q s0 r keep okValue faultValue reach) := by
  unfold finishRun
  split
  · left; simp [doneAt]
  · left; simp [doneAt]
  · right; simp
theorem keeps_finishRun {q : QRef} {s0 : State} {r : EngRun} (h : Keeps s0 r.s) (keep : Cmd → Cmd) (okValue : Nat)
    (faultValue : Nat → Nat) (reach : List Nat) : Keeps s0 (finishRun q s0 r keep okValue faultValue reach) :=
  (finishRun_leaves q s0 r keep okValue faultValue reach).elim h.then (·.keeps)
@[simp] theorem doneAt_leaves (q : QRef) (status value : Nat) (reach : List Nat) (s : State) :
    Leaves s (doneAt q status value reach s) := by simp [doneAt]
@[simp] theorem loadUnit_leaves (fn sect : Nat) (s : State) : Leaves s (loadUnit fn sect s) := ⟨rfl, rfl⟩
/-- A change of bulk state leaves memory where what follows it does. -/
theorem changeUnit_leaves {go : State → State} (h : ∀ s, Leaves s (go s)) (q : QRef) (sect : Nat)
    (f : Section → Section) (keep : Cmd → Cmd) (s : State) : Leaves s (changeUnit q sect f keep go s) := by
  unfold changeUnit
  split
  · rename_i u hu
    have hbulk := changeBulk_kept hu
    exact ⟨(h u).1.trans hbulk.1, (h u).2.trans hbulk.2⟩
  · simp
theorem finishUnit_leaves (q : QRef) (sect : Nat) (f : Section → Section) (r : EngRun) (keep : Cmd → Cmd) (okValue : Nat)
    (faultValue : Nat → Nat) (reach : List Nat) :
    Leaves r.s (finishUnit q sect f r keep okValue faultValue reach) := by
  unfold finishUnit
  split
  · exact changeUnit_leaves (fun s => (finishRun_leaves ..).elim id id) ..
  · exact changeUnit_leaves (fun s => (finishRun_leaves ..).elim id id) ..
  · exact (finishRun_leaves ..).elim id id

/-! ### ACP and CPY (R255 to R258) -/

theorem keeps_runAcp (wg : Nat) (c : Cmd) (s : State) : Keeps s (runAcp wg c s) := by
  unfold runAcp
  dsimp only
  split
  · exact .of_eq (doneHead_mem ..) (doneHead_boot ..)
  · split
    · exact .of_eq (stopHead_mem ..) (stopHead_boot ..)
    · rename_i b s1 hget
      have h1 : Leaves s s1 := by
        split at hget
        · cases hget; exact ⟨rfl, rfl⟩
        · exact leaves_engGet hget
      split
      · exact .of_eq (stopHead_mem ..) (stopHead_boot ..)
      · rename_i s2 hput
        exact (Keeps.of_eq (doneHead_mem ..) (doneHead_boot ..)).after ((keeps_engPut hput).after h1.keeps)
theorem leaves_copyDesc {e : Eng} {wg : Nat} {c : Cmd} {s : State} {r : List Byte × State}
    (h : copyDesc e wg c s = .inr r) : Leaves s r.2 := by
  unfold copyDesc at h
  dsimp only at h
  split at h
  · cases h
  · split at h
    · cases h
    · split at h <;> cases h
      exact leaves_engGet ‹_›
@[simp] theorem cpyBegin_leaves (q : QRef) (wg : Nat) (c : Cmd) (s : State) : Leaves s (cpyBegin q wg c s) := by
  unfold cpyBegin
  dsimp only
  split
  · simp
  · simp
  · rename_i d u hdesc
    obtain ⟨hmem, hboot⟩ : Leaves s u := leaves_copyDesc hdesc
    (repeat' split) <;> simp [hmem, hboot]
theorem keeps_cpyStep (q : QRef) (wg : Nat) (s : State) : Keeps s (cpyStep q wg s) := by
  unfold cpyStep
  split
  · exact .refl s
  · split
    · exact .refl s
    · extract_lets d n e
      split
      · exact .of_eq (doneHead_mem ..) (doneHead_boot ..)
      · split
        · exact .of_eq (stopHead_mem ..) (stopHead_boot ..)
        · rename_i b s1 hget
          split
          · exact .of_eq (parkHead_mem ..) (parkHead_boot ..)
          · exact .of_eq (stopHead_mem ..) (stopHead_boot ..)
          · rename_i s2 hput
            refine ((leaves_engGet hget).keeps.trans (keeps_engPut hput)).then ?_
            (repeat' split) <;> simp
theorem keeps_cpySteps (q : QRef) (wg n : Nat) (s : State) : Keeps s (cpySteps q wg n s) := by
  induction n generalizing s with
  | zero => exact .refl s
  | succ n ih => exact (ih _).after (keeps_cpyStep ..)
theorem keeps_cpyPart (q : QRef) (wg n : Nat) (c : Cmd) (s : State) : Keeps s (cpyPart q wg n c s) := by
  unfold cpyPart
  dsimp only
  split
  · exact .refl s
  · split
    · exact .refl s
    · rename_i b s1 hget
      split
      · exact (leaves_engGet hget).keeps
      · rename_i s2 hput
        exact (Keeps.of_eq (modHead_mem ..) (modHead_boot ..)).after ((keeps_engPut hput).after (leaves_engGet hget).keeps)
theorem keeps_stopCopy (q : QRef) (wg fuel : Nat) (s : State) : Keeps s (stopCopy q wg fuel s) := by
  induction fuel generalizing s with
  | zero => exact .refl s
  | succ fuel ih =>
    unfold stopCopy
    split
    · exact .refl s
    · dsimp only
      split
      · exact .refl s
      · split
        · exact (ih _).after (keeps_cpyStep ..)
        · exact keeps_cpyPart ..

/-! ### The matrix engine (R267 to R287) -/

theorem keeps_startTenure (sect cohort : Nat) (s : State) : Keeps s (startTenure sect cohort s) := by
  unfold startTenure
  dsimp only
  split
  · exact keeps_claimUnit ..
  · exact (keeps_claimUnit (cohortFn s cohort) sect s).trans (.of_eq (by simp) (by simp))
theorem keeps_takeTenure {s t : State} {c : Nat} (h : takeTenure s c = some t) : Keeps s t := by
  unfold takeTenure at h
  dsimp only at h
  split at h
  · cases h; exact .refl _
  · split at h
    · split at h <;> cases h
      exact keeps_startTenure ..
    · cases h
@[simp] theorem setCreg_leaves (sect n : Nat) (v : CReg) (s : State) : Leaves s (setCreg sect n v s) := ⟨rfl, rfl⟩
@[simp] theorem settleRound_leaves (sect n : Nat) (s : State) : Leaves s (settleRound sect n s) :=
  by unfold settleRound; (repeat' split) <;> simp
@[simp] theorem roundExit_leaves (sect wgic tlin clock : Nat) (s : State) : Leaves s (roundExit sect wgic tlin clock s) :=
  leaves_foldl (fun _ _ => by (repeat' split) <;> simp) _ _
theorem keeps_cdeclBody (f : Fields) (k : Nat) (t : Thread) (l : List Nat) (s : State) :
    (cdeclBody f k t l s).All (Keeps s) := by
  unfold cdeclBody
  dsimp only
  split
  · trivial
  · split
    · trivial
    · split
      · trivial
      · rename_i htake
        have hkept := keeps_takeTenure htake
        exact all_ite trivial (all_ite hkept (all_ite trivial hkept))
theorem keeps_signBody (k : Nat) (t : Thread) (n : Nat) (cmd : Cmd) (s : State) :
    (signBody k t n cmd s).All (Keeps s) := by
  unfold signBody
  extract_lets c sect
  split
  · trivial
  · rename_i u htake
    have hkept := keeps_takeTenure htake
    extract_lets bad now
    have hbad : bad.All (Keeps s) := hkept
    clear_value bad
    split
    · exact hbad
    · refine all_ite hbad ?_
      extract_lets go
      have hgo : ∀ r, (go r).All (Keeps s) := fun r => all_ite trivial (by exact hkept.then (by simp))
      clear_value go
      split
      · exact hgo _
      · exact all_ite trivial (all_ite (hgo _) hbad)
@[simp] theorem runPlan_leaves (q : QRef) (sect : Nat) (x : Reach) (p : Sum Nat MxPlan) (c : Cmd) (s : State) :
    Leaves s (runPlan q sect x p c s) := by
  unfold runPlan
  split
  · simp
  · exact ⟨rfl, rfl⟩
  · rename_i p
    extract_lets addrs
    have hread := leaves_collectOn p.eng p.wg p.size c p.lo p.hi addrs s
    generalize collectOn p.eng p.wg p.size c p.lo p.hi addrs s = r at hread ⊢
    obtain ⟨l, s1, stop, keep⟩ := r
    obtain ⟨hmem, hboot⟩ := hread
    dsimp only at hmem hboot ⊢
    have hmoved : Leaves s (if c.data.length < l.length * p.size then unitMoved q s1 else s1) := by
      split <;> exact ⟨hmem, hboot⟩
    generalize (if c.data.length < l.length * p.size then unitMoved q s1 else s1) = u at hmoved ⊢
    obtain ⟨humem, huboot⟩ := hmoved
    split
    · have hend := finishUnit_leaves q sect (p.effect l (List.replicate l.length p.blocks)) ⟨u, l.length, stop⟩ keep
        p.value (fun n => p.size * n) (List.replicate l.length p.blocks)
      exact ⟨hend.1.trans humem, hend.2.trans huboot⟩
    · split <;> simp [humem, huboot]
    · split
      · exact ⟨rfl, rfl⟩
      · split
        · exact ⟨rfl, rfl⟩
        · rename_i hbulk
          obtain ⟨hbmem, hbboot⟩ := changeBulk_kept hbulk
          simp [hbmem, hbboot, humem, huboot]
@[simp] theorem runScpy_leaves (cohort : Nat) (c : Cmd) (s : State) : Leaves s (runScpy cohort c s) :=
  by simp [runScpy]
@[simp] theorem runMldw_leaves (cohort : Nat) (c : Cmd) (u : Supply) (s : State) : Leaves s (runMldw cohort c u s) :=
  by simp [runMldw]
@[simp] theorem runMmul_leaves (cohort : Nat) (c : Cmd) (u : Supply) (s : State) : Leaves s (runMmul cohort c u s) :=
  by simp [runMmul]
@[simp] theorem runMswp_leaves (cohort : Nat) (c : Cmd) (s : State) : Leaves s (runMswp cohort c s) := by
  unfold runMswp
  dsimp only
  split
  · simp
  · exact changeUnit_leaves (fun _ => by simp) ..
@[simp] theorem runMzero_leaves (cohort : Nat) (c : Cmd) (s : State) : Leaves s (runMzero cohort c s) := by
  unfold runMzero
  dsimp only
  split
  · simp
  · exact changeUnit_leaves (fun _ => by simp) ..
theorem keeps_moutCells (e : Eng) (g : Nat) (l : List (Nat × List Byte)) (s : State) : Keeps s (moutCells e g l s).s :=
  keeps_engFold (fun _ _ _ h => keeps_engPut h) l ⟨s, 0, none⟩
theorem keeps_runMout (cohort : Nat) (c : Cmd) (s : State) : Keeps s (runMout cohort c s) := by
  unfold runMout
  dsimp only
  split
  · exact .of_eq (doneHead_mem ..) (doneHead_boot ..)
  · exact keeps_finishRun (keeps_moutCells ..) ..
@[simp] theorem runJoined_leaves (l : List (Nat × Supply)) (far : Reach) (x : Nat × Supply) (s : State) :
    Leaves s (runJoined l far x s) := by unfold runJoined; dsimp only; (repeat' split) <;> simp
@[simp] theorem runAllJoined_leaves (l : List (Nat × Supply)) (s : State) : Leaves s (runAllJoined l s) :=
  by unfold runAllJoined; dsimp only; (repeat' split) <;> simp [foldl_mem, foldl_boot]
theorem keeps_stopMatrix (cohort : Nat) (s : State) : Keeps s (stopMatrix cohort s) := by
  unfold stopMatrix
  extract_lets q n s1
  refine (Keeps.of_eq rfl rfl : Keeps s s1).trans ?_
  clear_value s1
  split
  · exact .refl s1
  · split
    · exact .refl s1
    · split
      · extract_lets l p
        split
        · exact .refl s1
        · exact (runPlan_leaves ..).keeps
      · split
        · split
          · exact .refl s1
          · extract_lets r
            split
            · exact .refl s1
            · exact (Keeps.of_eq (modHead_mem ..) (modHead_boot ..)).after (keeps_moutCells ..)
        · exact (runPlan_leaves ..).keeps

end Sys2Proof.Machine
end
section
/-! SUPPORT. The Task Queue Controller, the step sequencer and the Network Engine keep device memory's canonical form (R259 to
R266, R288 to R295, R413 to R419). -/

namespace Sys2Proof.Machine

/-! ### Task queues (R259 to R266) -/

theorem keeps_ringPut (q fn : Nat) (s : State) (p : Nat × List Byte) : Keeps s (ringPut q fn s p) := by
  unfold ringPut
  split
  · refine keeps_foldl (fun s x => ?_) _ s
    split
    · exact keeps_lineWrite ..
    · exact .of_eq rfl rfl
  · exact .refl s
theorem keeps_writeRing (s : State) (p : Nat × Queue) : Keeps s (writeRing s p) := by
  unfold writeRing
  split
  · exact .refl s
  · exact Keeps.after (keeps_foldl (fun _ _ => keeps_ringPut ..) _ _) (.of_eq rfl rfl)
theorem keeps_writeRings (fn : Nat) (s : State) : Keeps s (writeRings fn s) := keeps_foldl keeps_writeRing _ s
theorem keeps_retryRings (s : State) : Keeps s (retryRings s) := keeps_foldl keeps_writeRing _ s
theorem keeps_spillRing (key : Nat) (s : State) : Keeps s (spillRing key s) := by
  unfold spillRing
  split
  · split
    · exact .refl s
    · exact keeps_writeRing ..
  · exact .refl s
theorem keeps_pushRecord (q : Nat) (r : List Byte) (s : State) : Keeps s (pushRecord q r s).2 := by
  unfold pushRecord
  split
  · exact .refl s
  · split
    · exact .refl s
    · split
      · exact (taskDone_leaves ..).after ((keeps_spillRing ..).after (.of_eq (by simp) (by simp)))
      · split
        · exact (taskDone_leaves ..).after ((keeps_spillRing ..).after (.of_eq rfl rfl))
        · exact .refl s
@[simp] theorem readRing_leaves (s : State) (key : Nat) : Leaves s (readRing s key) :=
  by unfold readRing; dsimp only; (repeat' split) <;> simp
@[simp] theorem readRings_leaves (fn : Nat) (s : State) : Leaves s (readRings fn s) :=
  by simp [readRings, foldl_mem, foldl_boot]
@[simp] theorem refillPrim_leaves (q fuel : Nat) (s : State) : Leaves s (refillPrim q fuel s) := by
  induction fuel generalizing s with
  | zero => exact ⟨rfl, rfl⟩
  | succ fuel ih => unfold refillPrim; (repeat' split) <;> simp [ih]
@[simp] theorem popRecord_leaves (q : Nat) (s : State) : Leaves s (popRecord q s).2 := by
  unfold popRecord; split <;> simp
@[simp] theorem queueDone_leaves (fn q agent event : Nat) (s : State) : Leaves s (queueDone fn q agent event s) :=
  by simp [queueDone]
@[simp] theorem setPending_leaves (k d : Nat) (s : State) : Leaves s (setPending k d s) :=
  by unfold setPending; split <;> simp
@[simp] theorem statusDue_leaves (k fn d : Nat) (s : State) : Leaves s (statusDue k fn d s) := by simp [statusDue]
@[simp] theorem writeStatus_leaves (c : Cmd) (v : Bool) (s : State) : Leaves s (writeStatus c v s) :=
  by unfold writeStatus; dsimp only; split <;> simp
@[simp] theorem giveStatus_leaves (fn : Nat) (c : Cmd) (v : Bool) (s : State) : Leaves s (giveStatus fn c v s) :=
  by unfold giveStatus; split <;> simp
theorem keeps_runTkpush (wg : Nat) (c : Cmd) (s : State) : Keeps s (runTkpush wg c s) := by
  unfold runTkpush
  extract_lets q fn key
  split
  · exact .of_eq (by simp) (by simp)
  · split
    · exact .of_eq (by simp) (by simp)
    · have hpush := keeps_pushRecord key c.data s
      generalize pushRecord key c.data s = r at hpush ⊢
      obtain ⟨ok, s1⟩ := r
      dsimp only at hpush ⊢
      split
      · exact .of_eq (by simp) (by simp)
      · refine hpush.then ?_
        split <;> simp
@[simp] theorem runTkpop_leaves (wg : Nat) (c : Cmd) (s : State) : Leaves s (runTkpop wg c s) := by
  have hpop := popRecord_leaves c.vb.toNat s
  unfold runTkpop
  extract_lets q fn key off
  generalize hr : popRecord key s = r
  rw [show popRecord c.vb.toNat s = r from hr] at hpop
  obtain ⟨rec, u⟩ := r
  obtain ⟨hmem, hboot⟩ : Leaves s u := hpop
  (repeat' split) <;> simp_all
/-- What a successor join comes to keeps, where it is done. -/
def JoinEnd.Keeps (s : State) : JoinEnd → Prop
  | .done _ t => Machine.Keeps s t
  | _ => True
theorem keeps_releaseRecord (e : Eng) (num addr : Nat) (fate : Option Bool) (s : State) :
    (releaseRecord e num addr fate s).Keeps s := by
  unfold releaseRecord
  extract_lets key
  split
  · exact Keeps.refl s
  · split
    · exact Keeps.refl s
    · trivial
    · rename_i r u hread
      have hu : Keeps s u := (Leaves.keeps (engReadDev_kept hread))
      split
      · trivial
      · have hpush := hu.trans (keeps_pushRecord key r u)
        generalize pushRecord key r u = p at hpush ⊢
        obtain ⟨ok, v⟩ := p
        dsimp only at hpush ⊢
        split
        · trivial
        · refine Keeps.then hpush ?_
          split <;> simp
theorem keeps_useJoin (e : Eng) (j : Nat) (fate : Option Bool) (s : State) : (useJoin e j fate s).Keeps s := by
  unfold useJoin
  split
  · exact Keeps.refl s
  · split
    · rename_i r hr
      unfold joinAt at hr
      split at hr
      · cases hr; trivial
      · split at hr <;> cases hr <;> trivial
    · split
      · trivial
      · trivial
      · rename_i b u hread
        have hu : Keeps s u := Leaves.keeps (engReadDev_kept hread)
        extract_lets c
        clear_value c
        split
        · trivial
        · trivial
        · rename_i v hwrite
          have hv := hu.trans (keeps_engWriteDev hwrite)
          split
          · have hrel := keeps_releaseRecord e (valAt 4 2 b) (valAt 8 8 b) fate v
            generalize releaseRecord e (valAt 4 2 b) (valAt 8 8 b) fate v = r at hrel ⊢
            cases r with
            | bad | stop => trivial
            | done released w => exact hv.trans hrel
          · exact hv
@[simp] theorem endTkdone_leaves (wg : Nat) (c : Cmd) (v : Bool) (status value : Nat) (s : State) :
    Leaves s (endTkdone wg c v status value s) := by simp [endTkdone]
theorem leaves_readRegions {e : Eng} {a : Nat} {s : State} {r : Option (List Byte) × State}
    (h : readRegions e a s = .inr r) : Leaves s r.2 := by
  unfold readRegions at h
  split at h
  · cases h; exact ⟨rfl, rfl⟩
  · split at h
    · cases h; exact ⟨rfl, rfl⟩
    · split at h <;> cases h
      · exact ⟨rfl, rfl⟩
      · exact ⟨rfl, rfl⟩
      · rename_i hread; exact engReadDev_kept hread
@[simp] theorem beginTkdone_leaves (wg : Nat) (c : Cmd) (s : State) : Leaves s (beginTkdone wg c s) := by
  unfold beginTkdone
  dsimp only
  split
  · simp
  · split
    · simp
    · simp
    · simp
    · rename_i h _; obtain ⟨hmem, hboot⟩ := leaves_readRegions h; simp_all
    · rename_i h _; obtain ⟨hmem, hboot⟩ := leaves_readRegions h; simp_all
theorem keeps_finishTkdone (wg : Nat) (s : State) : Keeps s (finishTkdone wg s) := by
  unfold finishTkdone
  extract_lets q
  split
  · exact .refl s
  · rename_i c _ _
    split
    · exact .refl s
    · extract_lets e bound
      split
      · exact (endTkdone_leaves ..).keeps
      · rename_i r _
        split
        · exact .refl s
        · split
          · exact .of_eq (modHead_mem ..) (modHead_boot ..)
          · have hjoin := keeps_useJoin e (valAt 0x20 8 r) c.fate s
            split
            · exact (endTkdone_leaves ..).keeps
            · exact .of_eq (stopHead_mem ..) (stopHead_boot ..)
            · rename_i hdone
              rw [hdone] at hjoin
              exact (endTkdone_leaves ..).after hjoin

/-! ### The step sequencer (R288 to R295) -/

@[simp] theorem runSqcfg_leaves (cohort : Nat) (c : Cmd) (s : State) : Leaves s (runSqcfg cohort c s) := by
  unfold runSqcfg
  dsimp only
  split
  · simp
  · split
    · simp
    · split
      · simp
      · rename_i d u hget
        obtain ⟨hmem, hboot⟩ : Leaves s u := leaves_engGet hget
        have hchange := fun f d => changeUnit_leaves (go := doneHead (.sq cohort) 0 (regTiles d)) (fun _ => by simp)
          (.sq cohort) (cohortSect s cohort) f id u
        (repeat' split) <;> simp [hmem, hboot, hchange]
theorem leaves_sqRead {e : Eng} {va n : Nat} {s : State} {r : List Byte × State} (h : sqRead e va n s = .inr r) :
    Leaves s r.2 := by
  unfold sqRead at h
  split at h
  · cases h
  · exact engReadDev_kept h
theorem keeps_sqWrite {e : Eng} {va : Nat} {l : List Byte} {s t : State} (h : sqWrite e va l s = .inr t) : Keeps s t := by
  unfold sqWrite at h
  split at h
  · cases h
  · exact keeps_engWriteDev h
theorem leaves_sqCollect (e : Eng) (l : List Nat) (s : State) : Leaves s (sqCollect e l s).2.1 := by
  induction l generalizing s with
  | nil => exact ⟨rfl, rfl⟩
  | cons a l ih =>
    unfold sqCollect
    split
    · exact ⟨rfl, rfl⟩
    · rename_i h
      have hread := leaves_sqRead h
      exact ⟨(ih _).1.trans hread.1, (ih _).2.trans hread.2⟩
theorem keeps_sigTile {e : Eng} {d : List Byte} {pat : DWord} {t : Nat} {s u : State}
    (h : sigTile e d pat t s = .inr u) : Keeps s u := by
  have hread := leaves_sqCollect e (tilePieces d t) s
  unfold sigTile at h
  generalize sqCollect e (tilePieces d t) s = r at hread h
  obtain ⟨l, v, _ | x⟩ := r
  · dsimp only at hread h
    split at h <;> cases h
    exact (Leaves.keeps hread).trans (keeps_sqWrite ‹_›)
  · cases h
theorem keeps_tileRun {f : Nat → State → Sum (EngStop × Nat) State} {finish : State → State}
    (hf : ∀ t s u, f t s = .inr u → Keeps s u) (hfinish : ∀ s, Leaves s (finish s)) (q : QRef) (l : List Nat) (s : State) :
    Keeps s (tileRun q f finish l s) := by
  induction l generalizing s with
  | nil => exact (hfinish s).keeps
  | cons t l ih =>
    unfold tileRun
    split
    · rename_i h
      exact (ih _).after ((hf _ _ _ h).then (by simp))
    · exact .of_eq (doneHead_mem ..) (doneHead_boot ..)
    · exact .of_eq (stopHead_mem ..) (stopHead_boot ..)
theorem keeps_runSqsig (cohort : Nat) (c : Cmd) (s : State) : Keeps s (runSqsig cohort c s) := by
  unfold runSqsig
  dsimp only
  split
  · exact .of_eq (doneHead_mem ..) (doneHead_boot ..)
  · split
    · exact .of_eq (doneHead_mem ..) (doneHead_boot ..)
    · exact (keeps_tileRun (fun _ _ _ => keeps_sigTile) (fun _ => by simp) ..).after
        (.of_eq (modHead_mem ..) (modHead_boot ..))
theorem keeps_cmpTile {e : Eng} {sect : Nat} {d : List Byte} {t : Nat} {s u : State}
    (h : cmpTile e sect d t s = .inr u) : Keeps s u := by
  unfold cmpTile at h
  dsimp only at h
  split at h
  · cases h
  · rename_i hrec
    split at h
    · cases h
    · rename_i hentry
      have hread := (leaves_sqRead hrec).keeps.trans (leaves_sqRead hentry).keeps
      split at h
      · split at h <;> cases h
        rename_i hbulk
        exact hread.then (changeBulk_kept hbulk)
      · split at h
        · cases h
        · rename_i hbulk
          split at h <;> cases h
          rename_i hwrite
          exact (hread.then (changeBulk_kept hbulk)).trans (keeps_sqWrite hwrite)
theorem keeps_runSqcmp (cohort : Nat) (c : Cmd) (s : State) : Keeps s (runSqcmp cohort c s) := by
  unfold runSqcmp
  dsimp only
  split
  · exact .of_eq (doneHead_mem ..) (doneHead_boot ..)
  · exact keeps_tileRun (fun _ _ _ => keeps_cmpTile) (fun _ => by simp) ..
theorem keeps_runSqmap (cohort : Nat) (c : Cmd) (s : State) : Keeps s (runSqmap cohort c s) := by
  unfold runSqmap
  dsimp only
  split
  · exact .of_eq (doneHead_mem ..) (doneHead_boot ..)
  · split
    · exact .of_eq (doneHead_mem ..) (doneHead_boot ..)
    · exact keeps_finishRun (keeps_engFold (fun _ _ _ h => keeps_engPut h) _ ⟨s, 0, none⟩) ..
theorem keeps_stopSequencer (cohort : Nat) (s : State) : Keeps s (stopSequencer cohort s) := by
  unfold stopSequencer
  extract_lets q n s1
  refine (Keeps.of_eq rfl rfl : Keeps s s1).trans ?_
  clear_value s1
  split
  · exact .refl s1
  · split
    · exact .refl s1
    · split
      · exact .refl s1
      · extract_lets l e pat
        split
        · exact (keeps_tileRun (fun _ _ _ => keeps_sigTile) (fun _ => ⟨rfl, rfl⟩) ..).after
            (.of_eq (modHead_mem ..) (modHead_boot ..))
        · split
          · exact keeps_tileRun (fun _ _ _ => keeps_cmpTile) (fun _ => ⟨rfl, rfl⟩) ..
          · exact .refl s1
theorem endSqstep_leaves (cohort : Nat) (c : Cmd) (r : RegionSlot) (s : State) : Leaves s (endSqstep cohort c r s) :=
  changeUnit_leaves (fun _ => by simp) ..
theorem keeps_stepTile {e : Eng} {sect : Nat} {r : RegionSlot} {t : Nat} {s u : State} {pushed : Bool}
    (h : stepTile e sect r t s = .taken pushed u) : Keeps s u := by
  unfold stepTile at h
  split at h
  · cases h
  · cases h
  · rename_i rec v hread
    have hv := (leaves_sqRead hread).keeps
    split at h
    · have hjoin := keeps_useJoin e (valAt 0x20 8 rec) none v
      split at h <;> cases h
      rename_i hdone
      rw [hdone] at hjoin
      exact hv.trans hjoin
    · split at h
      · cases h
      · have hpush := keeps_pushRecord r.queue rec v
        generalize pushRecord r.queue rec v = p at hpush h
        obtain ⟨ok, w⟩ := p
        dsimp only at hpush h
        split at h <;> cases h
        exact (hv.trans hpush).then (queueDone_leaves ..)
theorem keeps_sqSteps (cohort fuel : Nat) (s : State) : Keeps s (sqSteps cohort fuel s) := by
  induction fuel generalizing s with
  | zero => exact .refl s
  | succ fuel ih =>
    unfold sqSteps
    extract_lets q
    split
    · exact .refl s
    · split
      · exact .refl s
      · split
        · exact .of_eq (doneHead_mem ..) (doneHead_boot ..)
        · split
          · exact (endSqstep_leaves ..).keeps
          · split
            · exact .of_eq (doneHead_mem ..) (doneHead_boot ..)
            · exact .of_eq (stopHead_mem ..) (stopHead_boot ..)
            · rename_i htile
              exact (ih _).after ((keeps_stepTile htile).then (by simp))
@[simp] theorem beginSqstep_leaves (cohort : Nat) (c : Cmd) (s : State) : Leaves s (beginSqstep cohort c s) :=
  by unfold beginSqstep; (repeat' split) <;> simp

/-! ### The Network Engine (R413 to R419) -/

theorem leaves_netDesc {e : Eng} {wg : Nat} {c : Cmd} {s : State} {r : List Byte × State}
    (h : netDesc e wg c s = .inr r) : Leaves s r.2 := by
  unfold netDesc at h
  split at h
  · cases h
  · split at h
    · cases h
    · cases h
    · cases h
    · split at h <;> cases h
      rename_i hget _; exact leaves_engGet hget
theorem leaves_netDescOnce {e : Eng} {wg : Nat} {c : Cmd} {s : State} {r : List Byte × State}
    (h : netDescOnce e wg c s = .inr r) : Leaves s r.2 := by
  unfold netDescOnce at h
  split at h
  · cases h; exact ⟨rfl, rfl⟩
  · split at h <;> cases h
    rename_i hdesc
    obtain ⟨hmem, hboot⟩ := leaves_netDesc hdesc
    simp_all
theorem leaves_netCollect (e : Eng) (wg : Nat) (l : List (Nat × Nat)) (s : State) :
    Leaves s (netCollect e wg l s).2.1 := by
  induction l generalizing s with
  | nil => exact ⟨rfl, rfl⟩
  | cons a l ih =>
    unfold netCollect
    split
    · exact ⟨rfl, rfl⟩
    · rename_i h
      have hget := leaves_engGet h
      exact ⟨(ih _).1.trans hget.1, (ih _).2.trans hget.2⟩
@[simp] theorem netSend_leaves (q : QRef) (d : List Byte) (c : Cmd) (len : Nat) (short : Bool) (bytes : List Byte) (s : State) :
    Leaves s (netSend q d c len short bytes s) := by simp [netSend]
@[simp] theorem netClaim_leaves (wg a n p : Nat) (s : State) : Leaves s (netClaim wg a n p s) := ⟨rfl, rfl⟩
@[simp] theorem runNput_leaves (wg most : Nat) (c : Cmd) (s : State) : Leaves s (runNput wg most c s) := by
  unfold runNput
  dsimp only
  split
  · exact ⟨rfl, rfl⟩
  · split
    · simp
    · simp
    · rename_i d s0 hdesc
      obtain ⟨hmem, hboot⟩ : Leaves s s0 := leaves_netDescOnce hdesc
      split
      · simp [hmem, hboot]
      · split
        · simp
        · have hread := leaves_netCollect (engineOf s (.ne wg) c.id) wg
            (pieces (min (valAt 0x28 4 d) most / 32 + 2) (netLocal c) (min (valAt 0x28 4 d) most)) s0
          generalize netCollect (engineOf s (.ne wg) c.id) wg
            (pieces (min (valAt 0x28 4 d) most / 32 + 2) (netLocal c) (min (valAt 0x28 4 d) most)) s0 = r at hread ⊢
          obtain ⟨bytes, s1, stop⟩ := r
          obtain ⟨hrmem, hrboot⟩ : Leaves s0 s1 := hread
          (repeat' split) <;> simp_all
@[simp] theorem runNget_leaves (wg : Nat) (c : Cmd) (s : State) : Leaves s (runNget wg c s) := by
  unfold runNget
  dsimp only
  split
  · exact ⟨rfl, rfl⟩
  · split
    · simp
    · simp
    · rename_i d s0 hdesc
      obtain ⟨hmem, hboot⟩ : Leaves s s0 := leaves_netDescOnce hdesc
      (repeat' split) <;> simp [hmem, hboot]
@[simp] theorem runNsig_leaves (wg : Nat) (c : Cmd) (s : State) : Leaves s (runNsig wg c s) := by
  unfold runNsig
  dsimp only
  split
  · exact ⟨rfl, rfl⟩
  · split
    · simp
    · simp
    · rename_i d s0 hdesc
      obtain ⟨hmem, hboot⟩ : Leaves s s0 := leaves_netDescOnce hdesc
      (repeat' split) <;> simp [hmem, hboot]
theorem keeps_ngetWrite (e : Eng) (wg a : Nat) (bytes : List Byte) (r : EngRun) : Keeps r.s (ngetWrite e wg a bytes r).s := by
  unfold ngetWrite
  generalize pieces (bytes.length / 32 + 2) a bytes.length = l
  induction l generalizing r with
  | nil => exact .refl r.s
  | cons p l ih =>
    refine Keeps.trans ?_ (ih _)
    dsimp only
    split
    · exact .refl r.s
    · split
      · rename_i hput; exact keeps_engPut hput
      · exact .refl r.s
theorem keeps_ngetFinish (wg most : Nat) (s : State) : Keeps s (ngetFinish wg most s) := by
  unfold ngetFinish
  dsimp only
  split
  · exact .refl s
  · rename_i c _ _
    split
    · exact .refl s
    · have hparts : ∀ (l : List (Nat × List Byte)) (r : EngRun), Keeps r.s (l.foldl (fun r x => match r.stop with
          | some _ => r
          | none => ngetWrite (engineOf s (.ne wg) c.id) wg (netLocal c + x.1) x.2 r) r).s := by
        intro l
        induction l with
        | nil => exact fun r => .refl r.s
        | cons x l ih =>
          refine fun r => Keeps.trans ?_ (ih _)
          dsimp only
          split
          · exact .refl r.s
          · exact keeps_ngetWrite ..
      have hr := hparts (answerParts c.progress most c.answers) ⟨s, 0, none⟩
      generalize (answerParts c.progress most c.answers).foldl _ (⟨s, 0, none⟩ : EngRun) = r at hr ⊢
      have hmoved : Keeps s (if r.done = 0 then r.s else unitMoved (.ne wg) r.s) := by
        refine hr.then ?_
        split <;> exact ⟨rfl, rfl⟩
      generalize (if r.done = 0 then r.s else unitMoved (.ne wg) r.s) = u at hmoved ⊢
      refine hmoved.then ?_
      (repeat' split) <;> simp
@[simp] theorem netDrop_leaves (id : Nat) (s : State) : Leaves s (netDrop id s) := ⟨rfl, rfl⟩
theorem keeps_netFail (o : NetOp) (n : Nat) (s : State) : Keeps s (netFail o n s) := by
  unfold netFail
  extract_lets q u
  have hu : Keeps s u := keeps_ngetFinish ..
  clear_value u
  split
  · exact .of_eq (doneHead_mem ..) (doneHead_boot ..)
  · (repeat' split) <;> exact hu
theorem keeps_stopNet (wg : Nat) (s : State) : Keeps s (stopNet wg s) := by
  unfold stopNet
  extract_lets q n s1
  refine (Keeps.of_eq rfl rfl : Keeps s s1).trans ?_
  clear_value s1
  split
  · exact .refl s1
  · split
    · exact .refl s1
    · split
      · exact (runNput_leaves ..).keeps
      · split
        · exact keeps_ngetFinish ..
        · exact .refl s1

end Sys2Proof.Machine
end
section
/-! SUPPORT. Placement, the end of threads, variant switches and inbound operations keep device memory's canonical form (R117,
R165 to R167, R298, R299, R412). -/

namespace Sys2Proof.Machine

/-! ### Placement (R165 to R167) -/

@[simp] theorem kernelNote_leaves (fn : Nat) (a : DWord) (s : State) : Leaves s (kernelNote fn a s) :=
  by unfold kernelNote; split <;> simp
@[simp] theorem addThreads_leaves (l : List (Nat × Thread)) (s : State) : Leaves s (addThreads l s) := ⟨rfl, rfl⟩
@[simp] theorem placeWg_leaves (l : Launch) (e : Seat) (k : Kernel) (cohort wgic core : Nat) (sp : Spot) (s : State) :
    Leaves s (placeWg l e k cohort wgic core sp s) := by simp [placeWg]
@[simp] theorem openCohort_leaves (l : Launch) (e : Seat) (k : Kernel) (index sect : Nat) (s : State) :
    Leaves s (openCohort l e k index sect s).2 := ⟨rfl, rfl⟩
@[simp] theorem launchIntegrity_leaves (l : Launch) (s : State) : Leaves s (launchIntegrity l s).2 :=
  by simp [launchIntegrity, foldl_mem, foldl_boot]
@[simp] theorem emptyPartition_leaves (s : State) : Leaves s (emptyPartition s) := ⟨rfl, rfl⟩
theorem leaves_placeMembers {l : Launch} {e : Seat} {k : Kernel} {cohort : Nat} {pick : State → Nat → List Nat}
    {good : List (Nat × List Nat) → Nat → State → Bool} {cores : List (Nat × List Nat)} {i : Nat} {s t : State}
    (h : placeMembers l e k cohort pick good cores i s = some t) : Leaves s t := by
  induction cores generalizing i s with
  | nil => cases h; exact ⟨rfl, rfl⟩
  | cons c cores ih =>
    obtain ⟨core, bs⟩ := c
    unfold placeMembers at h
    split at h
    · cases h
    · rename_i u hu
      obtain ⟨v, -, hv⟩ := List.exists_of_findSome?_eq_some hu
      have hplaced : Leaves s u := by
        split at hv
        · cases hv
        · dsimp only at hv
          split at hv <;> cases hv
          exact placeWg_leaves ..
      exact ⟨(ih h).1.trans hplaced.1, (ih h).2.trans hplaced.2⟩
theorem leaves_placeCohort {key : Nat} {l : Launch} {core pick : Kernel → State → Nat → List Nat}
    {good : Seat → Kernel → Nat → List (Nat × List Nat) → Nat → State → Bool} {c : Nat × Nat} {s t : State}
    (h : placeCohort key l core pick good c s = some t) : Leaves s t := by
  unfold placeCohort at h
  dsimp only at h
  split at h
  · cases h
  · split at h
    · cases h
    · have hmembers := leaves_placeMembers h; exact hmembers
theorem leaves_placeLeast {key : Nat} {l : Launch} {c : Nat × Nat} {s t : State} (h : placeLeast key l c s = some t) :
    Leaves s t := leaves_placeCohort h
theorem leaves_placeGreedy {key : Nat} {l : Launch} {c : Nat × Nat} {s t : State} (h : placeGreedy key l c s = some t) :
    Leaves s t := leaves_placeCohort h
theorem leaves_placeCoop {key : Nat} {l : Launch} {cs : List (Nat × Nat)} {s t : State}
    (h : placeCoop key l cs s = some t) : Leaves s t := by
  induction cs generalizing s with
  | nil => cases h; exact ⟨rfl, rfl⟩
  | cons c cs ih =>
    unfold placeCoop at h
    dsimp only at h
    split at h
    · cases h
    · rename_i hc
      have hplaced := leaves_placeCohort hc
      exact ⟨(ih h).1.trans hplaced.1, (ih h).2.trans hplaced.2⟩

/-! ### EXIT (R117) -/

@[simp] theorem renameThread_leaves (k d : Nat) (s : State) : Leaves s (renameThread k d s) := ⟨rfl, rfl⟩
@[simp] theorem wakeSwitch_leaves (k : Nat) (s : State) : Leaves s (wakeSwitch k s) := ⟨rfl, rfl⟩
@[simp] theorem leaveWindow_leaves (wg warp : Nat) (s : State) : Leaves s (leaveWindow wg warp s) :=
  by unfold leaveWindow; split <;> simp
@[simp] theorem leaveSwitch_leaves (wg clock : Nat) (s : State) : Leaves s (leaveSwitch wg clock s) := by
  unfold leaveSwitch
  split
  · exact ⟨rfl, rfl⟩
  · refine leaves_foldl (fun s p => ?_) _ s
    dsimp only
    (repeat' split) <;> simp
theorem keeps_leaveBars (t : Thread) (clock : Nat) (s : State) : Keeps s (leaveBars t clock s) := by
  unfold leaveBars
  refine keeps_foldl (fun s n => ?_) _ s
  dsimp only
  split
  · exact .refl s
  · exact (keeps_settleBar ..).after (modBar_leaves ..).keeps
theorem keeps_recordExit (g : Nat) (s : State) : Keeps s (recordExit g s) := by
  unfold recordExit
  split
  · exact .refl s
  · dsimp only
    split
    · exact (keeps_traceRecord ..).after (.of_eq rfl rfl)
    · exact .of_eq rfl rfl
theorem keeps_endWg (g : Nat) (s : State) : Keeps s (endWg g s) := by
  unfold endWg
  split
  · exact .refl s
  · exact (keeps_endLaunches ..).after ((keeps_reapWg ..).after (.of_eq rfl rfl))
/-- A step that is taken in one case only. -/
theorem Keeps.ite {s t u : State} {c : Prop} [Decidable c] (ht : c → Keeps s t) (hu : ¬ c → Keeps s u) :
    Keeps s (if c then t else u) := by
  split
  · exact ht ‹_›
  · exact hu ‹_›
theorem keeps_exitThread (k : Nat) (s : State) : Keeps s (exitThread k s) := by
  unfold exitThread
  split
  · exact .refl s
  · rename_i t _
    extract_lets clock n s1 s2 s3 s4 cohort sect s5 s6 s7
    have h1 : Keeps s s1 := .of_eq rfl rfl
    clear_value s1
    have h2 : Keeps s s2 := .ite (fun _ => h1) (fun _ => (keeps_leaveBars ..).after h1)
    clear_value s2
    have h3 : Keeps s s3 := h2.then (collDrop_leaves ..)
    clear_value s3
    have h4 : Keeps s s4 := .ite (fun _ => h3) (fun _ => h3.then (leaves_foldl (fun _ _ => settleHarvest_leaves ..) _ _))
    clear_value s4
    have h5 : Keeps s s5 := .ite (fun _ => h4.then (roundExit_leaves ..)) (fun _ => h4)
    clear_value s5
    have h6 : Keeps s s6 := h5.then (by simp [s6])
    clear_value s6
    have h7 : Keeps s s7 := .ite (fun _ => h6) (fun _ => (keeps_recordExit ..).after h6)
    clear_value s7
    exact Keeps.trans (.ite (fun _ => h7) (fun _ => (keeps_endWg ..).after h7)) (.of_eq rfl rfl)

/-! ### Variant switches (R298, R299) -/

theorem keeps_doSwitch (g : Nat) (w : Workgroup) (kn : Kernel) (r : SwitchRec) (b k : Nat) (stop : Bool)
    (fresh : Tbl Nat) (s : State) : Keeps s (doSwitch g w kn r b k stop fresh s) := by
  unfold doSwitch
  dsimp only
  refine Keeps.trans ?_ (.of_eq rfl rfl)
  refine Keeps.trans ?_ (keeps_foldl (fun _ _ => keeps_exitThread ..) _ _)
  exact .of_eq (by simp) (by simp)
@[simp] theorem closeSwitch_leaves (g id : Nat) (here : List Nat) (s : State) : Leaves s (closeSwitch g id here s) := by
  have hfold := fun s => leaves_foldl (f := fun s k => s.modThread k (fun t => goOn (s.ctx t.fn).pcycle t))
    (fun _ _ => ⟨rfl, rfl⟩) here s
  unfold closeSwitch
  simp [hfold]
@[simp] theorem switchIntegrity_leaves (g : Nat) (w : Workgroup) (id : Nat) (s : State) :
    Leaves s (switchIntegrity g w id s).2 := by unfold switchIntegrity; split <;> simp
theorem keeps_vswptBody (f : Fields) (k : Nat) (t : Thread) (l : List Nat) (s : State) :
    (vswptBody f k t l s).All (Keeps s) := by
  unfold vswptBody
  extract_lets id
  split
  · trivial
  · split
    · exact Keeps.refl s
    · rename_i w _
      extract_lets old here
      split
      · exact Keeps.of_eq rfl rfl
      · have hread := switchIntegrity_leaves t.wg w id s
        generalize switchIntegrity t.wg w id s = r at hread ⊢
        obtain ⟨_ | x, u⟩ := r
        · have hu : Keeps s u := Leaves.keeps hread
          dsimp only
          split
          · refine all_ite hu (all_ite hu (all_ite hu ?_))
            split
            · exact (keeps_doSwitch ..).after hu
            · exact (closeSwitch_leaves ..).after hu
          · exact (closeSwitch_leaves ..).after hu
        · exact Keeps.then (Leaves.keeps hread) (by simp)
@[simp] theorem postRequest_leaves (g v : Nat) (s : State) : Leaves s (postRequest g v s) := ⟨rfl, rfl⟩

/-! ### Inbound operations (R412) -/

@[simp] theorem refuseInbound_leaves (fn : Nat) (s : State) : Leaves s (refuseInbound fn s) := ⟨rfl, rfl⟩
@[simp] theorem inboundFailed_leaves (fn : Nat) (integrity : Option (Nat × Nat)) (s : State) :
    Leaves s (inboundFailed fn integrity s) := by simp [inboundFailed]
@[simp] theorem modForeman_leaves (v : Queue) (f : ForemanThread → ForemanThread) (s : State) :
    Leaves s (modForeman v f s) := by unfold modForeman; split <;> simp
@[simp] theorem wakeForeman_leaves (v : Queue) (s : State) : Leaves s (wakeForeman v s) := by simp [wakeForeman]
@[simp] theorem notifyAct_leaves (fn slot : Nat) (value : DWord) (s : State) : Leaves s (notifyAct fn slot value s) :=
  by unfold notifyAct; dsimp only; split <;> simp
theorem keeps_performInbound (i : Inbound) (s : State) : Keeps s (performInbound i s) := by
  unfold performInbound
  extract_lets fn core
  split
  · refine .ite (fun _ => (refuseInbound_leaves ..).keeps) (fun _ => ?_)
    split
    · exact (inboundFailed_leaves ..).keeps
    · rename_i hwrite; exact (keeps_engineWrite hwrite).trans (.of_eq rfl rfl)
  · refine .ite (fun _ => (refuseInbound_leaves ..).keeps) (fun _ => ?_)
    split
    · exact (inboundFailed_leaves ..).keeps
    · exact .of_eq (by simp) (by simp)
  · refine .ite (fun _ => (refuseInbound_leaves ..).keeps) (fun _ => ?_)
    split
    · dsimp only
      refine .ite (fun _ => (inboundFailed_leaves ..).keeps) (fun _ => ?_)
      exact Keeps.trans (.of_eq (readNote_mem ..) (readNote_boot ..)) ((keeps_loggedWrite ..).trans (.of_eq rfl rfl))
    · exact (refuseInbound_leaves ..).keeps
  · exact .of_eq (by simp) (by simp)
theorem keeps_takeInbound (i : Inbound) (s : State) : Keeps s (takeInbound i s) := by
  unfold takeInbound
  dsimp only
  refine .ite (fun _ => .of_eq (by simp) (by simp)) (fun _ => .ite (fun _ => .of_eq rfl rfl) (fun _ => keeps_performInbound ..))
theorem keeps_retryInbound (fn : Nat) (s : State) : Keeps s (retryInbound fn s) := by
  unfold retryInbound
  exact Keeps.after (keeps_foldl (fun _ _ => keeps_takeInbound ..) _ _) (.of_eq rfl rfl)
theorem keeps_retryAll (s : State) : Keeps s (retryAll s) :=
  (keeps_retryRings s).trans (keeps_foldl (fun _ _ => keeps_retryInbound ..) _ _)
theorem keeps_arriveInbound (job : Word) (i : Inbound) (s : State) : Keeps s (arriveInbound job i s) := by
  unfold arriveInbound
  dsimp only
  refine .ite (fun _ => .refl s) (fun _ => .ite (fun _ => (refuseInbound_leaves ..).keeps) (fun _ =>
    .ite (fun _ => .of_eq rfl rfl) (fun _ => ((keeps_postLogs s).trans (keeps_retryInbound i.dest.fn _)).trans ?_)))
  refine .ite (fun _ => .ite (fun _ => (keeps_takeInbound ..).after (.of_eq rfl rfl)) (fun _ => .refl _))
    (fun _ => keeps_takeInbound ..)

end Sys2Proof.Machine
end
section
/-! SUPPORT. Checkpoints, rollback, restores, queues and functions keep device memory's canonical form (R339, R342 to R353,
R391 to R400). -/

namespace Sys2Proof.Machine

/-! ### Checkpoints (R342 to R350) -/

@[simp] theorem requestCkpt_leaves (fn why : Nat) (s : State) : Leaves s (requestCkpt fn why s) := ⟨rfl, rfl⟩
@[simp] theorem failLogs_leaves (fn : Nat) (s : State) : Leaves s (failLogs fn s) :=
  by unfold failLogs; dsimp only; (repeat' split) <;> simp
@[simp] theorem chooseObject_leaves (fn : Nat) (s : State) : Leaves s (chooseObject fn s) :=
  by unfold chooseObject; (repeat' split) <;> simp
theorem keeps_writeStops (fn : Nat) (s : State) : Keeps s (writeStops fn s) :=
  keeps_foldl (fun _ _ => keeps_areaWrite ..) _ s
theorem keeps_writeLog (fn : Nat) (s : State) : Keeps s (writeLog fn s) := by
  unfold writeLog
  exact .ite (fun _ => .refl s) (fun _ => keeps_areaWrite ..)
@[simp] theorem trimClock_leaves (fn : Nat) (s : State) : Leaves s (trimClock fn s) := by
  unfold trimClock
  dsimp only
  split
  · exact ⟨rfl, rfl⟩
  · exact leaves_foldl (fun _ _ => by exact ⟨rfl, rfl⟩) _ _
@[simp] theorem freeClocks_leaves (s : State) : Leaves s (freeClocks s) := by
  unfold freeClocks
  exact leaves_foldl (fun _ _ => by dsimp only; split <;> exact ⟨rfl, rfl⟩) _ _
@[simp] theorem freeHeads_leaves (fn : Nat) (s : State) : Leaves s (freeHeads fn s) :=
  by simp [freeHeads, foldl_mem, foldl_boot]
theorem keeps_formCkpt (fn : Nat) (s : State) : Keeps s (formCkpt fn s) := by
  unfold formCkpt
  extract_lets s1 s2 s3 old s4 snap s5
  have h2 : Keeps s s2 := Keeps.after (keeps_foldl (fun _ _ => .of_eq (by simp) (by simp)) _ _)
    (.of_eq (endCkptWaits_mem ..) (endCkptWaits_boot ..))
  clear_value s2
  have h3 : Keeps s s3 := (keeps_writeLog ..).after ((keeps_writeRings ..).after h2)
  clear_value s3
  have h4 : Keeps s s4 := h3.then (by simp [s4])
  clear_value s4
  have h5 : Keeps s s5 := (trimClock_leaves ..).after ((keeps_areaWrite ..).after h4)
  exact h5.trans (.of_eq rfl rfl)

/-! ### Restores (R352, R353, R383, R387) -/

@[simp] theorem evict_leaves (fn : Nat) (s : State) : Leaves s (evict fn s) := by
  unfold evict
  exact leaves_foldl (f := fun s i => settlePool i s) (fun _ _ => ⟨rfl, rfl⟩) _ _
@[simp] theorem leaveResidue_leaves (fn : Nat) (s : State) : Leaves s (leaveResidue fn s) :=
  by simp [leaveResidue, foldl_mem, foldl_boot, apply_ite State.mem, apply_ite State.boot]
@[simp] theorem enterCores_leaves (fn : Nat) (s : State) : Leaves s (enterCores fn s) := by
  unfold enterCores; exact leaves_foldl (fun _ _ => by exact ⟨rfl, rfl⟩) _ _
theorem keeps_drainTo (core fuel : Nat) (s : State) : Keeps s (drainTo core fuel s) := by
  induction fuel generalizing s with
  | zero => exact .refl s
  | succ fuel ih =>
    unfold drainTo
    exact .ite (fun _ => .refl s) (fun _ => (ih _).after (keeps_drainLowest ..))
theorem keeps_takeCharges (fn : Nat) (s : State) : Keeps s (takeCharges fn s) :=
  (keeps_foldl (f := fun s c => takeCharge c s) (fun s c => (keeps_drainTo c _ s).trans (.of_eq rfl rfl)) _ s).trans
    (.of_eq rfl rfl)
@[simp] theorem takeFates_leaves (fn : Nat) (l : List Cmd) (s : State) : Leaves s (takeFates fn l s).2 := by
  have hfold : ∀ (l : List Cmd) (r : List Cmd × State), Leaves r.2 (l.foldl (fun (r : List Cmd × State) c =>
      if (c.op = 0x298 || c.op = 0x29A) && c.done.isNone
          && (nextEntry r.2 fn 7 0 (threadObject r.2 fn (c.pusher % 2 ^ 40))).any (·.carried) then
        (r.1 ++ [{ c with fate := fateOf r.2 (c.pusher % 2 ^ 40) fn }], noteDue (c.pusher % 2 ^ 40) fn r.2)
      else (r.1 ++ [c], r.2)) r).2 := by
    intro l
    induction l with
    | nil => exact fun r => ⟨rfl, rfl⟩
    | cons c l ih =>
      intro r
      rw [List.foldl_cons]
      refine ⟨(ih _).1.trans ?_, (ih _).2.trans ?_⟩ <;> split <;> simp
  exact hfold l ([], s)
@[simp] theorem giveFates_leaves (fn : Nat) (s : State) : Leaves s (giveFates fn s) :=
  by simp [giveFates, foldl_mem, foldl_boot]
@[simp] theorem refillCaches_leaves (fn : Nat) (s : State) : Leaves s (refillCaches fn s) :=
  by simp [refillCaches, foldl_mem, foldl_boot]
theorem keeps_install (fn : Nat) (i : Snapshot) (s : State) : Keeps s (install fn i s) := by
  unfold install
  extract_lets later replays s1 g s2 s3 s4 s5
  have h3 : Keeps s s3 := .of_eq rfl rfl
  clear_value s3
  have h4 : Keeps s s4 := .ite (fun _ => h3.then (giveFates_leaves ..)) (fun _ => h3)
  clear_value s4
  have h5 : Keeps s s5 := h4.then ⟨(leaves_foldl (fun _ _ => wakeQueue_leaves ..) _ _).1.trans (readRings_leaves ..).1,
    (leaves_foldl (fun _ _ => wakeQueue_leaves ..) _ _).2.trans (readRings_leaves ..).2⟩
  exact (refillCaches_leaves ..).after ((keeps_takeCharges ..).after h5)
@[simp] theorem switchOut_leaves (fn : Nat) (s : State) : Leaves s (switchOut fn s) := by simp [switchOut]
@[simp] theorem dropLines_leaves (fn : Nat) (code : Bool) (s : State) : Leaves s (dropLines fn code s) := ⟨rfl, rfl⟩
@[simp] theorem scrub_leaves (fn : Nat) (s : State) : Leaves s (scrub fn s) := by
  have hpools := fun l s => leaves_foldl (f := fun s i => settlePool i s) (fun _ _ => ⟨rfl, rfl⟩) l s
  unfold scrub
  simp [hpools]
theorem keeps_tearDown (fn : Nat) (s : State) : Keeps s (tearDown fn s) := by
  unfold tearDown
  extract_lets gone s1 s2
  have h1 : Keeps s s1 := keeps_foldl (fun _ _ => keeps_completeLaunch ..) _ s
  clear_value s1
  exact h1.then (by simp [s2])
@[simp] theorem freeForeman_leaves (hw : Nat) (s : State) : Leaves s (freeForeman hw s) :=
  by unfold freeForeman; split <;> simp
@[simp] theorem dropQueue_leaves (key : Nat) (s : State) : Leaves s (dropQueue key s) :=
  by unfold dropQueue; dsimp only; split <;> simp
@[simp] theorem dropInbound_leaves (fn : Nat) (s : State) : Leaves s (dropInbound fn s) := ⟨rfl, rfl⟩
theorem keeps_disable (fn : Nat) (s : State) : Keeps s (disable fn s) := by
  unfold disable
  extract_lets s1 keys s2
  have h1 : Keeps s s1 := (dropInbound_leaves ..).after (keeps_tearDown ..)
  clear_value s1
  refine Leaves.after (freeClocks_leaves _) (Keeps.trans ?_ (.of_eq rfl rfl))
  exact Keeps.after (keeps_foldl (fun _ _ => (dropQueue_leaves ..).keeps) _ _) (h1.trans (.of_eq rfl rfl))
theorem keeps_closeIfDue (fn : Nat) (s : State) : Keeps s (closeIfDue fn s) := by
  unfold closeIfDue
  exact .ite (fun _ => keeps_disable ..) (fun _ => .refl s)

/-! ### Rollback (R351) -/

theorem keeps_stopWg (wg : Nat) (s : State) : Keeps s (stopWg wg s) :=
  (keeps_stopNet ..).after ((keeps_stopCopy ..).after (keeps_stopCopy ..))
theorem keeps_stopUnits (fn : Nat) (s : State) : Keeps s (stopUnits fn s) := by
  unfold stopUnits
  extract_lets h s1 s2 s3
  have h2 : Keeps s s2 := Keeps.after (keeps_foldl (fun _ _ => (keeps_stopSequencer ..).after (keeps_stopMatrix ..)) _ _)
    (.of_eq rfl rfl)
  clear_value s2
  have h3 : Keeps s s3 := Keeps.after (keeps_foldl (fun _ _ => keeps_stopWg ..) _ _) h2
  exact (keeps_writeStops ..).after (h3.trans (.of_eq rfl rfl))
theorem keeps_applyEntry (fn : Nat) (i : Snapshot) (s : State) (u : Undo) : Keeps s (applyEntry fn i s u) := by
  unfold applyEntry
  split
  · exact ⟨rfl, fun w => wf_memWrite w _ _⟩
  · exact .ite (fun _ => .of_eq rfl rfl) (fun _ => keeps_areaWrite ..)
  · exact .refl s
theorem keeps_applyUndo (fn : Nat) (i : Snapshot) (s : State) : Keeps s (applyUndo fn i s) :=
  keeps_foldl (keeps_applyEntry fn i) _ s
theorem keeps_cleanAll (fn : Nat) (s : State) : Keeps s (cleanAll fn s) := keeps_foldl (fun _ _ => keeps_cleanFrame ..) _ s
@[simp] theorem corrupt_leaves (fn code : Nat) (s : State) : Leaves s (corrupt fn code s) := by simp [corrupt]
@[simp] theorem wakeForemen_leaves (fn : Nat) (s : State) : Leaves s (wakeForemen fn s) := ⟨rfl, rfl⟩
theorem keeps_returnTo (fn : Nat) (i : Snapshot) (older sound : Bool) (s : State) :
    Keeps s (returnTo fn i older sound s) := by
  unfold returnTo
  extract_lets s1 running j s2 s3 s4 s5
  have h1 : Keeps s s1 := (keeps_applyUndo ..).after (keeps_cleanAll ..)
  clear_value s1
  have h3 : Keeps s s3 := h1.then (by simp [s3, s2])
  clear_value s3
  have h4 : Keeps s s4 := Keeps.after (keeps_foldl (f := fun s c => settlePool c s) (fun _ _ => .of_eq rfl rfl) _ _)
    ((keeps_writeRings ..).after (h3.trans (.of_eq rfl rfl)))
  clear_value s4
  have h5 : Keeps s s5 := h4.trans (.of_eq rfl rfl)
  clear_value s5
  refine .ite (fun _ => h5.trans (.of_eq rfl rfl)) (fun _ => ?_)
  split
  · exact (corrupt_leaves ..).after h5
  · exact Keeps.trans ((keeps_install ..).after h5) (.of_eq rfl rfl)
theorem keeps_rollBack (fn : Nat) (sound : Bool) (s : State) : Keeps s (rollBack fn sound s) := by
  unfold rollBack
  split
  · exact .refl s
  · exact (keeps_returnTo ..).after (.ite (fun _ => .refl s) (fun _ => keeps_stopUnits ..))
@[simp] theorem takePartition_leaves (fn : Nat) (s : State) : Leaves s (takePartition fn s) :=
  by simp [takePartition, foldl_mem, foldl_boot]
@[simp] theorem runHalted_leaves (fn : Nat) (s : State) : Leaves s (runHalted fn s) :=
  by unfold runHalted; dsimp only; (repeat' split) <;> simp
@[simp] theorem endLateWaits_leaves (fn : Nat) (s : State) : Leaves s (endLateWaits fn s) := ⟨rfl, rfl⟩
@[simp] theorem dropRequests_leaves (fn : Nat) (late : List Nat) (s : State) : Leaves s (dropRequests fn late s) :=
  by unfold dropRequests; (repeat' split) <;> simp
@[simp] theorem haltEvent_leaves (fn : Nat) (s : State) : Leaves s (haltEvent fn s) := ⟨rfl, rfl⟩
theorem keeps_replayFrom (fn : Nat) (i : Snapshot) (older sound : Bool) (log : List OrderEntry) (sums : List Csum)
    (s : State) : Keeps s (replayFrom fn i older sound log sums s) := (keeps_returnTo ..).after (.of_eq rfl rfl)

/-! ### Queues (R389, R396 to R400) -/

@[simp] theorem setStat_leaves (fn code : Nat) (s : State) : Leaves s (setStat fn code s) := ⟨rfl, rfl⟩
@[simp] theorem addQueue_leaves (q : Queue) (s : State) : Leaves s (addQueue q s) :=
  by unfold addQueue; split <;> simp
@[simp] theorem sleepForeman_leaves (notify task : Bool) (v : Queue) (s : State) :
    Leaves s (sleepForeman notify task v s) := by simp [sleepForeman]
@[simp] theorem slotNote_leaves (v : Queue) (n : Nat) (s : State) : Leaves s (slotNote v n s) := by simp [slotNote]
@[simp] theorem recordIntegrity_leaves (fn : Nat) (r : List Byte) (s : State) : Leaves s (recordIntegrity fn r s).2 :=
  by simp [recordIntegrity]
theorem keeps_entryWrite (fn q off v : Nat) (s : State) : Keeps s (entryWrite fn q off v s) := by
  unfold entryWrite
  split
  · exact keeps_engineWrite ‹_›
  · exact .of_eq (orIntegrity_mem ..) (orIntegrity_boot ..)
theorem keeps_createQueue (fn q : Nat) (s : State) : Keeps s (createQueue fn q s) := by
  unfold createQueue
  refine .ite (fun _ => (setStat_leaves ..).keeps) (fun _ => ?_)
  split
  · exact .of_eq (by simp) (by simp)
  · extract_lets s1
    have h1 : Keeps s s1 := .of_eq (readNote_mem ..) (readNote_boot ..)
    clear_value s1
    split
    · exact (setStat_leaves ..).after h1
    · refine .ite (fun _ => (setStat_leaves ..).after h1) (fun _ => ?_)
      exact (setStat_leaves ..).after ((addQueue_leaves ..).after
        ((keeps_entryWrite ..).after ((keeps_entryWrite ..).after (h1.trans (.of_eq rfl rfl)))))
theorem keeps_resetQueue (fn q : Nat) (s : State) : Keeps s (resetQueue fn q s) := by
  unfold resetQueue
  dsimp only
  split
  · exact (setStat_leaves ..).keeps
  · refine .ite (fun _ => (setStat_leaves ..).keeps) (fun _ => ?_)
    exact (setStat_leaves ..).after ((modForeman_leaves ..).after ((keeps_entryWrite ..).after (.of_eq rfl rfl)))
theorem keeps_queueError (v : Queue) (status n : Nat) (s : State) : Keeps s (queueError v status n s) := by
  unfold queueError
  dsimp only
  exact (reportEvent_leaves ..).after ((keeps_entryWrite ..).after ((keeps_entryWrite ..).after (.of_eq (by simp) (by simp))))
theorem keeps_stepConsumer (v : Queue) (s : State) : Keeps s (stepConsumer v s) := by
  unfold stepConsumer
  dsimp only
  exact (keeps_entryWrite ..).after ((keeps_entryWrite ..).after (.of_eq (by simp) (by simp)))
theorem keeps_takeLaunch (v : Queue) (r : List Byte) (s : State) : Keeps s (takeLaunch v r s) := by
  have hread := recordIntegrity_leaves v.fn r s
  unfold takeLaunch
  generalize recordIntegrity v.fn r s = p at hread ⊢
  obtain ⟨_ | x, u⟩ := p
  · have hu : Keeps s u := Leaves.keeps hread
    dsimp only
    split
    · exact (keeps_stepConsumer ..).after (hu.trans (.of_eq rfl rfl))
    · exact (keeps_stepConsumer ..).after ((keeps_completeLaunch ..).after hu)
  · exact Keeps.trans (Leaves.keeps hread) (.of_eq (integrityHalt_mem ..) (integrityHalt_boot ..))
theorem keeps_takeRecord (v : Queue) (r : List Byte) (s : State) : Keeps s (takeRecord v r s) := by
  unfold takeRecord
  refine .ite (fun _ => keeps_takeLaunch ..) (fun _ => .ite (fun _ => keeps_queueError ..) (fun _ => ?_))
  have hpush := keeps_pushRecord (queueKey v.fn v.num) r s
  generalize pushRecord (queueKey v.fn v.num) r s = p at hpush ⊢
  obtain ⟨_ | _, u⟩ := p
  · exact hpush.then (sleepForeman_leaves ..)
  · exact hpush.trans (keeps_stepConsumer ..)
theorem keeps_blockForeman (v : Queue) (s : State) : Keeps s (blockForeman v s) := by
  unfold blockForeman
  extract_lets s1 s2
  have h2 : Keeps s s2 := .of_eq (by simp [s2, s1]) (by simp [s2, s1])
  exact .ite (fun _ => (keeps_entryWrite ..).after h2) (fun _ => h2)

/-! ### Contexts and functions (R391 to R395, R401) -/

theorem keeps_startContext (fn : Nat) (s : State) : Keeps s (startContext fn s) := by
  unfold startContext
  dsimp only
  exact (keeps_formCkpt fn _).after (.of_eq rfl rfl)
@[simp] theorem dropTlb_leaves (fn : Nat) (gone : TlbEntry → Bool) (s : State) : Leaves s (dropTlb fn gone s) :=
  ⟨rfl, rfl⟩
@[simp] theorem clearEngines_leaves (fn : Nat) (s : State) : Leaves s (clearEngines fn s) := by
  unfold clearEngines
  extract_lets zeros s1 s2 s3
  have h1 : Leaves s s1 := leaves_foldl (fun _ _ => by exact ⟨rfl, rfl⟩) _ _
  have h2 : Leaves s1 s2 := leaves_foldl (fun _ _ => by exact ⟨rfl, rfl⟩) _ _
  have h3 : Leaves s2 s3 := leaves_foldl (fun _ _ => by exact ⟨rfl, rfl⟩) _ _
  exact ⟨h3.1.trans (h2.1.trans h1.1), h3.2.trans (h2.2.trans h1.2)⟩
theorem keeps_freeLine (f : Nat → Byte) (line : Nat) (s : State) : Keeps s (freeLine f line s) := by
  unfold freeLine
  generalize (upto 128).map _ = bytes
  exact ⟨rfl, fun w => wf_memWrite w (line * 128) bytes⟩
theorem keeps_garbleLines (fn : Nat) (s : State) : Keeps s (garbleLines fn s) := by
  unfold garbleLines
  refine keeps_foldl (fun s p => ?_) _ s
  have h := keeps_freeLine Config.garbledByte p.1 s
  generalize freeLine Config.garbledByte p.1 s = u at h ⊢
  exact h.trans (.of_eq rfl rfl)
theorem keeps_enable (fn : Nat) (d : List Byte) (s : State) : Keeps s (enable fn d s) := by
  unfold enable
  dsimp only
  refine Keeps.after (keeps_garbleLines ..) (Keeps.trans (t := if _ then _ else _) ?_ (.of_eq rfl rfl))
  exact .ite (fun _ => .refl s) (fun _ => (clearEngines_leaves ..).keeps)
theorem keeps_writeVfctl (fn : Nat) (value : DWord) (s : State) : Keeps s (writeVfctl fn value s) := by
  unfold writeVfctl
  dsimp only
  refine .ite (fun _ => .refl s) (fun _ => .ite (fun _ => ?_) (fun _ => ?_))
  · refine .ite (fun _ => .of_eq rfl rfl) (fun _ => .ite (fun _ => ?_) (fun _ => (keeps_disable ..).after (.of_eq rfl rfl)))
    exact .ite (fun _ => .of_eq rfl rfl) (fun _ => .of_eq rfl rfl)
  · refine .ite (fun _ => .of_eq rfl rfl) (fun _ => .ite (fun _ => .of_eq rfl rfl) (fun _ => ?_))
    exact (keeps_enable ..).after (.of_eq rfl rfl)
@[simp] theorem writeVfband_leaves (fn : Nat) (value : Word) (s : State) : Leaves s (writeVfband fn value s) :=
  by unfold writeVfband; dsimp only; (repeat' split) <;> simp

end Sys2Proof.Machine
end
section
/-! SUPPORT. What a program instruction means for its thread leaves device memory and the boot store as they are, but for
arrivals at barriers, ends of threads, the trace and the commands that enter a queue with the tenure of a quadrant. -/

namespace Sys2Proof.Machine

/-! ### Class 1 and class 2: integer, control and floating point -/

theorem divBody_leaves (f : Fields) (op : Nat → Int → Int → Int) (k : Nat) (t : Thread) (l : List Nat) (s : State) :
    (divBody f op k t l s).All (Leaves s) := by
  unfold divBody; dsimp only; split <;> simp
theorem branchTo_leaves (register : Bool) (a : Nat) (s : State) : (branchTo register a s).All (Leaves s) := by
  unfold branchTo; split <;> simp
theorem linked_leaves {s : State} {o : LaneOut} (k len : Nat) (h : o.All (Leaves s)) : (linked k len o).All (Leaves s) := by
  cases o <;> exact h
theorem loopBody_leaves (f : Fields) (k : Nat) (t : Thread) (l : List Nat) (s : State) :
    (loopBody f k t l s).All (Leaves s) := by
  unfold loopBody; dsimp only; (repeat' split) <;> simp
theorem endlBody_leaves (k : Nat) (t : Thread) (l : List Nat) (s : State) : (endlBody k t l s).All (Leaves s) := by
  unfold endlBody; (repeat' split) <;> simp
@[simp] theorem fpDone_all (P : State → Prop) (k : Nat) (t : Thread) (e : Exc) (vs : List Nat) (s : State) :
    (fpDone k t e vs s).All P = P (s.modThread k (fun t => { t with fstat := raiseFlags e t.fstat })) := by
  unfold fpDone; dsimp only; split <;> rfl
theorem fcmpBody_leaves (f : Fields) (k : Nat) (t : Thread) (l : List Nat) (s : State) :
    (fcmpBody f k t l s).All (Leaves s) := by
  unfold fcmpBody; dsimp only; rw [fpDone_all]; simp
theorem pairBody_leaves (a b : Half) (ka kb : HalfKind) (k : Nat) (t : Thread) (l : List Nat) (s : State) :
    (pairBody a b ka kb k t l s).All (Leaves s) := by
  unfold pairBody; dsimp only; split <;> simp

/-! ### Class 3: memory, pool -/

@[simp] theorem performPad_leaves (o : MemOp) (s : State) : Leaves s (performPad o s).1 := by
  unfold performPad; dsimp only; (repeat' split) <;> simp
theorem ldBody_leaves (f : Fields) (k : Nat) (t : Thread) (l : List Nat) (s : State) :
    (ldBody f k t l s).All (Leaves s) := by
  unfold ldBody; dsimp only; (repeat' split) <;> simp
theorem issuePad_leaves (o : MemOp) (t : Thread) (s : State) : (issuePad o t s).All (Leaves s) := by
  unfold issuePad
  extract_lets held bank s1
  have h1 : Leaves s s1 := by simp [s1]
  clear_value s1
  have hpad := performPad_leaves { o with aperture := true } s1
  generalize performPad { o with aperture := true } s1 = p at hpad ⊢
  obtain ⟨u, old⟩ := p
  dsimp only at hpad ⊢
  (repeat' split) <;> simp [h1.1, h1.2, hpad.1, hpad.2]
theorem issueDev_leaves (o : MemOp) (t : Thread) (s : State) : (issueDev o t s).All (Leaves s) := by
  unfold issueDev; dsimp only; (repeat' split) <;> simp
theorem issueWrite_leaves (o : MemOp) (t : Thread) (need : Need) (release : Option Nat) (s : State) :
    (issueWrite o t need release s).All (Leaves s) := by
  unfold issueWrite
  split
  · trivial
  · split
    · trivial
    · trivial
    · split
      · trivial
      · split
        · exact issuePad_leaves ..
        · exact issueDev_leaves ..
        · trivial
        · trivial
theorem stBody_leaves (f : Fields) (k : Nat) (t : Thread) (l : List Nat) (s : State) :
    (stBody f k t l s).All (Leaves s) := issueWrite_leaves ..
@[simp] theorem growDone_all {P : State → Prop} {s : State} (pred : Option Nat) (v : Bool) (k : Nat)
    (h : P s) (hk : ∀ f, P (s.modThread k f)) : (growDone pred v k s).All P := by
  unfold growDone; split
  · exact hk _
  · exact h
theorem askPool_leaves (pred : Option Nat) (scratch : Bool) (asked k : Nat) (t : Thread) (s : State) :
    (askPool pred scratch asked k t s).All (Leaves s) := by
  unfold askPool; extract_lets core need limit fits granted failed
  have hgranted : granted.All (Leaves s) := growDone_all _ _ _ (by simp) (by simp)
  have hfailed : (failed (noteOutcome k t.fn 3 2 s)).All (Leaves s) := by
    unfold failed; split
    · exact growDone_all _ _ _ (by simp) (by simp)
    · simp
  split
  · exact hfailed
  · exact all_ite hgranted trivial
  · exact all_ite hgranted (all_ite hfailed (by simp))

/-! ### Class 4: collectives -/

theorem collArrive_leaves (f : Fields) (op k : Nat) (t : Thread) (mask : Word) (value : DWord) (sel : Word) (s : State) :
    (collArrive f op k t mask value sel s).All (Leaves s) := by
  unfold collArrive
  split
  · trivial
  · extract_lets warp old clash here c s1 s2 v
    have hdeliver : Leaves s s2 := by
      have h := leaves_foldl (fun s a => deliver_leaves c s a) (c.here.filter (fun a => a.thread != k)) s1
      exact h
    clear_value s2
    (repeat' split) <;> simp [hdeliver.1, hdeliver.2]
theorem redhBody_leaves (f : Fields) (k : Nat) (t : Thread) (l : List Nat) (s : State) :
    (redhBody f k t l s).All (Leaves s) := by
  unfold redhBody
  extract_lets n range seq new give
  have hgive : ∀ h, (give h).All (Leaves s) := fun h => by simp [give]
  clear_value give
  split
  · trivial
  · refine all_ite trivial (all_ite trivial ?_)
    split
    · exact hgive _
    · exact all_ite trivial (all_ite (hgive _) trivial)
theorem hgetBody_leaves (f : Fields) (k : Nat) (t : Thread) (l : List Nat) (s : State) :
    (hgetBody f k t l s).All (Leaves s) := by
  unfold hgetBody; dsimp only; (repeat' split) <;> simp

/-! ### Class 5: the engines' queues -/

theorem acpBody_leaves (f : Fields) (k : Nat) (t : Thread) (l : List Nat) (s : State) :
    (acpBody f k t l s).All (Leaves s) := by
  unfold acpBody
  exact all_ite trivial (all_ite trivial (all_ite trivial (all_ite trivial (all_ite trivial
    (pushOr_leaves (fun _ => by exact ⟨rfl, rfl⟩) ..)))))
theorem copiesSeen_leaves (k : Nat) (t : Thread) (useLatch acquire : Bool) (s : State) :
    (copiesSeen k t useLatch acquire s).All (Leaves s) := by
  unfold copiesSeen; (repeat' split) <;> simp

/-! ### Class 5 and class 6: queues, waits for memory, handlers and switches -/

theorem pushTask_leaves (f : Fields) (k : Nat) (t : Thread) (q : Nat) (r : List Byte) {s u : State} (h : Leaves s u) :
    (pushTask f k t q r u).All (Leaves s) := by
  unfold pushTask
  split
  · trivial
  · exact (pushOr_leaves (fun _ => by simp) ..).mono (fun v hv => ⟨hv.1.trans h.1, hv.2.trans h.2⟩)
theorem tkpushBody_leaves (f : Fields) (k : Nat) (t : Thread) (l : List Nat) (s : State) :
    (tkpushBody f k t l s).All (Leaves s) := by
  unfold tkpushBody
  dsimp only
  split
  · trivial
  · refine all_ite trivial ?_
    split
    · trivial
    · split
      · trivial
      · trivial
      · split
        · trivial
        · exact all_ite trivial (pushTask_leaves _ _ _ _ _ (by simp))
      · exact all_ite trivial (all_ite (by simp) (all_ite trivial (pushTask_leaves _ _ _ _ _ (by simp))))
theorem netBody_leaves (f : Fields) (op k : Nat) (t : Thread) (l : List Nat) (s : State) :
    (netBody f op k t l s).All (Leaves s) := pushOr_leaves (fun _ => ⟨rfl, rfl⟩) ..
theorem nwaitBody_leaves (k : Nat) (t : Thread) (l : List Nat) (s : State) : (nwaitBody k t l s).All (Leaves s) := by
  unfold nwaitBody nwaitDone
  dsimp only
  (repeat' split) <;> simp
theorem tretBody_leaves (k : Nat) (t : Thread) (l : List Nat) (s : State) : (tretBody k t l s).All (Leaves s) := by
  unfold tretBody; dsimp only; (repeat' split) <;> simp
theorem keeps_sqPush (f : Fields) (op k : Nat) (t : Thread) (l : List Nat) (s : State) :
    (sqPush f op k t l s).All (Keeps s) := by
  unfold sqPush
  dsimp only
  split
  · trivial
  next u htake =>
    have hpush := (pushOr_leaves (also := fun s => s.modThread k (fun t => { t with tl := t.tl + 1 }))
      (fun _ => ⟨rfl, rfl⟩) (.sq (cohortOf s t)) { newCmd f op k t u with va := BitVec.ofNat 64 (nth 0 0 l) }
      (some (t.tl, 7)) u).mono (fun v hv => Leaves.after hv (keeps_takeTenure htake))
    split
    · exact keeps_takeTenure htake
    · exact hpush

end Sys2Proof.Machine
end
section
/-! SUPPORT. Every program instruction keeps device memory in its canonical form and leaves the boot store. -/

namespace Sys2Proof.Machine

@[simp] theorem writeBarstall_leaves (core : Nat) (v : Word) (s : State) : Leaves s (writeBarstall core v s) :=
  ⟨rfl, rfl⟩
@[simp] theorem writeCkptint_leaves (fn : Nat) (v : Word) (s : State) : Leaves s (writeCkptint fn v s) := ⟨rfl, rfl⟩
@[simp] theorem writeTracectl_leaves (fn : Nat) (v : DWord) (s : State) : Leaves s (writeTracectl fn v s) :=
  ⟨rfl, rfl⟩
@[simp] theorem writeTracestat_leaves (fn : Nat) (v : DWord) (s : State) : Leaves s (writeTracestat fn v s) :=
  ⟨rfl, rfl⟩
@[simp] theorem sysWrite_leaves (k : Nat) (t : Thread) (n v : Nat) (s : State) : Leaves s (sysWrite k t n v s) := by
  simp [sysWrite, apply_ite State.mem, apply_ite State.boot]
@[simp] theorem wptrValue_leaves (k : Nat) (t : Thread) (v : Nat) (s : State) : Leaves s (wptrValue k t v s).2 :=
  by simp [wptrValue]

/-! ### The instructions whose meaning has cases of its own -/

theorem keeps_execMovs (f : Fields) (s : State) : OutKeeps s (execMovs f s) :=
  outKeeps_plain (fun k t l s => by split <;> simp) s
theorem keeps_execOcsync (f : Fields) (s : State) : OutKeeps s (execOcsync f s) :=
  outKeeps_plain (fun k t l s => by split <;> simp) s
theorem keeps_execFshrk (f : Fields) (s : State) : OutKeeps s (execFshrk f s) :=
  outKeeps_plain (fun k t l s => by (repeat' split) <;> simp) s
theorem keeps_execFence (f : Fields) (s : State) : OutKeeps s (execFence f s) :=
  outKeeps_plain (fun k t l s => by dsimp only; (repeat' split) <;> simp) s
theorem keeps_execFenceCode (f : Fields) (s : State) : OutKeeps s (execFenceCode f s) :=
  outKeeps_plain (fun k t l s => by split <;> simp) s
theorem keeps_execPref (f : Fields) (s : State) : OutKeeps s (execPref f s) :=
  outKeeps_plain (fun k t l s => by dsimp only; (repeat' split) <;> simp) s
theorem keeps_execLdem (f : Fields) (s : State) : OutKeeps s (execLdem f s) :=
  outKeeps_plain (fun k t l s => by dsimp only; (repeat' split) <;> simp) s
theorem keeps_execRclean (f : Fields) (s : State) : OutKeeps s (execRclean f s) :=
  outKeeps_plain (fun k t l s => by dsimp only; (repeat' split) <;> simp) s
theorem keeps_execRinv (f : Fields) (s : State) : OutKeeps s (execRinv f s) :=
  outKeeps_plain (fun k t l s => by (repeat' split) <;> simp) s
theorem keeps_execFgrow (f : Fields) (s : State) : OutKeeps s (execFgrow f s) :=
  outKeeps_plain (fun k t l s => by
    split
    · trivial
    · exact askPool_leaves ..) s
theorem keeps_execPgrow (f : Fields) (s : State) : OutKeeps s (execPgrow f s) :=
  outKeeps_plain (fun k t l s => by
    extract_lets n size
    split
    · exact growDone_all _ _ _ (by simp) (by simp)
    · split
      · split
        · exact growDone_all _ _ _ (by simp) (by simp)
        · trivial
      · exact askPool_leaves ..) s
theorem keeps_execPshrk (f : Fields) (s : State) : OutKeeps s (execPshrk f s) :=
  outKeeps_plain (fun k t l s => by dsimp only; (repeat' split) <;> simp) s
theorem keeps_execPqry (f : Fields) (s : State) : OutKeeps s (execPqry f s) :=
  outKeeps_plain (fun k t l s => by simp) s
theorem keeps_execBarw (f : Fields) (s : State) : OutKeeps s (execBarw f s) :=
  outKeeps_plain (fun k t l s => by dsimp only; (repeat' split) <;> simp) s
theorem keeps_execPause (f : Fields) (s : State) : OutKeeps s (execPause f s) :=
  outKeeps_plain (fun k t l s => by dsimp only; split <;> simp) s
theorem keeps_execEvadd (f : Fields) (s : State) : OutKeeps s (execEvadd f s) :=
  outKeeps_plain (fun k t l s => by dsimp only; (repeat' split) <;> simp) s
theorem keeps_execEvget (f : Fields) (s : State) : OutKeeps s (execEvget f s) :=
  outKeeps_plain (fun k t l s => by dsimp only; split <;> simp) s
theorem keeps_execGuard (f : Fields) (s : State) : OutKeeps s (execGuard f s) :=
  outKeeps_plain (fun k t l s => by dsimp only; split <;> simp) s
theorem keeps_execGres (f : Fields) (s : State) : OutKeeps s (execGres f s) :=
  outKeeps_plain (fun k t l s => by dsimp only; split <;> simp) s
theorem keeps_execSuspend (f : Fields) (s : State) : OutKeeps s (execSuspend f s) :=
  outKeeps_answer (fun k t l s => by
    refine all_ite trivial ?_
    split
    · trivial
    · exact all_ite (.refl s) (all_ite trivial ((keeps_cleanFrame ..).after (.of_eq rfl rfl)))) s
theorem keeps_execTagw (f : Fields) (s : State) : OutKeeps s (execTagw f s) :=
  outKeeps_plain (fun k t l s => by
    split
    · trivial
    · exact copiesSeen_leaves ..) s
theorem keeps_execWait (f : Fields) (s : State) : OutKeeps s (execWait f s) :=
  outKeeps_plain (fun k t l s => by
    exact all_ite trivial (all_ite trivial (all_ite trivial (all_ite trivial (copiesSeen_leaves ..))))) s
theorem keeps_execCpy (f : Fields) (s : State) : OutKeeps s (execCpy f s) :=
  outKeeps_plain (fun _ _ _ _ => by exact pushOr_leaves (fun _ => by exact ⟨rfl, rfl⟩) ..) s
theorem keeps_execWptr (f : Fields) (s : State) : OutKeeps s (execWptr f s) :=
  outKeeps_plain (fun k t l s => by simp) s
theorem keeps_execQfence (f : Fields) (s : State) : OutKeeps s (execQfence f s) :=
  outKeeps_plain (fun k t l s => by
    split
    · simp
    · extract_lets qs
      split
      · trivial
      · exact leaves_foldl (fun _ _ => by simp) _ _) s
theorem keeps_execTkpop (f : Fields) (s : State) : OutKeeps s (execTkpop f s) :=
  outKeeps_plain (fun k t l s => by
    split
    · trivial
    · exact pushOr_leaves (fun _ => ⟨rfl, rfl⟩) ..) s
theorem keeps_execTkdone (f : Fields) (s : State) : OutKeeps s (execTkdone f s) :=
  outKeeps_plain (fun _ _ _ _ => by exact pushOr_leaves (fun _ => statusDue_leaves ..) ..) s
theorem keeps_execExit (f : Fields) (s : State) : OutKeeps s (execExit f s) :=
  outKeeps_answer (fun k _ _ s => by exact keeps_exitThread k s) s
theorem keeps_execCkpt (f : Fields) (s : State) : OutKeeps s (execCkpt f s) :=
  outKeeps_plain (fun k t l s => by dsimp only; split <;> simp) s
theorem keeps_execSrd (f : Fields) (s : State) : OutKeeps s (execSrd f s) :=
  outKeeps_plain (fun k t l s => by split <;> simp) s
theorem keeps_execSwr (f : Fields) (s : State) : OutKeeps s (execSwr f s) :=
  outKeeps_plain (fun k t l s => by (repeat' split) <;> simp) s
theorem keeps_execTmark (f : Fields) (s : State) : OutKeeps s (execTmark f s) :=
  outKeeps_answer (fun k t l s => by exact Keeps.ite (fun _ => keeps_traceRecord ..) (fun _ => .refl s)) s
theorem keeps_execIdle (f : Fields) (s : State) : OutKeeps s (execIdle f s) :=
  outKeeps_plain (fun k t l s => by dsimp only; split <;> simp) s
theorem keeps_execPairWord (a b : Half) (s : State) : OutKeeps s (execPairWord a b s) := by
  unfold execPairWord
  split
  · exact outKeeps_next (trapEncoding_leaves ..).keeps
  · exact outKeeps_next (trapEncoding_leaves ..).keeps
  · exact outKeeps_plain (fun k t l s => pairBody_leaves _ _ _ _ k t l s) s

end Sys2Proof.Machine
end
section
/-! SUPPORT. Every device step but a start, its time-out and the boot command keeps device memory in its canonical form and
leaves the boot store. -/

namespace Sys2Proof.Machine

theorem keeps_viaMgmt {f : State → State} {s : State} (h : Keeps s (f s)) : Keeps s (viaMgmt f s) :=
  .ite (fun _ => h) (fun _ => .refl s)
theorem outKeeps_same (s : State) : OutKeeps s (.next s) := outKeeps_next (.refl s)
theorem outKeeps_ite {s : State} {c : Prop} [Decidable c] {a b : Out1} (ha : c → OutKeeps s a) (hb : ¬ c → OutKeeps s b) :
    OutKeeps s (if c then a else b) := by
  split
  · exact ha ‹_›
  · exact hb ‹_›

/-! ### Memory operations and the pool -/

theorem keeps_execHomeSliceAccess (id : Nat) (s : State) : OutKeeps s (execHomeSliceAccess id s) := by
  unfold execHomeSliceAccess
  split
  · exact outKeeps_same s
  · exact outKeeps_ite (fun _ => outKeeps_same s)
      (fun _ => outKeeps_ite (fun _ => outKeeps_next (.of_eq rfl rfl)) (fun _ => outKeeps_next (keeps_performHome ..)))
theorem keeps_execUndoEntryAccepted (id : Nat) (accepted : Bool) (s : State) :
    OutKeeps s (execUndoEntryAccepted id accepted s) := by
  unfold execUndoEntryAccepted
  split
  · exact outKeeps_same s
  · refine outKeeps_ite (fun _ => outKeeps_same s) (fun _ => outKeeps_ite (fun _ => outKeeps_next ?_) (fun _ => ?_))
    · exact (keeps_performHome ..).after ((keeps_postUndo ..).after (.of_eq (by simp) (by simp)))
    · exact outKeeps_next (.of_eq (by simp) (by simp))
theorem keeps_execStoreAcknowledge (id : Nat) (s : State) : OutKeeps s (execStoreAcknowledge id s) := by
  unfold execStoreAcknowledge
  split
  · exact outKeeps_same s
  · refine outKeeps_ite (fun _ => outKeeps_same s) (fun _ => outKeeps_next ?_)
    refine (keeps_endLaunches ..).after ?_
    split <;> exact .of_eq (by simp) (by simp)
theorem keeps_execResidueDrain (core : Nat) (s : State) : OutKeeps s (execResidueDrain core s) := by
  unfold execResidueDrain
  split
  · exact outKeeps_same s
  · exact outKeeps_ite (fun _ => outKeeps_same s) (fun _ => outKeeps_next (Keeps.then (keeps_drainOne core s) (by simp)))

/-! ### Engines -/

theorem keeps_execCommandComplete (q : QRef) (s : State) : OutKeeps s (execCommandComplete q s) := by
  unfold execCommandComplete
  split
  · exact outKeeps_same s
  · refine outKeeps_ite (fun _ => outKeeps_same s) (fun _ => ?_)
    split
    · exact outKeeps_next ((keeps_reapOwners ..).after (.of_eq (by simp) (by simp)))
    · split
      · exact outKeeps_same s
      · exact outKeeps_ite (fun _ => outKeeps_same s)
          (fun _ => outKeeps_next ((keeps_reapOwners ..).after (.of_eq (by simp) (by simp))))
theorem keeps_execAcpCommand (wg : Nat) (s : State) : OutKeeps s (execAcpCommand wg s) :=
  outKeeps_next (keeps_beginHead (fun _ _ => keeps_runAcp ..) s)
theorem keeps_execCpyCommand (wg ch steps : Nat) (s : State) : OutKeeps s (execCpyCommand wg ch steps s) :=
  outKeeps_next ((keeps_cpySteps ..).after (keeps_beginHead
    (fun _ _ => .ite (fun _ => (cpyBegin_leaves ..).keeps) (fun _ => .refl _)) s))
theorem keeps_execQuadrantTenureGrant (sect : Nat) (s : State) : OutKeeps s (execQuadrantTenureGrant sect s) := by
  unfold execQuadrantTenureGrant
  refine outKeeps_ite (fun _ => outKeeps_same s) (fun _ => ?_)
  split
  · exact outKeeps_next (.of_eq rfl rfl)
  · exact outKeeps_next (.ite (fun _ => keeps_startTenure ..) (fun _ => .refl s))
theorem keeps_execScpyCommand (cohort : Nat) (s : State) : OutKeeps s (execScpyCommand cohort s) :=
  outKeeps_next (keeps_beginHead (fun _ _ => (runScpy_leaves ..).keeps) s)
theorem keeps_execMldwCommand (cohort : Nat) (s : State) : OutKeeps s (execMldwCommand cohort s) :=
  outKeeps_next (keeps_beginHead (fun _ _ => .ite (fun _ => .refl _) (fun _ => (runMldw_leaves ..).keeps)) s)
theorem keeps_execMswpCommand (cohort : Nat) (s : State) : OutKeeps s (execMswpCommand cohort s) :=
  outKeeps_next (keeps_beginHead (fun _ _ => .ite (fun _ => .refl _) (fun _ => (runMswp_leaves ..).keeps)) s)
theorem keeps_execMzeroCommand (cohort : Nat) (s : State) : OutKeeps s (execMzeroCommand cohort s) :=
  outKeeps_next (keeps_beginHead (fun _ _ => (runMzero_leaves ..).keeps) s)
theorem keeps_execMmulCommand (cohort : Nat) (s : State) : OutKeeps s (execMmulCommand cohort s) :=
  outKeeps_next (keeps_beginHead (fun _ _ => .ite (fun _ => .refl _) (fun _ => (runMmul_leaves ..).keeps)) s)
theorem keeps_execMoutCommand (cohort : Nat) (s : State) : OutKeeps s (execMoutCommand cohort s) :=
  outKeeps_next (keeps_beginHead (fun _ _ => keeps_runMout ..) s)
theorem keeps_execFusedCommandJoin (cohort : Nat) (s : State) : OutKeeps s (execFusedCommandJoin cohort s) := by
  unfold execFusedCommandJoin
  split
  · exact outKeeps_same s
  · extract_lets fuse n held s1 l
    have h1 : Leaves s s1 := by simp [s1]
    clear_value s1
    refine outKeeps_ite (fun _ => outKeeps_same s) (fun _ => outKeeps_ite (fun _ => ?_) (fun _ =>
      outKeeps_ite (fun _ => outKeeps_next h1.keeps) (fun _ => outKeeps_ite (fun _ => ?_) (fun _ =>
      outKeeps_ite (fun _ => ?_) (fun _ => ?_)))))
    · exact outKeeps_next (.of_eq (by simp [foldl_mem]) (by simp [foldl_boot]))
    · exact outKeeps_next (h1.keeps.trans (keeps_foldl (fun _ _ => keeps_claimHead ..) _ _))
    · exact outKeeps_next (h1.keeps.then (runAllJoined_leaves ..))
    · exact outKeeps_next (h1.keeps.then (leaves_foldl (fun _ _ => by simp) _ _))
theorem keeps_execTkpushCommand (wg : Nat) (s : State) : OutKeeps s (execTkpushCommand wg s) :=
  outKeeps_next (keeps_beginHead (fun _ _ => keeps_runTkpush ..) s)
theorem keeps_execTkpopCommand (wg : Nat) (s : State) : OutKeeps s (execTkpopCommand wg s) :=
  outKeeps_next (keeps_beginHead (fun _ _ => (runTkpop_leaves ..).keeps) s)
theorem keeps_execTkdoneCommand (wg : Nat) (s : State) : OutKeeps s (execTkdoneCommand wg s) :=
  outKeeps_next ((keeps_finishTkdone ..).after (keeps_beginHead
    (fun _ _ => .ite (fun _ => (beginTkdone_leaves ..).keeps) (fun _ => .refl _)) s))
theorem keeps_execSqcfgCommand (cohort : Nat) (s : State) : OutKeeps s (execSqcfgCommand cohort s) :=
  outKeeps_next (keeps_beginHead (fun _ _ => (runSqcfg_leaves ..).keeps) s)
theorem keeps_execSqsigCommand (cohort : Nat) (s : State) : OutKeeps s (execSqsigCommand cohort s) :=
  outKeeps_next (keeps_beginHead (fun _ _ => keeps_runSqsig ..) s)
theorem keeps_execSqcmpCommand (cohort : Nat) (s : State) : OutKeeps s (execSqcmpCommand cohort s) :=
  outKeeps_next (keeps_beginHead (fun _ _ => keeps_runSqcmp ..) s)
theorem keeps_execSqmapCommand (cohort : Nat) (s : State) : OutKeeps s (execSqmapCommand cohort s) :=
  outKeeps_next (keeps_beginHead (fun _ _ => keeps_runSqmap ..) s)
theorem keeps_execSqstepCommand (cohort : Nat) (s : State) : OutKeeps s (execSqstepCommand cohort s) :=
  outKeeps_next ((keeps_sqSteps ..).after (keeps_beginHead
    (fun _ _ => .ite (fun _ => (beginSqstep_leaves ..).keeps) (fun _ => .refl _)) s))
theorem keeps_execNputCommand (wg : Nat) (s : State) : OutKeeps s (execNputCommand wg s) :=
  outKeeps_next (keeps_beginHead (fun _ _ => (runNput_leaves ..).keeps) s)
theorem keeps_execNgetCommand (wg : Nat) (s : State) : OutKeeps s (execNgetCommand wg s) :=
  outKeeps_next ((keeps_ngetFinish ..).after (keeps_beginHead (fun _ _ => (runNget_leaves ..).keeps) s))
theorem keeps_execNsigCommand (wg : Nat) (s : State) : OutKeeps s (execNsigCommand wg s) :=
  outKeeps_next (keeps_beginHead (fun _ _ => (runNsig_leaves ..).keeps) s)
theorem keeps_execPeerResponse (id : Nat) (r : PeerAnswer) (s : State) : OutKeeps s (execPeerResponse id r s) := by
  unfold execPeerResponse
  split
  · exact outKeeps_same s
  · refine outKeeps_ite (fun _ => outKeeps_next (netDrop_leaves ..).keeps) (fun _ => ?_)
    split
    · exact outKeeps_next (.of_eq rfl rfl)
    · exact outKeeps_next ((keeps_netFail ..).after (netDrop_leaves ..).keeps)
    · exact outKeeps_ite (fun _ => outKeeps_same s) (fun _ => outKeeps_next (.of_eq (by simp) (by simp)))
    · split
      · exact outKeeps_same s
      · dsimp only
        split <;> exact outKeeps_next ((keeps_ngetFinish ..).after (.of_eq (by simp) (by simp)))
theorem keeps_execTransferAbandoned (id n : Nat) (s : State) : OutKeeps s (execTransferAbandoned id n s) := by
  unfold execTransferAbandoned
  split
  · exact outKeeps_same s
  · exact outKeeps_ite (fun _ => outKeeps_next ((keeps_netFail ..).after (netDrop_leaves ..).keeps))
      (fun _ => outKeeps_next (netDrop_leaves ..).keeps)

/-! ### Launches -/

theorem keeps_execLaunchAdmission (launch : Nat) (s : State) : OutKeeps s (execLaunchAdmission launch s) := by
  unfold execLaunchAdmission
  split
  · exact outKeeps_same s
  next l _ =>
    refine outKeeps_ite (fun _ => outKeeps_same s) (fun _ => ?_)
    have hread := launchIntegrity_leaves l s
    generalize launchIntegrity l s = p at hread ⊢
    obtain ⟨_ | x, u⟩ := p
    · refine outKeeps_ite (fun _ => outKeeps_next ?_) (fun _ => outKeeps_next ?_)
      · exact (keeps_endLaunches ..).after (Leaves.after (s := s) (t := u) ⟨rfl, rfl⟩ hread.keeps)
      · exact (keeps_completeLaunch ..).after (Leaves.after (s := s) (t := u) ⟨rfl, rfl⟩ hread.keeps)
    · exact outKeeps_next (hread.keeps.then (by simp))
theorem keeps_execWorkgroupPlacement (launch : Nat) (s : State) : OutKeeps s (execWorkgroupPlacement launch s) := by
  unfold execWorkgroupPlacement
  split
  · exact outKeeps_same s
  next l _ =>
    refine outKeeps_ite (fun _ => outKeeps_same s) (fun _ => ?_)
    have hread := launchIntegrity_leaves l s
    generalize launchIntegrity l s = p at hread ⊢
    obtain ⟨_ | x, u⟩ := p
    · refine outKeeps_ite (fun _ => ?_) (fun _ => ?_)
      · split
        · exact outKeeps_next hread.keeps
        next hplace => exact outKeeps_next ((hread.keeps.then (leaves_placeCoop hplace)).trans (.of_eq rfl rfl))
      · split
        · exact outKeeps_next hread.keeps
        · split
          · exact outKeeps_next hread.keeps
          next hplace => exact outKeeps_next ((hread.keeps.then (leaves_placeGreedy hplace)).trans (.of_eq rfl rfl))
    · exact outKeeps_next (hread.keeps.then (by simp))

/-! ### Checkpoints, faults, the network's requests -/

theorem keeps_execInboundRmaWrite (dest : EndpointName) (job : Word) (addr : DWord) (bytes : List Byte) (s : State) :
    OutKeeps s (execInboundRmaWrite dest job addr bytes s) := outKeeps_next (keeps_arriveInbound ..)
theorem keeps_execInboundRmaRead (dest : EndpointName) (job : Word) (addr : DWord) (len : Nat) (s : State) :
    OutKeeps s (execInboundRmaRead dest job addr len s) := outKeeps_next (keeps_arriveInbound ..)
theorem keeps_execInboundAtomic (dest : EndpointName) (job : Word) (addr : DWord) (max1 : Bool) (value : DWord) (s : State) :
    OutKeeps s (execInboundAtomic dest job addr max1 value s) := outKeeps_next (keeps_arriveInbound ..)
theorem keeps_execNotifyWrite (dest : EndpointName) (slot : NotifySlot) (value : DWord) (s : State) :
    OutKeeps s (execNotifyWrite dest slot value s) :=
  outKeeps_ite (fun _ => outKeeps_same s) (fun _ => outKeeps_next (keeps_arriveInbound ..))
theorem keeps_execTraceSample (core : Nat) (s : State) : OutKeeps s (execTraceSample core s) := by
  unfold execTraceSample
  split
  · exact outKeeps_same s
  · exact outKeeps_ite (fun _ => outKeeps_same s)
      (fun _ => outKeeps_next ((keeps_traceRecord ..).after (.of_eq rfl rfl)))
theorem keeps_execRollback (r : ImageUse) (s : State) : OutKeeps s (execRollback r s) :=
  outKeeps_next (.ite (fun _ => .refl s) (fun _ => (keeps_rollBack ..).after (runHalted_leaves ..).keeps))
theorem keeps_execCheckpointFormation (fn : Nat) (s : State) : OutKeeps s (execCheckpointFormation fn s) := by
  unfold execCheckpointFormation
  split
  · exact outKeeps_same s
  · refine outKeeps_ite (fun _ => outKeeps_same s) (fun _ => ?_)
    extract_lets late u
    have hu : Keeps s u := (keeps_formCkpt fn s).then (chooseObject_leaves ..)
    clear_value u
    exact outKeeps_ite (fun _ => outKeeps_next (hu.then (by simp))) (fun _ => outKeeps_ite
      (fun _ => outKeeps_next ((keeps_closeIfDue ..).after (hu.then (switchOut_leaves ..)))) (fun _ => outKeeps_next hu))
theorem keeps_execCheckpointLapse (fn : Nat) (s : State) : OutKeeps s (execCheckpointLapse fn s) := by
  unfold execCheckpointLapse
  split
  · exact outKeeps_same s
  · extract_lets late s1 s2
    have h1 : Leaves s s1 := by simp [s1]
    have h2 : Leaves s1 s2 := by unfold s2; split <;> simp
    have hu : Keeps s s2 := h1.keeps.then h2
    clear_value s2
    exact outKeeps_ite (fun _ => outKeeps_next (hu.then (by simp))) (fun _ => outKeeps_ite
      (fun _ => outKeeps_next ((keeps_closeIfDue ..).after ((hu.trans (keeps_rollBack ..)).then (switchOut_leaves ..))))
      (fun _ => outKeeps_next hu))

end Sys2Proof.Machine
end
section
/-! SUPPORT. The host's writes, the Foreman's queues and the device's own management keep device memory in its canonical form
and leave the boot store. -/

namespace Sys2Proof.Machine

/-! ### Faults, restores, recording -/

@[simp] theorem countError_leaves (u : Nat) (corrected : Bool) (s : State) : Leaves s (countError u corrected s) :=
  ⟨rfl, rfl⟩
@[simp] theorem wgParity_leaves (wg code : Nat) (s : State) : Leaves s (wgParity wg code s) :=
  by unfold wgParity; split <;> simp
@[simp] theorem parityError_leaves (site : ErrorSite) (s : State) : Leaves s (parityError site s) :=
  by unfold parityError; (repeat' split) <;> simp
@[simp] theorem haltRetired_leaves (fn : Nat) (s : State) : Leaves s (haltRetired fn s) :=
  by unfold haltRetired; dsimp only; (repeat' split) <;> simp
@[simp] theorem linkFault_leaves (cid : Nat) (s : State) : Leaves s (linkFault cid s) :=
  by simp [linkFault, foldl_mem, foldl_boot]
@[simp] theorem takeFlit_leaves (die : Nat) (f : BitVec 256) (s : State) : Leaves s (takeFlit die f s) :=
  by unfold takeFlit; dsimp only; (repeat' split) <;> simp
@[simp] theorem deliverFlit_leaves (die lane : Nat) (f : BitVec 256) (s : State) :
    Leaves s (deliverFlit die lane f s) := ⟨rfl, rfl⟩
@[simp] theorem replayFlit_leaves (die lane : Nat) (f : BitVec 256) (s : State) :
    Leaves s (replayFlit die lane f s) := by unfold replayFlit; dsimp only; (repeat' split) <;> simp
@[simp] theorem tryAgain_leaves (k : Nat) (s : State) : Leaves s (tryAgain k s) := ⟨rfl, rfl⟩

theorem keeps_execRestore (fn : Nat) (sound : Bool) (s : State) : OutKeeps s (execRestore fn sound s) := by
  unfold execRestore
  refine outKeeps_ite (fun _ => outKeeps_same s) (fun _ => ?_)
  split
  · exact outKeeps_same s
  · dsimp only
    split
    · exact outKeeps_next (.of_eq (by simp) (by simp))
    · refine outKeeps_next (Keeps.trans ((keeps_install ..).after (.of_eq ?_ ?_)) (.of_eq rfl rfl)) <;> simp
theorem keeps_execContextFault (fn code unit : Nat) (s : State) : OutKeeps s (execContextFault fn code unit s) := by
  refine outKeeps_next (.ite (fun _ => .refl s) (fun _ => Leaves.keeps ?_))
  dsimp only
  split
  · cases faultUnit s fn unit <;> simp
  · simp
theorem keeps_execPartitionHalted (fn : Nat) (s : State) : OutKeeps s (execPartitionHalted fn s) := by
  unfold execPartitionHalted
  split
  · exact outKeeps_same s
  · refine outKeeps_ite (fun _ => outKeeps_same s) (fun _ => ?_)
    extract_lets s1 epoch s2 s3
    have h1 : Keeps s s1 := (keeps_stopUnits fn s).then (by simp [s1])
    have h2 : Leaves s1 s2 := by unfold s2; split <;> simp
    exact outKeeps_next ((keeps_closeIfDue ..).after ((h1.then h2).trans (.of_eq rfl rfl)))
theorem keeps_execSliceTagError (slice set : Nat) (lines : List Nat) (s : State) :
    OutKeeps s (execSliceTagError slice set lines s) := by
  unfold execSliceTagError
  extract_lets v here dirty s1 s2
  have h1 : Leaves s s1 := by simp [s1]
  have h2 : Keeps s1 s2 := keeps_foldl (fun _ _ => keeps_freeLine ..) _ _
  clear_value s1 s2
  refine outKeeps_ite (fun _ => outKeeps_next h1.keeps) (fun _ => outKeeps_next ((h1.keeps.trans h2).then ?_))
  exact leaves_foldl (fun _ _ => by dsimp only; split <;> simp) _ _
theorem keeps_execRecordStart (fn : Nat) (area : DWord) (s : State) : OutKeeps s (execRecordStart fn area s) :=
  outKeeps_next (keeps_viaMgmt (.of_eq rfl rfl))
theorem keeps_execReplayStart (r : ImageUse) (older : Bool) (s : State) : OutKeeps s (execReplayStart r older s) := by
  refine outKeeps_next (keeps_viaMgmt ?_)
  dsimp only
  split
  · exact keeps_replayFrom ..
  · exact keeps_replayFrom ..
  · exact .refl s

/-! ### Control writes and queues (R389, R397, R399) -/

theorem keeps_control (fn : Nat) {act : State → State} {s : State} (h : Keeps s (act s)) : OutKeeps s (control fn act s) :=
  outKeeps_ite (fun _ => outKeeps_same s)
    (fun _ => outKeeps_ite (fun _ => outKeeps_next (setStat_leaves ..).keeps) (fun _ => outKeeps_next h))
theorem keeps_execQueueCreate (fn q : Nat) (s : State) : OutKeeps s (execQueueCreate fn q s) :=
  keeps_control fn (keeps_createQueue ..)
theorem keeps_execQueueDestroy (fn q : Nat) (s : State) : OutKeeps s (execQueueDestroy fn q s) := by
  unfold execQueueDestroy
  dsimp only
  split
  · exact keeps_control fn (setStat_leaves ..).keeps
  · exact outKeeps_ite (fun _ => outKeeps_next (.of_eq (by simp) (by simp)))
      (fun _ => keeps_control fn (.of_eq (by simp) (by simp)))
theorem keeps_execQueueReset (fn q : Nat) (s : State) : OutKeeps s (execQueueReset fn q s) :=
  keeps_control fn (keeps_resetQueue ..)
theorem keeps_execContextTearDown (fn : Nat) (s : State) : OutKeeps s (execContextTearDown fn s) :=
  keeps_control fn (Keeps.then (.ite (fun _ => keeps_tearDown ..) (fun _ => .refl s)) (setStat_leaves ..))
theorem keeps_execContextRollBack (r : ImageUse) (s : State) : OutKeeps s (execContextRollBack r s) :=
  keeps_control r.fn (.ite (fun _ => (setStat_leaves ..).keeps)
    (fun _ => ((keeps_rollBack ..).after (runHalted_leaves ..).keeps).then (setStat_leaves ..)))
theorem keeps_execContextStart (fn : Nat) (s : State) : OutKeeps s (execContextStart fn s) :=
  keeps_control fn (.ite (fun _ => (setStat_leaves ..).keeps) (fun _ => (keeps_startContext ..).then (setStat_leaves ..)))
theorem keeps_execTlbinvPage (fn page : Nat) (s : State) : OutKeeps s (execTlbinvPage fn page s) :=
  keeps_control fn (.of_eq (by simp) (by simp))
theorem keeps_execTlbinvAll (fn : Nat) (s : State) : OutKeeps s (execTlbinvAll fn s) :=
  keeps_control fn (.of_eq (by simp) (by simp))
theorem keeps_execAppendConsume (fn q : Nat) (s : State) : OutKeeps s (execAppendConsume fn q s) := by
  unfold execAppendConsume
  split
  · exact outKeeps_same s
  next v _ =>
    refine outKeeps_ite (fun _ => outKeeps_same s) (fun _ => outKeeps_ite (fun _ => outKeeps_next (keeps_blockForeman ..))
      (fun _ => outKeeps_ite (fun _ => outKeeps_next (keeps_queueError ..)) (fun _ => ?_)))
    have hread := slotNote_leaves v v.consumer s
    generalize slotNote v v.consumer s = u at hread ⊢
    split
    next h => exact outKeeps_next ((keeps_queueError ..).after hread.keeps)
    · exact outKeeps_ite (fun _ => outKeeps_next ((keeps_takeRecord ..).after hread.keeps))
        (fun _ => outKeeps_next (hread.keeps.then (by simp)))
theorem keeps_execStampReread (fn q : Nat) (s : State) : OutKeeps s (execStampReread fn q s) := by
  unfold execStampReread
  split
  · exact outKeeps_same s
  next v _ =>
    refine outKeeps_ite (fun _ => outKeeps_same s) (fun _ => ?_)
    have hread := slotNote_leaves v v.consumer s
    generalize slotNote v v.consumer s = u at hread ⊢
    split
    · exact outKeeps_next ((keeps_queueError ..).after hread.keeps)
    · exact outKeeps_ite (fun _ => outKeeps_next ((keeps_takeRecord ..).after (hread.keeps.trans (.of_eq rfl rfl))))
        (fun _ => outKeeps_ite (fun _ => outKeeps_next ((keeps_queueError ..).after hread.keeps))
          (fun _ => outKeeps_next (hread.keeps.trans (.of_eq rfl rfl))))

/-! ### Management (R392, R393, R420) -/

@[simp] theorem noteOutside_leaves (core reg old : Nat) (s : State) : Leaves s (noteOutside core reg old s) := by
  unfold noteOutside; split <;> simp
theorem keeps_execPoolcfgWrite (core : Nat) (value : Word) (s : State) : OutKeeps s (execPoolcfgWrite core value s) :=
  outKeeps_next (keeps_viaMgmt (writePoolcfg_leaves ..).keeps)
theorem keeps_execPoolwaitWrite (core : Nat) (value : Word) (s : State) : OutKeeps s (execPoolwaitWrite core value s) :=
  outKeeps_next (keeps_viaMgmt (Leaves.keeps (by simp)))
theorem keeps_execBarstallWrite (core : Nat) (value : Word) (s : State) : OutKeeps s (execBarstallWrite core value s) :=
  outKeeps_next (keeps_viaMgmt (Leaves.keeps (by simp)))
theorem keeps_execCkptintWrite (fn : Nat) (value : Word) (s : State) : OutKeeps s (execCkptintWrite fn value s) :=
  outKeeps_next (keeps_viaMgmt (writeCkptint_leaves ..).keeps)
theorem keeps_execTracestatWrite (fn : Nat) (value : DWord) (s : State) : OutKeeps s (execTracestatWrite fn value s) :=
  outKeeps_next (keeps_viaMgmt (writeTracestat_leaves ..).keeps)
theorem keeps_execHypTlbinv (fn page : Nat) (all : Bool) (s : State) : OutKeeps s (execHypTlbinv fn page all s) :=
  outKeeps_next (keeps_viaMgmt (dropTlb_leaves ..).keeps)
theorem keeps_execVfctlWrite (fn : Nat) (value : DWord) (s : State) : OutKeeps s (execVfctlWrite fn value s) :=
  outKeeps_next (keeps_viaMgmt (keeps_writeVfctl ..))
theorem keeps_execVfbandWrite (fn : Nat) (value : Word) (s : State) : OutKeeps s (execVfbandWrite fn value s) :=
  outKeeps_next (keeps_viaMgmt (writeVfband_leaves ..).keeps)
theorem Leaves.ite {s a b : State} {c : Prop} [Decidable c] (ha : c → Leaves s a) (hb : ¬ c → Leaves s b) :
    Leaves s (if c then a else b) := by
  split
  · exact ha ‹_›
  · exact hb ‹_›
@[simp] theorem mgmtSysWrite_leaves (inst num : Nat) (value : DWord) (s : State) :
    Leaves s (mgmtSysWrite inst num value s) := by
  unfold mgmtSysWrite
  extract_lets w frame half
  have hframe : ∀ f, Leaves s (frame f) := by
    intro f
    unfold frame
    split
    · exact ⟨rfl, rfl⟩
    · split
      · exact ⟨rfl, rfl⟩
      · simp
  have hhalf : ∀ hi lo, Leaves s (half hi lo) := fun hi lo => hframe _
  clear_value half frame
  (repeat' refine Leaves.ite (fun _ => ?_) (fun _ => ?_)) <;> simp [hframe, hhalf]
@[simp] theorem writeMgmt_leaves (offset : Nat) (value : DWord) (s : State) : Leaves s (writeMgmt offset value s) :=
  by unfold writeMgmt; (repeat' split) <;> simp
theorem keeps_execMgmtRegisterWrite (offset : Nat) (value : DWord) (s : State) :
    OutKeeps s (execMgmtRegisterWrite offset value s) := outKeeps_next (keeps_viaMgmt (writeMgmt_leaves ..).keeps)
theorem keeps_execRbcmdWrite (value : DWord) (s : State) : OutKeeps s (execRbcmdWrite value s) := by
  refine outKeeps_next (keeps_viaMgmt (.ite (fun _ => .refl s) (fun _ => ?_)))
  split <;> exact .of_eq (by simp) (by simp)

/-! ### Page requests, health, loops, the die link, SPDM (R209, R406, R410, R422, R423) -/

@[simp] theorem takeEntry_leaves (die fn stage page va kind : Nat) (s : State) :
    Leaves s (takeEntry die fn stage page va kind s).2 := by
  unfold takeEntry; dsimp only; (repeat' split) <;> simp
theorem leaves_retryThreads (die part : Nat) (l : List Nat) (s : State) : Leaves s (retryThreads die part l s) := by
  induction l generalizing s with
  | nil => exact ⟨rfl, rfl⟩
  | cons k l ih =>
    have step : ∀ u, Leaves s u → Leaves s (retryThreads die part l u) := fun u h =>
      ⟨(ih u).1.trans h.1, (ih u).2.trans h.2⟩
    unfold retryThreads
    dsimp only
    split
    · exact step _ ⟨rfl, rfl⟩
    next t _ =>
      split
      next va kind _ =>
        split
        · exact step _ ⟨rfl, rfl⟩
        next stage page _ =>
          have hentry := takeEntry_leaves die t.fn stage page va kind s
          generalize takeEntry die t.fn stage page va kind s = p at hentry ⊢
          obtain ⟨_ | e, u⟩ := p
          · exact hentry
          · exact step _ hentry
      · exact step _ ⟨rfl, rfl⟩
theorem keeps_execPageRequestComplete (die entry : Nat) (s : State) : OutKeeps s (execPageRequestComplete die entry s) := by
  unfold execPageRequestComplete
  split
  · exact outKeeps_same s
  · extract_lets s1 free g s2 l s3
    have h3 : Leaves s2 s3 := leaves_foldl (fun _ _ => by exact ⟨rfl, rfl⟩) _ _
    have h2 : Leaves s s2 := ⟨rfl, rfl⟩
    clear_value s2 s3
    exact outKeeps_next ((h2.keeps.then h3).then (leaves_foldl (fun _ _ => leaves_retryThreads ..) _ _))
theorem keeps_execErrorDetected (unit : Nat) (error : ErrorSeen) (s : State) : OutKeeps s (execErrorDetected unit error s) :=
  outKeeps_next (.of_eq (by simp) (by simp))
theorem keeps_execSelfTestBegin (unit : Nat) (s : State) : OutKeeps s (execSelfTestBegin unit s) :=
  outKeeps_next (.ite (fun _ => .of_eq rfl rfl) (fun _ => .refl s))
theorem leaves_retireUnit (u : Nat) (s : State) : Leaves s (retireUnit u s) := by
  unfold retireUnit
  extract_lets named s1 s2 s3
  have h1 : Leaves s s1 := leaves_foldl (fun _ _ => haltRetired_leaves ..) _ _
  have h2 : Leaves s1 s2 := ⟨rfl, rfl⟩
  have h3 : Leaves s2 s3 := by
    have hfold : Leaves s2 ((unitSections u).foldl (fun s i => s.modSect i (fun q => { q with retired := true })) s2) :=
      leaves_foldl (fun _ _ => by exact ⟨rfl, rfl⟩) _ _
    simp [s3, hfold.1, hfold.2]
  clear_value s1 s2 s3
  split <;> simp [h1.1, h1.2, h2.1, h2.2, h3.1, h3.2]
theorem keeps_execSelfTestEnd (unit : Nat) (lasting : Bool) (s : State) : OutKeeps s (execSelfTestEnd unit lasting s) :=
  outKeeps_ite (fun _ => outKeeps_same s) (fun _ => outKeeps_ite
    (fun _ => outKeeps_next ((leaves_retireUnit ..).after (.of_eq rfl rfl))) (fun _ => outKeeps_next (.of_eq rfl rfl)))
theorem keeps_execLoopSetpointWrite (offset : Nat) (value : DWord) (s : State) :
    OutKeeps s (execLoopSetpointWrite offset value s) :=
  outKeeps_next (keeps_viaMgmt (.ite (fun _ => .refl s) (fun _ => (freeClocks_leaves ..).after (.of_eq rfl rfl))))
theorem leaves_loopWrite (loop core fn : Nat) (v : Word) (s : State) : Leaves s (loopWrite loop core fn v s) := by
  unfold loopWrite
  extract_lets c stall old s1
  have h1 : Leaves s s1 := by unfold s1; split <;> simp
  clear_value s1
  exact .ite (fun _ => ⟨rfl, rfl⟩) (fun _ => h1)
theorem keeps_execAdaptiveLoopAction (loop : Nat) (value : DWord) (s : State) :
    OutKeeps s (execAdaptiveLoopAction loop value s) := by
  unfold execAdaptiveLoopAction
  dsimp only
  refine outKeeps_ite (fun _ => outKeeps_same s) (fun _ => outKeeps_ite (fun _ => outKeeps_next (.of_eq rfl rfl)) (fun _ => ?_))
  split
  · exact outKeeps_same s
  · exact outKeeps_next (leaves_loopWrite ..).keeps
theorem keeps_execBluordFlit (die lane : Nat) (flit : Flit) (s : State) : OutKeeps s (execBluordFlit die lane flit s) :=
  outKeeps_ite (fun _ => outKeeps_same s) (fun _ => outKeeps_ite (fun _ => outKeeps_next (.of_eq (by simp) (by simp)))
    (fun _ => outKeeps_next (replayFlit_leaves ..).keeps))
theorem keeps_respond (code : Nat) (algs : List SpdmAlg) (blocks : List Byte → List (Nat × List Byte)) (ok : Bool)
    (next : Spdm → Spdm) (s : State) : OutKeeps s (respond code algs blocks ok next s) := by
  unfold respond
  split
  · exact outKeeps_same s
  · exact outKeeps_ite (fun _ => outKeeps_next (.of_eq rfl rfl)) (fun _ => outKeeps_next (.of_eq rfl rfl))

theorem keeps_execFirmwareHandoverCommit (s : State) : OutKeeps s (execFirmwareHandoverCommit s) := by
  unfold execFirmwareHandoverCommit; split <;> exact outKeeps_next (.of_eq rfl rfl)

/-! ### Steps that have one case each -/

theorem keeps_execOperandCacheFill (thread reg : Nat) (s : State) : OutKeeps s (execOperandCacheFill thread reg s) := by
  unfold execOperandCacheFill
  (repeat' split) <;> exact outKeeps_next (.of_eq (by simp) (by simp))
theorem keeps_execIllegalInstruction (word : DWord) (s : State) : OutKeeps s (execIllegalInstruction word s) :=
  outKeeps_next (trapEncoding_leaves ..).keeps
theorem keeps_execFetchFault (first : Nat) (recoverable : Bool) (kind : Nat) (s : State) :
    OutKeeps s (execFetchFault first recoverable kind s) := by
  unfold execFetchFault
  refine outKeeps_ite (fun _ => ?_) (fun _ => outKeeps_next (trapAll_leaves ..).keeps)
  extract_lets bundle u
  have hu : Leaves s u := by
    unfold u
    exact leaves_foldl (fun _ _ => by split <;> simp) _ _
  clear_value u
  exact outKeeps_next (hu.keeps.then (by simp))
theorem keeps_execClaimRelease (id : Nat) (s : State) : OutKeeps s (execClaimRelease id s) := by
  unfold execClaimRelease
  dsimp only
  (repeat' split) <;> exact outKeeps_next (.of_eq (by simp) (by simp))
theorem keeps_execLoadDataReturn (id : Nat) (s : State) : OutKeeps s (execLoadDataReturn id s) := by
  unfold execLoadDataReturn
  dsimp only
  (repeat' split) <;> exact outKeeps_next (.of_eq (by simp) (by simp))
theorem keeps_execPoolGrant (core : Nat) (s : State) : OutKeeps s (execPoolGrant core s) := by
  unfold execPoolGrant
  dsimp only
  (repeat' split) <;> exact outKeeps_next (.of_eq (by simp) (by simp))
theorem keeps_execPoolWaitTimeout (core thread : Nat) (s : State) : OutKeeps s (execPoolWaitTimeout core thread s) := by
  unfold execPoolWaitTimeout
  dsimp only
  (repeat' split) <;> exact outKeeps_next (.of_eq (by simp) (by simp))
theorem keeps_execBarrierStall (wg bar : Nat) (s : State) : OutKeeps s (execBarrierStall wg bar s) := by
  unfold execBarrierStall
  dsimp only
  (repeat' split) <;> exact outKeeps_next (.of_eq (by simp) (by simp))
theorem keeps_execCollectiveStall (wg warp : Nat) (pc : DWord) (s : State) : OutKeeps s (execCollectiveStall wg warp pc s) := by
  unfold execCollectiveStall
  dsimp only
  (repeat' split) <;> exact outKeeps_next (.of_eq (by simp) (by simp))
theorem keeps_execHgetStall (thread : Nat) (s : State) : OutKeeps s (execHgetStall thread s) := by
  unfold execHgetStall
  dsimp only
  (repeat' split) <;> exact outKeeps_next (.of_eq (by simp) (by simp))
theorem keeps_execPauseExpiry (thread : Nat) (s : State) : OutKeeps s (execPauseExpiry thread s) := by
  unfold execPauseExpiry
  (repeat' split) <;> exact outKeeps_next (.of_eq (by simp) (by simp))
theorem keeps_execRegroupBoundary (core : Nat) (s : State) : OutKeeps s (execRegroupBoundary core s) := by
  unfold execRegroupBoundary
  dsimp only
  (repeat' split) <;> exact outKeeps_next (.of_eq (by simp) (by simp))
theorem keeps_execSigningRoundComplete (sect cn : Nat) (s : State) : OutKeeps s (execSigningRoundComplete sect cn s) :=
  outKeeps_next (settleRound_leaves ..).keeps
theorem keeps_execSigningRoundDiscard (sect cn : Nat) (s : State) : OutKeeps s (execSigningRoundDiscard sect cn s) := by
  unfold execSigningRoundDiscard
  dsimp only
  (repeat' split) <;> exact outKeeps_next (.of_eq (by simp) (by simp))
theorem keeps_execVswptStall (wg : Nat) (s : State) : OutKeeps s (execVswptStall wg s) := by
  unfold execVswptStall
  dsimp only
  (repeat' split) <;> exact outKeeps_next (.of_eq (by simp) (by simp))
theorem keeps_execDownRequest (core : Nat) (s : State) : OutKeeps s (execDownRequest core s) := by
  unfold execDownRequest
  dsimp only
  (repeat' split) <;> exact outKeeps_next (.of_eq (by simp) (by simp))
theorem keeps_execUpRequest (core : Nat) (s : State) : OutKeeps s (execUpRequest core s) := by
  unfold execUpRequest
  dsimp only
  (repeat' split) <;> exact outKeeps_next (.of_eq (by simp) (by simp))
theorem keeps_execIdleWake (thread : Nat) (s : State) : OutKeeps s (execIdleWake thread s) := by
  unfold execIdleWake
  (repeat' split) <;> exact outKeeps_next (.of_eq (by simp) (by simp))
theorem keeps_execCheckpointRequest (fn : Nat) (s : State) : OutKeeps s (execCheckpointRequest fn s) := by
  unfold execCheckpointRequest
  (repeat' split) <;> exact outKeeps_next (.of_eq (by simp) (by simp))
theorem keeps_execForcedCheckpoint (fn : Nat) (s : State) : OutKeeps s (execForcedCheckpoint fn s) := by
  unfold execForcedCheckpoint
  (repeat' split) <;> exact outKeeps_next (.of_eq (by simp) (by simp))
theorem keeps_execDebugBreakpoint (core : Nat) (s : State) : OutKeeps s (execDebugBreakpoint core s) := by
  unfold execDebugBreakpoint
  (repeat' split) <;> exact outKeeps_next (.of_eq (by simp) (by simp))
theorem keeps_execSliceEnd (fn : Nat) (s : State) : OutKeeps s (execSliceEnd fn s) := by
  unfold execSliceEnd
  (repeat' split) <;> exact outKeeps_next (.of_eq (by simp) (by simp))
theorem keeps_execForemanTimer (hw : Nat) (s : State) : OutKeeps s (execForemanTimer hw s) := by
  unfold execForemanTimer
  dsimp only
  (repeat' split) <;> exact outKeeps_next (.of_eq (by simp) (by simp))
theorem keeps_execReadbackDeliver (s : State) : OutKeeps s (execReadbackDeliver s) := by
  unfold execReadbackDeliver
  dsimp only
  (repeat' split) <;> exact outKeeps_next (.of_eq (by simp) (by simp))

end Sys2Proof.Machine
end
section
/-! SUPPORT. What every instruction and every step keeps: device memory in the model's canonical form and the count of failed
starts at three or less (R421). -/

namespace Sys2Proof.Machine

/-- The device steps that write the boot store. -/
def touchesBoot : Instr → Bool
  | .start _ | .startTimeout | .bootcmdWrite _ => true
  | _ => false

/-- Every other instruction and device step keeps memory's form and leaves the boot store. -/
theorem keeps_exec (s : State) (i : Instr) (h : touchesBoot i = false) : OutKeeps s (exec i s) := by
  cases i with
  | iadd | isub | iaddc | isubb | imul | imulh | imad | imadw | imin | imax | iabs | ineg | and | or | xor | andn
  | orn | blut | shl | shr | sar | dsh | bfx | bfi | popc | clz | brev | prmb | icmp | sel | mov | movi | lea
  | plog | pget | pset | nop | ocfil | ocdrop | fcls | bpack | bpext | trap | bkpt
  | csumr => exact outKeeps_plain (fun _ _ _ _ => by exact ⟨rfl, rfl⟩) s
  | idiv | irem => exact outKeeps_plain (divBody_leaves _ _) s
  | movs => exact keeps_execMovs ..
  | bra | brx | ret => exact outKeeps_plain (fun _ _ _ _ => branchTo_leaves ..) s
  | call | callx => exact outKeeps_plain (fun _ _ _ _ => linked_leaves _ _ (branchTo_leaves ..)) s
  | loop f => exact outKeeps_plain (loopBody_leaves f) s
  | endl => exact outKeeps_plain endlBody_leaves s
  | exit => exact keeps_execExit ..
  | fgrow => exact keeps_execFgrow ..
  | fshrk => exact keeps_execFshrk ..
  | ocsync => exact keeps_execOcsync ..
  | pairWord => exact keeps_execPairWord ..
  | fadd | fsub | fmul | ffma | fdiv | dadd | dmul | dfma | pkadd | pkmul | pkfma | fmin | fmax
  | frcp | frsq | fsqrt | fex2 | flg2 | fsin | fcos | frnd | f2i | i2f | f2f
  | sclq => exact outKeeps_plain (fun _ _ _ _ => (fpDone_all ..).mpr ⟨rfl, rfl⟩) s
  | fcmp f | dcmp f => exact outKeeps_plain (fcmpBody_leaves f) s
  | ld f => exact outKeeps_plain (ldBody_leaves f) s
  | st f => exact outKeeps_plain (stBody_leaves f) s
  | atom | acas | red => exact outKeeps_plain (fun _ _ _ _ => issueWrite_leaves ..) s
  | fence => exact keeps_execFence ..
  | fenceCode => exact keeps_execFenceCode ..
  | pref => exact keeps_execPref ..
  | ldem => exact keeps_execLdem ..
  | pgrow => exact keeps_execPgrow ..
  | pshrk => exact keeps_execPshrk ..
  | pqry => exact keeps_execPqry ..
  | rclean => exact keeps_execRclean ..
  | rinv => exact keeps_execRinv ..
  | bar f | bara f => exact outKeeps_answer (keeps_arriveBody f _) s
  | barw => exact keeps_execBarw ..
  | pcoll | lxch | matchLanes => exact outKeeps_plain (fun _ _ _ _ => collArrive_leaves ..) s
  | redh f => exact outKeeps_plain (redhBody_leaves f) s
  | hget f => exact outKeeps_plain (hgetBody_leaves f) s
  | pause => exact keeps_execPause ..
  | suspend => exact keeps_execSuspend ..
  | evadd => exact keeps_execEvadd ..
  | evget => exact keeps_execEvget ..
  | cdecl f => exact outKeeps_answer (keeps_cdeclBody f) s
  | acp f => exact outKeeps_plain (acpBody_leaves f) s
  | tagw => exact keeps_execTagw ..
  | cpy => exact keeps_execCpy ..
  | wptr => exact keeps_execWptr ..
  | scpy | mldw | mswp | mmul | mout | mzero => exact outKeeps_answer (fun _ _ _ _ => keeps_signBody ..) s
  | qfence => exact keeps_execQfence ..
  | guard => exact keeps_execGuard ..
  | gres => exact keeps_execGres ..
  | wait => exact keeps_execWait ..
  | tkpush f => exact outKeeps_plain (tkpushBody_leaves f) s
  | tkpop => exact keeps_execTkpop ..
  | tkdone => exact keeps_execTkdone ..
  | sqcfg f | sqsig f | sqcmp f | sqmap f | sqstep f => exact outKeeps_answer (keeps_sqPush f _) s
  | vswpt f => exact outKeeps_answer (keeps_vswptBody f) s
  | tret => exact outKeeps_plain tretBody_leaves s
  | ckpt => exact keeps_execCkpt ..
  | srd => exact keeps_execSrd ..
  | swr => exact keeps_execSwr ..
  | barstallWrite => exact keeps_execBarstallWrite ..
  | poolwaitWrite => exact keeps_execPoolwaitWrite ..
  | ckptintWrite => exact keeps_execCkptintWrite ..
  | poolcfgWrite => exact keeps_execPoolcfgWrite ..
  | tracestatWrite => exact keeps_execTracestatWrite ..
  | tmark => exact keeps_execTmark ..
  | idle => exact keeps_execIdle ..
  | nput f | nget f | nsig f => exact outKeeps_plain (netBody_leaves f _) s
  | nwait => exact outKeeps_plain nwaitBody_leaves s
  | loadDataReturn => exact keeps_execLoadDataReturn ..
  | storeAcknowledge => exact keeps_execStoreAcknowledge ..
  | homeSliceAccess => exact keeps_execHomeSliceAccess ..
  | operandCacheFill => exact keeps_execOperandCacheFill ..
  | regroupBoundary => exact keeps_execRegroupBoundary ..
  | pauseExpiry => exact keeps_execPauseExpiry ..
  | idleWake => exact keeps_execIdleWake ..
  | barrierStall => exact keeps_execBarrierStall ..
  | collectiveStall => exact keeps_execCollectiveStall ..
  | hgetStall => exact keeps_execHgetStall ..
  | vswptStall => exact keeps_execVswptStall ..
  | signingRoundComplete => exact keeps_execSigningRoundComplete ..
  | signingRoundDiscard => exact keeps_execSigningRoundDiscard ..
  | poolGrant => exact keeps_execPoolGrant ..
  | poolWaitTimeout => exact keeps_execPoolWaitTimeout ..
  | claimRelease => exact keeps_execClaimRelease ..
  | workgroupPlacement => exact keeps_execWorkgroupPlacement ..
  | launchAdmission => exact keeps_execLaunchAdmission ..
  | downRequest => exact keeps_execDownRequest ..
  | upRequest => exact keeps_execUpRequest ..
  | quadrantTenureGrant => exact keeps_execQuadrantTenureGrant ..
  | pageRequestComplete => exact keeps_execPageRequestComplete ..
  | commandComplete => exact keeps_execCommandComplete ..
  | cpyCommand => exact keeps_execCpyCommand ..
  | acpCommand => exact keeps_execAcpCommand ..
  | scpyCommand => exact keeps_execScpyCommand ..
  | mldwCommand => exact keeps_execMldwCommand ..
  | mswpCommand => exact keeps_execMswpCommand ..
  | mmulCommand => exact keeps_execMmulCommand ..
  | moutCommand => exact keeps_execMoutCommand ..
  | mzeroCommand => exact keeps_execMzeroCommand ..
  | fusedCommandJoin => exact keeps_execFusedCommandJoin ..
  | sqcfgCommand => exact keeps_execSqcfgCommand ..
  | sqsigCommand => exact keeps_execSqsigCommand ..
  | sqcmpCommand => exact keeps_execSqcmpCommand ..
  | sqstepCommand => exact keeps_execSqstepCommand ..
  | sqmapCommand => exact keeps_execSqmapCommand ..
  | tkpushCommand => exact keeps_execTkpushCommand ..
  | tkpopCommand => exact keeps_execTkpopCommand ..
  | tkdoneCommand => exact keeps_execTkdoneCommand ..
  | nputCommand => exact keeps_execNputCommand ..
  | ngetCommand => exact keeps_execNgetCommand ..
  | nsigCommand => exact keeps_execNsigCommand ..
  | checkpointRequest => exact keeps_execCheckpointRequest ..
  | forcedCheckpoint => exact keeps_execForcedCheckpoint ..
  | checkpointFormation => exact keeps_execCheckpointFormation ..
  | checkpointLapse => exact keeps_execCheckpointLapse ..
  | debugBreakpoint => exact keeps_execDebugBreakpoint ..
  | sliceEnd => exact keeps_execSliceEnd ..
  | rollback => exact keeps_execRollback ..
  | restore => exact keeps_execRestore ..
  | residueDrain => exact keeps_execResidueDrain ..
  | contextFault => exact keeps_execContextFault ..
  | partitionHalted => exact keeps_execPartitionHalted ..
  | sliceTagError => exact keeps_execSliceTagError ..
  | traceSample => exact keeps_execTraceSample ..
  | replayStart => exact keeps_execReplayStart ..
  | recordStart => exact keeps_execRecordStart ..
  | notifyWrite => exact keeps_execNotifyWrite ..
  | appendConsume => exact keeps_execAppendConsume ..
  | stampReread => exact keeps_execStampReread ..
  | foremanTimer => exact keeps_execForemanTimer ..
  | queueCreate => exact keeps_execQueueCreate ..
  | queueDestroy => exact keeps_execQueueDestroy ..
  | queueReset => exact keeps_execQueueReset ..
  | contextTearDown => exact keeps_execContextTearDown ..
  | contextRollBack => exact keeps_execContextRollBack ..
  | contextStart => exact keeps_execContextStart ..
  | tlbinvPage => exact keeps_execTlbinvPage ..
  | tlbinvAll => exact keeps_execTlbinvAll ..
  | hypTlbinv fn page all => exact keeps_execHypTlbinv fn page all s
  | vfctlWrite => exact keeps_execVfctlWrite ..
  | vfbandWrite => exact keeps_execVfbandWrite ..
  | mgmtRegisterWrite => exact keeps_execMgmtRegisterWrite ..
  | bandwidthWindow | firmwareHandoverLoad => exact outKeeps_next (.of_eq rfl rfl)
  | inboundRmaWrite => exact keeps_execInboundRmaWrite ..
  | inboundRmaRead => exact keeps_execInboundRmaRead ..
  | inboundAtomic => exact keeps_execInboundAtomic ..
  | bluordFlit => exact keeps_execBluordFlit ..
  | errorDetected => exact keeps_execErrorDetected ..
  | selfTestBegin => exact keeps_execSelfTestBegin ..
  | selfTestEnd => exact keeps_execSelfTestEnd ..
  | loopSetpointWrite => exact keeps_execLoopSetpointWrite ..
  | rbcmdWrite => exact keeps_execRbcmdWrite ..
  | illegalInstruction => exact keeps_execIllegalInstruction ..
  | fetchFault => exact keeps_execFetchFault ..
  | peerResponse => exact keeps_execPeerResponse ..
  | transferAbandoned => exact keeps_execTransferAbandoned ..
  | undoEntryAccepted => exact keeps_execUndoEntryAccepted ..
  | adaptiveLoopAction => exact keeps_execAdaptiveLoopAction ..
  | spdmGetVersion | spdmGetCapabilities | spdmNegotiateAlgorithms | spdmGetDigests | spdmGetCertificate
  | spdmChallenge | spdmGetMeasurements | spdmKeyExchange | spdmFinish | spdmEndSession =>
    simp only [exec, execSpdmGetVersion, execSpdmGetCapabilities, execSpdmNegotiateAlgorithms, execSpdmGetDigests,
      execSpdmGetCertificate, execSpdmChallenge, execSpdmGetMeasurements, execSpdmKeyExchange, execSpdmFinish,
      execSpdmEndSession, keeps_respond]
  | firmwareHandoverCommit => exact keeps_execFirmwareHandoverCommit ..
  | readbackDeliver => exact keeps_execReadbackDeliver ..
  | start | startTimeout | bootcmdWrite => cases h

end Sys2Proof.Machine
end
section
/-! SUPPORT. Starts, the cycles of a partition and every turn keep the invariant; O59. -/

namespace Sys2Proof.Machine

theorem Keeps.inv {s t : State} (h : Keeps s t) (hs : s.Inv) : t.Inv := by
  obtain ⟨hboot, hmem⟩ := h
  exact ⟨hmem hs.1, by rw [hboot]; exact hs.2⟩
theorem Leaves.trans {s t u : State} (h : Leaves s t) (g : Leaves t u) : Leaves s u := ⟨g.1.trans h.1, g.2.trans h.2⟩
theorem Leaves.inv {s t : State} (h : Leaves s t) (hs : s.Inv) : t.Inv := h.keeps.inv hs

/-! ### Starts (R420, R421) -/

theorem fails_failStart (code : BitVec 8) (b : Boot) : (failStart code b).fails ≤ 3 := Nat.min_le_left ..
@[simp] theorem bringFirmware_leaves (s : State) : Leaves s (bringFirmware s) := ⟨rfl, rfl⟩
@[simp] theorem bringEndpoint_leaves (s : State) : Leaves s (bringEndpoint s) := ⟨rfl, rfl⟩
theorem leaves_bringSections (o : StartOutcome) (s : State) : Leaves s (bringSections o s) := by
  unfold bringSections
  extract_lets u
  have hu : Leaves s u := leaves_foldl (fun _ _ => by exact ⟨rfl, rfl⟩) _ _
  exact Leaves.trans hu (leaves_foldl (fun _ _ => by exact ⟨rfl, rfl⟩) _ _)
theorem mem_bringUp (o : StartOutcome) (done : Nat) (s : State) : (bringUp o done s).mem = s.mem := by
  unfold bringUp
  dsimp only
  (repeat' split) <;> simp [leaves_bringSections]
theorem inv_execStart {o : StartOutcome} {s t : State} (hs : s.Inv) (h : execStart o s = .next t) : t.Inv := by
  have hmem : ∀ n, Memory.wf (bringUp o n (resetAll s)).mem = true := fun n => by rw [mem_bringUp]; rfl
  have hfails : (resetAll s).boot.fails ≤ 3 := hs.2
  unfold execStart at h
  dsimp only at h
  split at h <;> obtain rfl := Host.Outcome.next.inj h
  · refine ⟨hmem 7, ?_⟩
    dsimp only
    split
    · exact hfails
    · exact Nat.zero_le 3
  · refine ⟨hmem _, ?_⟩
    dsimp only
    split
    · exact hfails
    · exact fails_failStart ..
theorem inv_execStartTimeout {s t : State} (hs : s.Inv) (h : execStartTimeout s = .next t) : t.Inv := by
  obtain rfl := Host.Outcome.next.inj h
  split
  · exact ⟨hs.1, fails_failStart ..⟩
  · exact hs
theorem inv_execBootcmdWrite {value : DWord} {s t : State} (hs : s.Inv) (h : execBootcmdWrite value s = .next t) :
    t.Inv := by
  obtain rfl := Host.Outcome.next.inj h
  unfold viaMgmt
  (repeat' split) <;> exact hs
theorem inv_exec {i : Instr} {s t : State} (hs : s.Inv) (h : exec i s = .next t) : t.Inv := by
  by_cases hi : touchesBoot i = false
  · exact ((keeps_exec s i hi).of_next t h).inv hs
  · cases i with
    | start => exact inv_execStart hs h
    | startTimeout => exact inv_execStartTimeout hs h
    | bootcmdWrite => exact inv_execBootcmdWrite hs h
    | _ => exact absurd rfl hi

/-! ### The cycles of a partition (R150, R152) -/

theorem inv_foldl {α : Type} {f : State → α → State} (h : ∀ s a, s.Inv → (f s a).Inv) (l : List α) {s : State}
    (hs : s.Inv) : (l.foldl f s).Inv := by
  induction l generalizing s with
  | nil => exact hs
  | cons a l ih => exact ih (h s a hs)
theorem inv_issue {s : State} {l : List Nat} (hs : s.Inv) : ({ s with issue := l } : State).Inv := hs
theorem inv_stepIn (s : State) (i : Instr) (hs : s.Inv) : (stepIn s i).Inv := by
  unfold stepIn
  split
  next h => exact (splitCores_leaves _).inv (inv_exec (inv_issue hs) h)
  · exact hs
/-- What a slot's turn comes to leaves the invariant: the state that it goes on from. -/
def Issued.Inv : Issued → Prop
  | .nothing => True
  | .trap s | .instr _ s => s.Inv
theorem inv_issueNext {s : State} (core slot : Nat) (hs : s.Inv) : (issueNext core slot s).Inv := by
  unfold issueNext
  split
  · exact Leaves.inv (by simp) hs
  · split
    · trivial
    · split
      · trivial
      · split
        · exact Leaves.inv (by simp) hs
        · exact (fetchBundle_leaves ..).inv hs
theorem inv_slotTurn {s : State} (core slot : Nat) (hs : s.Inv) : (slotTurn core slot s).Inv := by
  have hissue := inv_issueNext core slot hs
  unfold slotTurn
  split
  · exact hs
  next h => rw [h] at hissue; exact hissue
  next h =>
    rw [h] at hissue
    split
    next he => exact inv_exec hissue he
    · exact hissue
theorem inv_runSlot {s : State} (core slot n : Nat) (hs : s.Inv) : (runSlot core slot n s).Inv := by
  induction n generalizing s with
  | zero => exact hs
  | succ n ih =>
    unfold runSlot
    split
    · exact ih (inv_slotTurn core slot hs)
    · exact hs
theorem inv_tryBundle {s : State} (c : Candidate) (hs : s.Inv) : (tryBundle c s).Inv := by
  unfold tryBundle
  split
  · exact hs
  next t _ =>
    split
    · exact hs
    · have hfetch := (fetchBundle_leaves t c.here s).inv hs
      generalize fetchBundle t c.here s = p at hfetch ⊢
      obtain ⟨i, u⟩ := p
      dsimp only
      split
      next he =>
        split
        · exact inv_issue (inv_exec hfetch he)
        · exact hs
      · exact hs
theorem inv_tryRest {s : State} (core : Nat) (hs : s.Inv) : (tryRest core s).Inv := by
  unfold tryRest
  split
  · exact inv_foldl (fun _ c h => inv_tryBundle c h) _ hs
  · exact hs
theorem inv_beginCycle {s : State} (fn : Nat) (hs : s.Inv) : (beginCycle fn s).Inv := by
  unfold beginCycle
  exact inv_foldl (fun s i h => inv_stepIn s i h) _ hs
theorem inv_finishCycle {s : State} (fn : Nat) (hs : s.Inv) : (finishCycle fn s).Inv := by
  unfold finishCycle
  extract_lets cores s1 s2 s3 s4 s5
  have h1 : s1.Inv := inv_foldl (fun s i h => inv_stepIn s i h) _ hs
  have h2 : s2.Inv := inv_foldl (fun s i h => inv_foldl (fun s n h => inv_runSlot i n _ h) _ h) _ h1
  have h3 : s3.Inv := inv_foldl (fun s i h => inv_tryRest i h) _ h2
  have h4 : s4.Inv := h3
  have h5 : s5.Inv := inv_foldl (fun s i h => (keeps_pushMissed i _ s).inv h) _ (inv_foldl (fun s i h => inv_stepIn s i h) _ h4)
  clear_value s5
  exact (failLogs_leaves ..).inv (((keeps_retryAll s5).trans (keeps_postLogs _)).inv h5)
theorem leaves_countEngines (fn : Nat) (s : State) : Leaves s (countEngines fn s) := by
  unfold countEngines
  extract_lets s1 s2 p
  have h1 : Leaves s s1 := leaves_foldl (fun _ _ => by exact ⟨rfl, rfl⟩) _ _
  have h2 : Leaves s1 s2 := leaves_foldl (fun _ _ => by exact ⟨rfl, rfl⟩) _ _
  exact (Leaves.trans h1 h2).trans (leaves_foldl (fun _ _ => by exact ⟨rfl, rfl⟩) _ _)
theorem leaves_passCycle (fn : Nat) (stand : Nat → Thread → Stand) (s : State) : Leaves s (passCycle fn stand s) := by
  unfold passCycle
  extract_lets on next wgs threads turns counted s1 s2 s3 s4
  have h1 : Leaves s s1 := leaves_countEngines fn s
  have h2 : Leaves s1 s2 := leaves_foldl (fun _ _ => by exact ⟨rfl, rfl⟩) _ _
  have h4 : Leaves s s4 := h1.trans h2
  clear_value s4
  refine .ite (fun _ => .ite (fun _ => ?_) (fun _ => h4)) (fun _ => ?_)
  · simp [h4.1, h4.2]
  · exact h1.trans h2
theorem inv_passCycles {s : State} (fn n : Nat) (hs : s.Inv) : (passCycles fn n s).Inv := by
  induction n generalizing s with
  | zero => exact hs
  | succ n ih => exact ih (inv_beginCycle fn ((leaves_passCycle ..).inv (inv_finishCycle fn hs)))

/-! ### A turn -/

@[simp] theorem spdmArrive_leaves (r : List Byte) (s : State) : Leaves s (spdmArrive r s) :=
  by unfold spdmArrive; dsimp only; (repeat' split) <;> simp
theorem inv_runTurn {turn : Turn} {s t : State} (hs : s.Inv) (h : runTurn turn s = .next t) : t.Inv := by
  cases turn with
  | event i =>
    unfold runTurn afterStep at h
    dsimp only at h
    split at h
    next he =>
      obtain rfl := Host.Outcome.next.inj h
      exact (splitCores_leaves _).inv (inv_exec (inv_issue hs) he)
    next ho => exact absurd h (ho t)
  | cycles fn n =>
    obtain rfl := Host.Outcome.next.inj h
    split
    · exact inv_passCycles fn n hs
    · exact hs
  | request r => obtain rfl := Host.Outcome.next.inj h; exact (spdmArrive_leaves r s).inv hs
  | readAhead k n => obtain rfl := Host.Outcome.next.inj h; exact (readAhead_leaves k n s).inv hs
  | issue core slot =>
    have hissue := inv_issueNext core slot hs
    unfold runTurn at h
    dsimp only at h
    generalize issueNext core slot s = r at h hissue
    cases r with
    | nothing => obtain rfl := Host.Outcome.next.inj h; exact hs
    | trap u => obtain rfl := Host.Outcome.next.inj h; exact hissue
    | instr i u => exact inv_exec hissue h

/-- Settles O59: what is kept is shown for every operation of the model, by what it writes; only the home slices, the
areas and a line set free write device memory, through `memWrite`, and only starts write the boot store. -/
theorem invariantKept : Obligations.InvariantKept := by
  intro s t hs h
  have hnext : (nextTurn s).2.Inv := by
    unfold nextTurn
    split <;> exact hs
  unfold step move at h
  generalize nextTurn s = p at h hnext
  obtain ⟨_ | turn, u⟩ := p
  · obtain rfl := Host.Outcome.next.inj h
    exact hnext
  · exact inv_runTurn hnext h

end Sys2Proof.Machine
end
section
/-! SUPPORT. The matrix instructions: what a thread's signature does to the round of its convergence register (R271). -/

namespace Sys2Proof.Machine

/-- The round after thread `k` has signed it. -/
def signedRound (s : State) (k : Nat) (t : Thread) (r : Round) : Round :=
  { r with
    origin := (s.ctx t.fn).clock
    cmd := { r.cmd with signers := r.cmd.signers ++ [k], after := r.cmd.after ++ [(k, s.nextId)] }
    places := r.places ++ [signPlace s t] }

/-- A signature that nothing forbids opens the round or joins it. -/
theorem signBody_signs {k n : Nat} {t : Thread} {w : Workgroup} {cmd : Cmd} {u s : State} {r : Round} {d : Word}
    (hw : look t.wg u.wgs = some w) (htake : takeTenure u w.cohort = some s)
    (hdecl : (cregOf s (cohortSect u w.cohort) n).decl = some d)
    (hin : k ∈ signSet s w.cohort d.toNat) (hslot : ∀ m, cmd.slot = some m → slotState s w.cohort m ≠ 0) (htl : t.tl < 63)
    (hround : ((cregOf s (cohortSect u w.cohort) n).round = none ∧
        r = ⟨{ cmd with after := [] }, (s.ctx t.fn).clock, coreOf k, []⟩) ∨
      ((cregOf s (cohortSect u w.cohort) n).round = some r ∧ k ∉ r.cmd.signers ∧ sameSign r.cmd cmd = true)) :
    signBody k t n cmd u = .done [] (settleRound (cohortSect u w.cohort) n
      ((setCreg (cohortSect u w.cohort) n ⟨some d, some (signedRound s k t r)⟩ s).modThread k
        (fun t => { t with tl := t.tl + 1 }))) := by
  have hmember : (signSet s w.cohort d.toNat).contains k = true := List.contains_iff_mem.mpr hin
  have hfree : cmd.slot.any (fun i => slotState s w.cohort i = 0) = false := by
    simpa only [Option.any_eq_false, decide_eq_false_iff_not] using hslot
  unfold signBody
  rw [cohortOf_eq hw]
  dsimp only
  rw [htake]
  dsimp only
  rw [hdecl]
  simp only [hmember, hfree, Bool.not_true, Bool.or_self, Bool.false_eq_true, if_false, Nat.not_le.mpr htl]
  rcases hround with ⟨hnone, rfl⟩ | ⟨hsome, hnew, hsame⟩
  · rw [hnone]
    rfl
  · have hfirst : r.cmd.signers.contains k = false := by simpa using hnew
    rw [hsome]
    simp only [hfirst, hsame, if_true, Bool.false_eq_true, if_false]
    rfl

/-- Settles O29: each of the six comes to a signature of its command. -/
theorem matrixSignatures : Obligations.MatrixSignatures := by
  intro f x i cmd s n c sect plain full hi h htake range hdecl hin hslot htl r hround
  have hsigns := signBody_signs (n := n) (cmd := cmd) h.2.workgroup htake hdecl hin hslot htl hround
  rcases hi with ⟨rfl, rfl⟩ | ⟨rfl, rfl⟩ | ⟨rfl, rfl⟩ | ⟨rfl, rfl⟩ | ⟨rfl, rfl⟩ | ⟨rfl, rfl⟩ <;>
    exact h.done rfl rfl hsigns

end Sys2Proof.Machine
end
section
/-! SUPPORT. A quadrant's tenure and the ends of signing rounds (R270 to R272). -/

namespace Sys2Proof.Machine

theorem sect_setSect_same (s : State) (n : Nat) (v : Section) : (s.setSect n v).sect n = v := by
  simp [State.sect, look_put]

/-- A cohort whose tenure starts finds the quadrant its own and the accumulators at 0. -/
theorem startTenure_sect {s : State} {sect c : Nat}
    (h : unitOurs (claimUnit (cohortFn s c) sect s) (cohortFn s c) sect = true) :
    ((startTenure sect c s).sect sect).holder = some c ∧ ((startTenure sect c s).sect sect).acc0 = [] ∧
      ((startTenure sect c s).sect sect).acc1 = [] := by
  unfold startTenure
  dsimp only
  rw [h, Bool.not_true, if_neg Bool.false_ne_true, sect_setSect_same]
  exact ⟨rfl, rfl, rfl⟩

theorem settleRound_complete {s : State} {sect n c : Nat} {range : Word} {r : Round}
    (hholder : (s.sect sect).holder = some c) (hreg : cregOf s sect n = ⟨some range, some r⟩)
    (hruns : (s.ctx (queueFn s (.mx c))).halt = none) (hall : ∀ k ∈ signSet s c range.toNat, k ∈ r.cmd.signers)
    (hroom : queueFull s (.mx c) = false) :
    settleRound sect n s = enqueue (.mx c) r.cmd (setCreg sect n ⟨some range, none⟩ s) := by
  have hsigned : (signSet s c range.toNat).all (fun k => r.cmd.signers.contains k) = true := by
    simpa [List.all_eq_true] using hall
  unfold settleRound
  rw [hholder, hreg]
  simp only [hruns, hsigned, hroom, Option.isNone_none, Bool.not_false, Bool.and_self, if_true]

/-- Settles O40: a tenure passes, or a round ends, each by its own step. -/
theorem quadrantSteps : Obligations.QuadrantSteps := by
  intro s sect n
  refine ⟨fun hover => ⟨fun hnone => ?_, fun c rest hnext hroom => ⟨?_, startTenure_sect⟩⟩,
    fun c range r hholder hreg => ⟨fun hruns hall hroom => ?_, fun hdue hquiet hfree => ?_⟩⟩
  · simp only [exec, execQuadrantTenureGrant, hover, hnone, Bool.not_true, Bool.false_eq_true, if_false]
  · simp only [exec, execQuadrantTenureGrant, hover, hnext, hroom, Bool.not_true, Bool.false_eq_true, if_false, if_true]
  · exact congrArg Host.Outcome.next (settleRound_complete hholder hreg hruns hall hroom)
  · have hcores : (coresOfCohort s c).all (coreQuiet s) = true := List.all_eq_true.mpr hquiet
    have hnobody : s.threads.filter (fun p => p.2.stall = some ⟨12, 5, n⟩ && cohortOf s p.2 = c) = [] := by
      refine List.filter_eq_nil_iff.mpr (fun p hp => ?_)
      simp [hfree p hp]
    simp only [exec, execSigningRoundDiscard, hholder, hreg, hdue, hcores, hnobody, Bool.not_true, Bool.or_self,
      Bool.false_eq_true, if_false, List.map_nil]
    rfl

end Sys2Proof.Machine
end
section
/-! SUPPORT. TKPUSH of a record in scratchpad (R319, R320), and the sequencer's commands of a cohort that holds its section's
quadrant (R250, R270, R288, R323). -/

namespace Sys2Proof.Machine

theorem orderPoint_wgs (fn kind point : Nat) (object : DWord) (agent event : Nat) (seq : Option Nat) (s : State) :
    (orderPoint fn kind point object agent event seq s).wgs = s.wgs := by
  unfold orderPoint
  dsimp only
  (repeat' split) <;> rfl

@[simp] theorem padWarm_tk (off n : Nat) (w : Workgroup) : (padWarm off n w).tk = w.tk := by
  unfold padWarm
  dsimp only
  split <;> rfl

/-- A load from scratchpad leaves the task queues' commands as they are. -/
theorem queueFull_loadDone_pad (k off g : Nat) (t : Thread) (s : State) :
    queueFull (loadDone k t (.pad off) s) (.tk g) = queueFull s (.tk g) := by
  have hqueue : queueOf (loadDone k t (.pad off) s) (.tk g) = queueOf s (.tk g) := by
    simp only [loadDone, queueOf, State.modWg, orderPoint_wgs, look_change]
    split
    next heq =>
      rw [heq, Option.map_map]
      exact congrArg (fun f => (Option.map f (look t.wg s.wgs)).getD []) (funext (padWarm_tk off 8))
    · rfl
  rw [queueFull, queueFull, hqueue]

/-- What the thread reads of its own stores under way is nothing where it has none. -/
theorem padLoad_of_idle {s : State} {k : Nat} (h : ∀ o ∈ s.ops, o.thread ≠ k) (w : Workgroup) (wg off n : Nat) :
    padLoad s k w wg off n = padRead w off n := by
  have hnone : s.ops.filter (fun o => o.thread = k && o.stage = .claimed && o.kind = .store && padOverlap o wg off n)
      = [] := List.filter_eq_nil_iff.mpr (fun o ho => by simp [h o ho])
  rw [padLoad, hnone]
  rfl

theorem checkAccess_pad {s : State} {fn core wg va size off : Nat} {need : Need}
    (h : checkAccess s fn core wg need va size = .pad off) : va % size = 0 := by
  unfold checkAccess at h
  split at h
  · cases h
  · split at h
    · cases h
    next hne => exact of_not_not (fun hmod => hne (bne_iff_ne.mpr hmod))

/-- TKPUSH reads its record from scratchpad and pushes it. -/
theorem tkpushBody_pad {f : Fields} {k key off : Nat} {t : Thread} {w : Workgroup} {l : List Nat} {s : State}
    (hw : look t.wg s.wgs = some w) (hbound : boundQueue w (mBAR f) = some key) (hfree : accessHold t 0 = none)
    (hpad : checkAccess s t.fn (coreOf k) t.wg .read (wrapNat 64 ((nth 0 0 l : Nat) + sextInt 8 f.sc.toNat)) 64 = .pad off)
    (hops : ∀ o ∈ s.ops, o.thread ≠ k) (hrecord : recordBad (padRead w off 64) = false)
    (hready : padReady s k t off 0 = true) (hroom : queueFull s (.tk t.wg) = false) :
    let u := loadDone k t (.pad off) s
    tkpushBody f k t l s = .done [] (statusDue k t.fn (f.dst.toNat % 8) (enqueue (.tk t.wg)
      { newCmd f 0x298 k t u with
        data := padRead w off 64, vb := BitVec.ofNat 64 key, fate := fateOf u k t.fn } u)) := by
  intro u
  have haligned := checkAccess_pad hpad
  unfold tkpushBody pushTask
  simp only [bindingOf_eq hw, hbound, haligned, hfree, hpad, hw, hready, padLoad_of_idle hops, hrecord, bne_self_eq_false,
    Bool.not_true, Bool.false_eq_true, if_false]
  exact pushOr_enters (by intro m hm; cases hm) (by intro p hp; cases hp)
    (by rw [queueFull_loadDone_pad]; exact hroom) _

/-- A sequencer command of a cohort that has the quadrant enters SQ. -/
theorem sqPush_enters {f : Fields} {op k : Nat} {t : Thread} {w : Workgroup} {l : List Nat} {s u : State}
    (hw : look t.wg s.wgs = some w) (htake : takeTenure s w.cohort = some u)
    (hslot : ∀ m, ({ newCmd f op k t u with va := BitVec.ofNat 64 (nth 0 0 l) } : Cmd).slot = some m →
      slotState u (queueCohort u (.sq w.cohort)) m ≠ 0)
    (htl : t.tl < 63) (hroom : queueFull u (.sq w.cohort) = false) :
    sqPush f op k t l s = .done [] ((enqueue (.sq w.cohort)
      { newCmd f op k t u with va := BitVec.ofNat 64 (nth 0 0 l) } u).modThread k (fun t => { t with tl := t.tl + 1 })) := by
  unfold sqPush
  rw [cohortOf_eq hw]
  dsimp only
  rw [htake]
  dsimp only
  rw [pushOr_enters hslot (by intro p hp; obtain rfl := Option.mem_some_iff.mp hp; exact htl) hroom]

/-- Settles O27: TKPUSH reads its record from scratchpad and is pushed; the five sequencer commands enter SQ by one lemma. -/
theorem taskAndSequencerPushes : Obligations.TaskAndSequencerPushes := by
  constructor
  · intro f x key off h hbound hfree hpad hops hrecord hready hroom s
    exact h.done rfl rfl (tkpushBody_pad h.2.workgroup hbound hfree hpad hops hrecord hready hroom)
  · intro f x i op s hi h q c htake hslot htl hroom
    have henters := sqPush_enters (f := f) (op := op) (l := x.src) h.2.workgroup htake hslot htl hroom
    rcases hi with ⟨rfl, rfl⟩ | ⟨rfl, rfl⟩ | ⟨rfl, rfl⟩ | ⟨rfl, rfl⟩ | ⟨rfl, rfl⟩ <;> exact h.done rfl rfl henters

end Sys2Proof.Machine
end
section
/-! SUPPORT. TRET waits for the predicates that a status is still due for, of which its `programForm` names none (R320,
R335). -/

namespace Sys2Proof.Machine

def plainTret : Fields :=
  ⟨0, 7, false, false, false, false, false, false, 0xF8, 0xF8, 0xF8, 0xF8, 0, 0, 0⟩

def plainTretForm : Form := formOf plainTret { modOk := plainTret.mod = 0, tdOk := false }

/-- A thread, in no handler, that TKPUSH's status in p0 is due to. -/
def statusDueThread : Thread := { placedThread with pendP := 1 }

def statusDueState : State :=
  { State.reset with issue := [0], threads := [(0, statusDueThread)], wgs := [(0, placedWg)] }

def tretIssue : Issue := ⟨statusDueState, 0, statusDueThread, placedWg, plainTretForm⟩

theorem tretIssue_of : tretIssue.Of (.tret plainTret) :=
  ⟨rfl, rfl, rfl, rfl, rfl, rfl, rfl, rfl, rfl, rfl, rfl, rfl, rfl, rfl, rfl, rfl⟩

/-- TRET leaves the thread stalled, not trapped: it needs all seven predicates, and p0 is pending. -/
theorem tret_stalls : ∃ u, exec (.tret plainTret) statusDueState = .next u ∧
    (look 0 u.threads).map (fun t => t.stall.isSome) = some true ∧
    (look 0 (tretIssue.trap (trapBefore cIllegalInstruction) statusDueState).threads).map (fun t => t.stall.isSome)
      = some false :=
  ⟨_, rfl, by decide +kernel, by decide +kernel⟩

/-- Refutes O31: outside a handler TRET does not trap ILLEGAL_INSTRUCTION at once, as the statement says, where a predicate
is pending. The driver runs TRET under a form that writes all seven predicates, so it stalls; the issue is ready under the
form of `programForm`, which names no predicate. -/
theorem not_trapsAndReturn : ¬ Obligations.TrapsAndReturn := by
  intro h
  obtain ⟨-, htret⟩ := h
  obtain ⟨houtside, -⟩ := htret plainTret tretIssue tretIssue_of
  obtain ⟨u, hexec, hstalled, htrapped⟩ := tret_stalls
  obtain rfl := Host.Outcome.next.inj (hexec.symm.trans (houtside rfl))
  cases hstalled.symm.trans htrapped

end Sys2Proof.Machine
end
section
/-! SUPPORT. CKPT, the system registers, TMARK, CSUMR and IDLE (R333, R375 to R381). -/

namespace Sys2Proof.Machine

section
variable {f : Fields} {x : Issue}

theorem isTrapReg_iff (n : Nat) : isTrapReg n = true ↔ 0x010 ≤ n ∧ n ≤ 0x019 := by
  simp [isTrapReg]

theorem exec_ckpt (h : x.Of (.ckpt f)) : exec (.ckpt f) x.s = .next (if f.mod.getLsbD 0
    then x.waits (.ckpt (mD f)) (requestCkpt x.t.fn 4 x.s) else x.done [] (requestCkpt x.t.fn 4 x.s)) := by
  split
  next hw => exact h.waits rfl rfl (if_pos hw)
  next hw => exact h.done rfl rfl (if_neg hw)

/-- Outside a handler the views of a trap frame are illegal operands of SRD. -/
theorem exec_srd_trap (h : x.Of (.srd f)) (hview : isTrapReg (sysNum f) = true) (hdepth : x.t.tdepth = 0) :
    exec (.srd f) x.s = .next (x.trap (trapBefore cIllegalOperand) x.s) :=
  h.trap rfl rfl (by simp only [hview, hdepth, decide_true, Bool.and_self, if_true])

theorem exec_srd (h : x.Of (.srd f)) (hview : ¬ (isTrapReg (sysNum f) = true ∧ x.t.tdepth = 0)) :
    exec (.srd f) x.s = .next (x.done [sysRead x.s x.t x.core (sysNum f)] x.s) :=
  h.done rfl rfl (if_neg (by simpa using hview))

theorem exec_swr_trap (h : x.Of (.swr f)) (hview : isTrapReg (sysNum f) = true) (hdepth : x.t.tdepth = 0) :
    exec (.swr f) x.s = .next (x.trap (trapBefore cIllegalOperand) x.s) :=
  h.trap rfl rfl (by simp only [hview, hdepth, decide_true, Bool.and_self, if_true])

theorem exec_swr (h : x.Of (.swr f)) (hview : ¬ (isTrapReg (sysNum f) = true ∧ x.t.tdepth = 0))
    (hroom : isTrapReg (sysNum f) = true → frameRoom x.s x.k x.t [trapFieldLine x.t (sysNum f)] = true) :
    exec (.swr f) x.s = .next (x.done [] (sysWrite x.k x.t (sysNum f) x.a x.s)) := by
  have hfree : ¬ (isTrapReg (sysNum f) && !frameRoom x.s x.k x.t [trapFieldLine x.t (sysNum f)]) = true := by
    simpa using hroom
  exact h.done rfl rfl (by rw [if_neg (by simpa using hview), if_neg hfree]; rfl)

theorem exec_tmark (h : x.Of (.tmark f)) : exec (.tmark f) x.s = .next (x.done []
    (if x.ctx.tracectl.getLsbD 0 ∧ x.ctx.tracectl.getLsbD 2 then
      traceRecord x.t.fn x.core (tmarkRecord x.s x.k x.t (code16 f) x.a) x.s else x.s)) :=
  h.done rfl rfl (by dsimp only; simp only [Bool.and_eq_true]; rfl)

theorem exec_csumr (h : x.Of (.csumr f)) : exec (.csumr f) x.s = .next (x.done
    [if recMode x.s x.t.fn = 0 then 0 else x.w.csum.toNat] x.s) :=
  h.done rfl rfl (by rw [h.2.workgroup]; rfl)

theorem exec_idle (h : x.Of (.idle f)) : exec (.idle f) x.s = .next (if countOf f x.src = 0 then x.done [] x.s
    else x.waits (.idle (x.ctx.pcycle + countOf f x.src)) x.s) := by
  split
  next hn => exact h.done rfl rfl (if_pos hn)
  next hn => exact h.waits rfl rfl (if_neg hn)
end

/-- Settles O32: one lemma for each instruction; the two system-register instructions split on whether a frame view is legal. -/
theorem systemInstructions : Obligations.SystemInstructions := by
  intro f x n view
  have hview : view ↔ isTrapReg (sysNum f) = true := (isTrapReg_iff n).symm
  refine ⟨exec_ckpt, fun h => ⟨fun ⟨hv, hd⟩ => exec_srd_trap h (hview.mp hv) hd,
      fun hv => exec_srd h (fun ⟨hr, hd⟩ => hv ⟨hview.mpr hr, hd⟩)⟩,
    fun h => ⟨fun ⟨hv, hd⟩ => exec_swr_trap h (hview.mp hv) hd,
      fun hv hroom => exec_swr h (fun ⟨hr, hd⟩ => hv ⟨hview.mpr hr, hd⟩) (fun hr => hroom (hview.mpr hr))⟩,
    exec_tmark, exec_csumr, exec_idle⟩

end Sys2Proof.Machine
end
section
/-! SUPPORT. Halts and trap entry (R328 to R332, R338): what a context fault and a trap of one thread leave. -/

namespace Sys2Proof.Machine

/-! ### Halts -/

theorem ctx_setCtx_same (s : State) (fn : Nat) (c : Context) : (s.setCtx fn c).ctx fn = c := by
  simp [State.ctx, look_put]
theorem ctx_modCtx_same (s : State) (fn : Nat) (f : Context → Context) : (s.modCtx fn f).ctx fn = f (s.ctx fn) :=
  ctx_setCtx_same ..
theorem ctx_congr {s t : State} (h : t.ctxs = s.ctxs) (fn : Nat) : t.ctx fn = s.ctx fn := by rw [State.ctx, h, State.ctx]

/-- The first fault of a context is its halt (R338). -/
theorem raiseHalt_halt {fn : Nat} {s : State} (h : (s.ctx fn).halt = none) (code unit : Nat) (note : List Byte) :
    ((raiseHalt fn code unit note s).ctx fn).halt = some ⟨code, unit, false, note, []⟩ := by
  unfold raiseHalt
  rw [h]
  dsimp only
  rw [ctx_modCtx_same]
theorem coreFault_halt {k code : Nat} {s : State} {t : Thread} (ht : look k s.threads = some t)
    (h : (s.ctx t.fn).halt = none) :
    ((coreFault k code s).ctx t.fn).halt = some ⟨code, s.coreNo t.fn (coreOf k), false, [], []⟩ := by
  unfold coreFault
  rw [ht]
  exact raiseHalt_halt h ..
theorem coreIntegrity_halt {k : Nat} {s : State} {t : Thread} (ht : look k s.threads = some t)
    (h : (s.ctx t.fn).halt = none) (x : Nat × Nat) :
    ((coreIntegrity k x s).ctx t.fn).halt = some ⟨fIntegrityFail, s.coreNo t.fn (coreOf k), false, [], []⟩ := by
  have hfill : ((foreignFill t.fn x s).ctx t.fn).halt = none := h
  unfold coreIntegrity integrityHalt
  rw [ht]
  exact raiseHalt_halt hfill ..

/-! ### One trap -/

/-- A trap of one thread as its frame keeps it: the fragment is the thread alone. -/
def loneTrap (k : Nat) (t : Thread) (q : TrapReq) (s : State) : PendingTrap :=
  ⟨q, t.pc, t.pc, BitVec.ofNat 32 (maskOf [laneOf k]),
    BitVec.ofNat 32 (maskOf ((trappedLanes s (warpOf k)).filter (fun n => ! [laneOf k].contains n)))⟩

theorem takeTraps_lone (k : Nat) (t : Thread) (q : TrapReq) (s : State) :
    takeTraps [⟨k, q, t.pc, t.pc⟩] s = takeTrap k (loneTrap k t q s) s := by
  have hown : ([⟨k, q, t.pc, t.pc⟩] : List Trapping).filter (oneFragment s ⟨k, q, t.pc, t.pc⟩) = [⟨k, q, t.pc, t.pc⟩] := by
    simp [oneFragment]
  simp only [takeTraps, List.foldl_cons, List.foldl_nil, hown, List.map_cons, List.map_nil]
  rfl

theorem settle_ctxs (bundle wgs counted issued : List Nat) (pc : DWord) (ord : Nat) (s : State) :
    (settle bundle wgs counted issued pc ord s).ctxs = s.ctxs := by
  unfold settle
  split
  · rfl
  · dsimp only
    split
    · rfl
    · exact foldl_same (g := State.ctxs) (by intros; rfl) _ _

theorem trapped_threads (k : Nat) (t : Thread) (q : TrapReq) (s : State) :
    (trapped k t q s).threads = (takeTrap k (loneTrap k t q s) s).threads := by
  rw [trapped, settle_threads, takeTraps_lone]
theorem trapped_ctx (k : Nat) (t : Thread) (q : TrapReq) (s : State) (fn : Nat) :
    (trapped k t q s).ctx fn = (takeTrap k (loneTrap k t q s) s).ctx fn := by
  rw [trapped, ctx_congr (settle_ctxs ..), takeTraps_lone]

section
variable {s : State} {k : Nat} {t : Thread} {p : PendingTrap} {h : DWord}

/-- The access that reads a thread's handler for a cause. -/
def handlerAccess (s : State) (k : Nat) (t : Thread) (cause : Nat) : Access :=
  checkAccess s t.fn (coreOf k) t.wg .read (handlerSlot s t.fn cause) 8

/-- An entry that is a handler, whose load is served and whose frame has room, is entered. -/
theorem takeTrap_enters (ht : look k s.threads = some t) (hcause : p.req.cause < 256) (hdepth : t.tdepth < 2)
    (hown : handlerForeign s t.fn (coreOf k) (handlerAccess s k t p.req.cause) = none)
    (hat : handlerAt s t.fn (coreOf k) t.wg (handlerAccess s k t p.req.cause) = some h)
    (hsome : h ≠ 0) (haligned : h.toNat % 8 = 0) (hin : h.toNat < 2 ^ 57)
    (hload : loadReady s k t (handlerAccess s k t p.req.cause) = true)
    (hroom : frameRoom s k t (trapFrameLines { t with tdepth := t.tdepth + 1 }) = true) :
    takeTrap k p s = accountFrames k t (loadDone k t (handlerAccess s k t p.req.cause)
      (violationWalk (coreOf k) t.fn p.req (forgetNotice k (s.modThread k (enterTrap s k p h))))) := by
  have hsound : (h = 0 || h.toNat % 8 != 0 || decide (2 ^ 57 ≤ h.toNat)) = false := by
    simp only [hsome, haligned, Nat.not_le.mpr hin, decide_false, bne_self_eq_false, Bool.or_self]
  have hdeep : t.tdepth ≠ 2 := hdepth.ne
  unfold takeTrap
  simp only [ht, Nat.not_le.mpr hcause, hdeep, if_false]
  change (match handlerAccess s k t p.req.cause with | .park .. => _ | _ => _) = _
  generalize handlerAccess s k t p.req.cause = a at hown hat hload ⊢
  cases a with
  | trap | park => cases hat
  | pad | dev => simp only [hown, hat, hsound, hload, hroom, Bool.not_true, Bool.false_eq_true, if_false]

/-- An entry that is no handler is UNHANDLED_TRAP (R331). -/
theorem takeTrap_unhandled (ht : look k s.threads = some t) (hcause : p.req.cause < 256) (hdepth : t.tdepth < 2)
    (hown : handlerForeign s t.fn (coreOf k) (handlerAccess s k t p.req.cause) = none)
    (hbad : (∃ h, handlerAt s t.fn (coreOf k) t.wg (handlerAccess s k t p.req.cause) = some h ∧
        (h = 0 ∨ h.toNat % 8 ≠ 0 ∨ 2 ^ 57 ≤ h.toNat)) ∨ ∃ r, handlerAccess s k t p.req.cause = .trap r) :
    takeTrap k p s = coreFault k fUnhandledTrap s := by
  have hdeep : t.tdepth ≠ 2 := hdepth.ne
  unfold takeTrap
  simp only [ht, Nat.not_le.mpr hcause, hdeep, if_false]
  change (match handlerAccess s k t p.req.cause with | .park .. => _ | _ => _) = _
  generalize handlerAccess s k t p.req.cause = a at hown hbad ⊢
  rcases hbad with ⟨h, hat, hh⟩ | ⟨r, rfl⟩
  · have hunsound : (h = 0 || h.toNat % 8 != 0 || decide (2 ^ 57 ≤ h.toNat)) = true := by
      simpa only [Bool.or_eq_true, decide_eq_true_eq, bne_iff_ne, or_assoc] using hh
    cases a with
    | trap | park => cases hat
    | pad | dev => simp only [hown, hat, hunsound, if_true]
  · simp only [hown, handlerAt]

theorem takeTrap_integrity {x : Nat × Nat} (ht : look k s.threads = some t) (hcause : p.req.cause < 256)
    (hdepth : t.tdepth < 2)
    (hforeign : handlerForeign s t.fn (coreOf k) (handlerAccess s k t p.req.cause) = some x) :
    takeTrap k p s = coreIntegrity k x s := by
  have hdeep : t.tdepth ≠ 2 := hdepth.ne
  unfold takeTrap
  simp only [ht, Nat.not_le.mpr hcause, hdeep, if_false]
  change (match handlerAccess s k t p.req.cause with | .park .. => _ | _ => _) = _
  generalize handlerAccess s k t p.req.cause = a at hforeign ⊢
  cases a with
  | pad | park => cases hforeign
  | trap | dev => simp only [hforeign]

theorem takeTrap_nested (ht : look k s.threads = some t) (hcause : p.req.cause < 256) (hdepth : t.tdepth = 2) :
    takeTrap k p s = coreFault k fNestedTrap s := by
  unfold takeTrap
  simp only [ht, Nat.not_le.mpr hcause, hdepth, if_false, if_true]
end

end Sys2Proof.Machine
end
section
/-! SUPPORT. The thread that has entered its handler; O54. -/

namespace Sys2Proof.Machine

theorem violationWalk_threads (core fn : Nat) (r : TrapReq) (s : State) : (violationWalk core fn r s).threads = s.threads := by
  unfold violationWalk
  split
  · exact sectXlat_threads ..
  · rfl
theorem loadDone_threads (k : Nat) (t : Thread) (a : Access) (s : State) : (loadDone k t a s).threads = s.threads := by
  cases a with
  | trap | park => rfl
  | pad off => exact orderPoint_threads ..
  | dev pa cid =>
    unfold loadDone
    dsimp only
    split
    · exact orderPoint_threads ..
    · exact orderPoint_threads ..

/-- The lines of a frame that a thread has written are all that writing them changes. -/
theorem wroteLines_eq (l : List Nat) (t : Thread) :
    ∃ lines wrote, wroteLines l t = { t with lines := lines, wrote := wrote } := by
  induction l generalizing t with
  | nil => exact ⟨t.lines, t.wrote, rfl⟩
  | cons n l ih => exact ih (wroteLine n t)

/-- The thread at its handler, its trap frame `f` written. -/
def atHandler (f : TrapFrame) (h : DWord) (t : Thread) : Thread :=
  { setFrame f { endTrans t with tdepth := t.tdepth + 1 } with
    pc := h, wait := none, stall := none, held := none, stallFrom := none, trapping := none, pending := none }

theorem enterTrap_eq (s : State) (k : Nat) (p : PendingTrap) (h : DWord) (t : Thread) :
    ∃ lines wrote, enterTrap s k p h t = { atHandler (trapFrame s k t p) h t with lines := lines, wrote := wrote } := by
  unfold enterTrap atHandler
  dsimp only
  obtain ⟨lines, wrote, heq⟩ := wroteLines_eq
    (trapFrameLines (setFrame (trapFrame s k t p) { endTrans t with tdepth := t.tdepth + 1 }))
    (setFrame (trapFrame s k t p) { endTrans t with tdepth := t.tdepth + 1 })
  exact ⟨lines, wrote, by rw [heq]⟩

/-- What entry leaves of the threads: the thread at its handler, and the others. -/
theorem takeTrap_threads {s : State} {k : Nat} {t : Thread} {p : PendingTrap} {h : DWord} {a : Access}
    (ht : look k s.threads = some t)
    (hu : takeTrap k p s = accountFrames k t (loadDone k t a
      (violationWalk (coreOf k) t.fn p.req (forgetNotice k (s.modThread k (enterTrap s k p h)))))) :
    (∀ j, j ≠ k → look j (takeTrap k p s).threads = look j s.threads) ∧
    ∃ lines wrote, look k (takeTrap k p s).threads =
      some { atHandler (trapFrame s k t p) h t with lines := lines, wrote := wrote } := by
  have htraffic := accountFrames_traffic (k := k) t (loadDone k t a
    (violationWalk (coreOf k) t.fn p.req (forgetNotice k (s.modThread k (enterTrap s k p h)))))
  have hthreads : (loadDone k t a (violationWalk (coreOf k) t.fn p.req
      (forgetNotice k (s.modThread k (enterTrap s k p h))))).threads = change k (enterTrap s k p h) s.threads :=
    (loadDone_threads ..).trans (violationWalk_threads ..)
  rw [hu]
  refine ⟨fun j hj => (htraffic.others j hj).trans (by rw [hthreads, look_change_other hj]), ?_⟩
  obtain ⟨lines₀, wrote₀, hentered⟩ := enterTrap_eq s k p h t
  obtain ⟨lines, wrote, hown⟩ := htraffic.own _ (by rw [hthreads, look_change_same, ht, Option.map_some])
  exact ⟨lines, wrote, by rw [hown, hentered]⟩

/-- The status word keeps the predicates and the depth (R330). -/
theorem savedStatus_preds (t : Thread) (r : TrapReq) : (savedStatus t r).extractLsb' 0 7 = t.preds := by
  apply BitVec.eq_of_toNat_eq
  have hpreds := t.preds.isLt
  simp only [savedStatus, BitVec.extractLsb'_toNat, BitVec.toNat_ofNat, Nat.shiftRight_zero]
  omega
theorem savedStatus_depth {t : Thread} (h : t.tdepth < 4) (r : TrapReq) : bits (savedStatus t r).toNat 8 7 = t.tdepth := by
  have hpreds := t.preds.isLt
  simp only [savedStatus, BitVec.toNat_ofNat, bits]
  omega

/-- The current trap frame of the thread at its handler is the one written. -/
theorem curFrame_atHandler (f : TrapFrame) (h : DWord) (t : Thread) (lines : Tbl Bool) (wrote : List Nat) :
    curFrame { atHandler f h t with lines := lines, wrote := wrote } = f := by
  unfold curFrame atHandler setFrame
  dsimp only
  by_cases hd : t.tdepth + 1 = 2 <;> simp [hd]

/-- Everything else of the thread at its handler. -/
theorem atHandler_eq (f : TrapFrame) (h : DWord) (t : Thread) : ∃ f1 f2, atHandler f h t =
    { t with
      frame1 := f1, frame2 := f2, trans := [], tdepth := t.tdepth + 1, pc := h
      wait := none, stall := none, held := none, stallFrom := none, trapping := none, pending := none } := by
  unfold atHandler setFrame
  split
  · exact ⟨_, _, rfl⟩
  · exact ⟨_, _, rfl⟩

/-- Settles O54: by the trap of a lone thread: what it writes in the frame, where it goes on, and the two faults. -/
theorem trapEntry : Obligations.TrapEntry := by
  intro s k t q ht hcause u a
  refine ⟨fun hdepth hown h hat => ⟨fun hsome haligned hin hload hroom => ?_, fun hbad hruns => ?_⟩,
    fun hdepth ⟨r, ha, hr⟩ hruns => ?_, fun hdepth ⟨x, hx⟩ hruns => ?_, fun hdepth hruns => ?_⟩
  · have henter := takeTrap_enters (p := loneTrap k t q s) ht hcause hdepth hown hat hsome haligned hin hload hroom
    obtain ⟨hothers, lines, wrote, hz⟩ := takeTrap_threads ht henter
    have hframe := curFrame_atHandler (trapFrame s k t (loneTrap k t q s)) h t lines wrote
    obtain ⟨f1, f2, heq⟩ := atHandler_eq (trapFrame s k t (loneTrap k t q s)) h t
    rw [heq] at hz hframe
    refine ⟨by simp [u, trapped], fun j hj => by rw [trapped_threads, hothers j hj], _,
      (congrArg (look k) (trapped_threads ..)).trans hz,
      rfl, rfl, rfl, rfl, rfl, rfl, rfl, rfl, rfl, rfl, rfl, rfl, rfl, rfl, rfl, rfl, rfl, rfl, rfl, rfl, rfl, rfl, rfl, rfl,
      rfl, ?_⟩
    rw [hframe]
    exact ⟨rfl, rfl, rfl, rfl, rfl, rfl, rfl, rfl, savedStatus_preds t q, savedStatus_depth (by omega) q⟩
  · rw [trapped_ctx, takeTrap_unhandled (p := loneTrap k t q s) ht hcause hdepth hown (.inl ⟨h, hat, hbad⟩)]
    exact coreFault_halt ht hruns
  · have hown : handlerForeign s t.fn (coreOf k) a = none := by
      rw [ha]
      exact if_neg (Nat.not_le.mpr hr)
    rw [trapped_ctx, takeTrap_unhandled (p := loneTrap k t q s) ht hcause hdepth hown (.inr ⟨r, ha⟩)]
    exact coreFault_halt ht hruns
  · rw [trapped_ctx, takeTrap_integrity (p := loneTrap k t q s) ht hcause hdepth hx]
    exact coreIntegrity_halt ht hruns x
  · rw [trapped_ctx, takeTrap_nested (p := loneTrap k t q s) ht hcause hdepth]
    exact coreFault_halt ht hruns

end Sys2Proof.Machine
end
section
/-! SUPPORT. Checkpoints: asked for, formed, given up (R342 to R348, R358). -/

namespace Sys2Proof.Machine

/-- A checkpoint given up stands no longer; the images stay. -/
theorem abandonCkpt_ctx (fn : Nat) (s : State) : (abandonCkpt fn s).ctx fn = { s.ctx fn with ckpt := none } := by
  have hwaits : ∀ u : State, (endCkptWaits fn false u).ctx fn = u.ctx fn := fun _ => rfl
  unfold abandonCkpt
  dsimp only
  rw [hwaits, ctx_modCtx_same]
  split <;> rfl

/-- A request whose one reason is CKPT's, once it is late, lapses: nothing else of the context is given up. -/
theorem checkpointLapse_own {s : State} {fn made : Nat} {r : CkptReq} (hckpt : (s.ctx fn).ckpt = some r)
    (hwhy : r.why = [(4, made)]) (hlate : made + Config.ckptLapse ≤ (s.ctx fn).pcycle) :
    ∃ t, exec (.checkpointLapse fn) s = .next t ∧ (t.ctx fn).ckpt = none ∧ (t.ctx fn).images = (s.ctx fn).images ∧
      t.mem = s.mem := by
  have hnow : r.why.filter (fun p => decide (p.2 + Config.ckptLapse ≤ (s.ctx fn).pcycle)) = [(4, made)] := by
    rw [hwhy]
    exact List.filter_cons_of_pos (decide_eq_true hlate)
  have hdrop : dropRequests fn [4] (endLateWaits fn s) = abandonCkpt fn (endLateWaits fn s) := by
    have hsame : ((endLateWaits fn s).ctx fn).ckpt = some r := hckpt
    unfold dropRequests
    rw [hsame]
    simp [hwhy]
  refine ⟨(abandonCkpt fn (endLateWaits fn s)).modCtx fn (fun c => { c with lapsedAt := c.lapsedAt }), ?_, ?_, ?_, by simp⟩
  · simp only [exec, execCheckpointLapse, hckpt, hnow, List.map_cons, List.map_nil, hdrop]
    rfl
  · rw [ctx_modCtx_same, abandonCkpt_ctx]
  · rw [ctx_modCtx_same, abandonCkpt_ctx]
    rfl

/-- Settles O43: each source of a request by its own guard; a lapse of CKPT alone gives up nothing but the request. -/
theorem checkpointSteps : Obligations.CheckpointSteps := by
  intro s fn core value
  refine ⟨fun hup => congrArg Host.Outcome.next (viaMgmt_up hup _), fun hdue => congrArg Host.Outcome.next (if_pos hdue),
    fun hon hfree hlow => ?_, fun hover hfree => ?_, fun p hp hon => ?_,
    fun r made hckpt hwhy => ⟨fun hform hfresh => ?_, checkpointLapse_own hckpt hwhy⟩⟩
  · simp only [exec, execForcedCheckpoint, hon, hfree, hlow, Bool.not_false, Bool.and_self, if_true]
  · simp only [exec, execSliceEnd, hover, hfree, Bool.true_or, Bool.not_false, Bool.and_self, if_true]
  · simp only [exec, execDebugBreakpoint, hp, hon, if_true]
  · simp only [exec, execCheckpointFormation, hckpt, hform, hwhy, hfresh, Bool.not_true, Bool.false_and, Bool.false_eq_true,
      if_false]
    rfl

end Sys2Proof.Machine
end
section
/-! SUPPORT. SPDM and firmware (R406, R407); control writes of a function's window (R397). -/

namespace Sys2Proof.Machine

/-- The waiting request at the head is answered with its response, or with ERROR where it comes out of order. -/
theorem respond_cons {s : State} {r : List Byte} {rest : List (List Byte)} (hin : s.spdm.inbox = r :: rest) (code : Nat)
    (algs : List SpdmAlg) (blocks : List Byte → List (Nat × List Byte)) (ok : Bool) (next : Spdm → Spdm) :
    respond code algs blocks ok next s = .next (if ok
      then { s.fresh.2 with
        spdm := next { s.spdm with inbox := rest }
        out := s.out ++ [.spdm code algs (blocks r) (Config.spdmRest s.nextId)] }
      else { s.fresh.2 with
        spdm := { s.spdm with inbox := rest }
        out := s.out ++ [.spdm 0x7F [] [] (Config.spdmRest s.nextId)] }) := by
  unfold respond
  rw [hin]
  cases ok <;> rfl

/-- Settles O50: every request is answered by `respond`, in its order or with ERROR. -/
theorem securityAndFirmware : Obligations.SecurityAndFirmware := by
  intro s r rest hin
  have answer := respond_cons hin
  let noBlocks := fun _ : List Byte => ([] : List (Nat × List Byte))
  exact ⟨answer 0x04 [] noBlocks true (fun p => { p with phase := 1, session := false, keyExchanged := false }),
    answer 0x61 [] noBlocks _ (fun p => { p with phase := max 2 p.phase }),
    answer 0x63 algorithms noBlocks _ (fun p => { p with phase := 3 }),
    answer 0x01 [] noBlocks _ id, answer 0x02 [] noBlocks _ id, answer 0x03 [] noBlocks _ id,
    answer 0x60 [] (askedBlocks s.firmware) _ id,
    answer 0x64 [] noBlocks _ (fun p => { p with keyExchanged := true }),
    answer 0x65 [] noBlocks _ (fun p => { p with session := true, keyExchanged := false }),
    answer 0x6C [] noBlocks _ (fun p => { p with session := false }),
    fun _ _ => rfl, fun v m hpending => by simp only [exec, execFirmwareHandoverCommit, hpending]⟩

/-- A control write acts where none is in progress, else its outcome is BUSY. -/
theorem control_enabled {s : State} {fn : Nat} (hon : enabled s fn = true) (act : State → State) :
    ((s.vf fn).cstat.getLsbD 8 = true → control fn act s = .next (setStat fn 0x101 s)) ∧
    ((s.vf fn).cstat.getLsbD 8 = false → control fn act s = .next (act s)) := by
  constructor <;> intro h <;> simp only [control, hon, h, Bool.not_true, Bool.false_eq_true, if_true, if_false]

/-- A partition that is not halted is not switched in for a rollback. -/
theorem runHalted_of_running {s : State} {fn : Nat} (hhalt : (s.ctx fn).halt = none) : runHalted fn s = s := by
  simp [runHalted, hhalt]

/-- Two control writes agree on a state where their acts do. -/
theorem control_congr {s : State} {fn : Nat} {f g : State → State} (h : f s = g s) : control fn f s = control fn g s := by
  unfold control
  rw [h]

/-- Settles O45: every control write goes through `control`; what differs is its act. -/
theorem controlWrites : Obligations.ControlWrites := by
  intro s fn q hon
  have acts := control_enabled hon
  refine ⟨acts _, acts _, fun hnone => ?_, fun v hv => ⟨fun hdue => ?_, fun hdue => ?_⟩,
    fun hlive => ⟨?_, ?_, fun hhalt hrun sound => ?_⟩, fun hlive => ?_, acts (fun s => setStat fn 0 (dropTlb fn (fun e => e.page = q * 4096 / 2 ^ e.bits) s)),
    acts (fun s => setStat fn 0 (dropTlb fn (fun _ => true) s)),
    fun _ _ hup => congrArg Host.Outcome.next (viaMgmt_up hup _)⟩
  · have h := acts (setStat fn 2)
    simpa only [exec, execQueueDestroy, hnone] using h
  · have h := acts (fun s => setStat fn 0x100 (s.modQueue (queueKey fn q) (fun v => { v with destroying := true })))
    simpa only [exec, execQueueDestroy, hv, hdue, Bool.false_eq_true, if_false] using h
  · simp only [exec, execQueueDestroy, hv, hdue, if_true]
  · have h := acts (fun s => setStat fn 0 (tearDown fn s))
    rwa [control_congr (g := fun s => setStat fn 0 (if (s.ctx fn).live then tearDown fn s else s)) (by simp [hlive])] at h
  · have h := acts (setStat fn 1)
    rwa [control_congr (g := fun s => if (s.ctx fn).live then setStat fn 1 s else setStat fn 0 (startContext fn s))
      (by simp [hlive])] at h
  · have h := acts (fun s => setStat fn 0 (rollBack fn sound s))
    rwa [control_congr (g := fun s => if !(s.ctx fn).live || !rollbackOffered s fn then setStat fn 0 s
      else setStat fn 0 (rollBack fn sound (runHalted fn s)))
      (by simp [hlive, rollbackOffered, hhalt, runHalted_of_running hhalt])] at h
  · have h := acts (fun s => setStat fn 0 (startContext fn s))
    rwa [control_congr (g := fun s => if (s.ctx fn).live then setStat fn 1 s else setStat fn 0 (startContext fn s))
      (by simp [hlive])] at h

end Sys2Proof.Machine
end
section
/-! SUPPORT. Functions enabled, disabled and given their bandwidth (R391 to R393, R401). -/

namespace Sys2Proof.Machine

/-- What a claim about a function reads: the functions' registers and the contexts. -/
def functionsOf (s : State) : Tbl VF × Tbl Context := (s.vfs, s.ctxs)

/-- What an engine's counters are no part of: the functions, memory and the keys of its lines. -/
def outsideEngines (s : State) : (Tbl VF × Tbl Context) × List Host.Cell × Tbl Nat :=
  (functionsOf s, s.mem, s.lineCid)

theorem vf_of_functions {s t : State} (h : functionsOf t = functionsOf s) (fn : Nat) : t.vf fn = s.vf fn :=
  congrArg (fun l : Tbl VF => (look fn l).getD .reset) (congrArg Prod.fst h)

theorem ctx_of_functions {s t : State} (h : functionsOf t = functionsOf s) (fn : Nat) : t.ctx fn = s.ctx fn :=
  congrArg (fun l : Tbl Context => (look fn l).getD .reset) (congrArg Prod.snd h)

@[simp] theorem vf_modVf_same (s : State) (fn : Nat) (f : VF → VF) : (s.modVf fn f).vf fn = f (s.vf fn) := by
  unfold State.vf State.modVf
  rw [look_put, if_pos rfl]
  rfl

theorem clearEngines_outside (fn : Nat) (s : State) : outsideEngines (clearEngines fn s) = outsideEngines s := by
  unfold clearEngines
  extract_lets zeros s₁ s₂ s₃
  have h₁ : outsideEngines s₁ = outsideEngines s := by exact foldl_same (fun _ _ => by rfl) _ _
  have h₂ : outsideEngines s₂ = outsideEngines s₁ := by exact foldl_same (fun _ _ => by rfl) _ _
  have h₃ : outsideEngines s₃ = outsideEngines s₂ := by exact foldl_same (fun _ _ => by rfl) _ _
  exact h₃.trans (h₂.trans h₁)

theorem garbleLines_functions (fn : Nat) (s : State) : functionsOf (garbleLines fn s) = functionsOf s := by
  unfold garbleLines
  exact foldl_same (fun _ _ => by rfl) _ _

theorem freeClocks_functions (s : State) : functionsOf (freeClocks s) = functionsOf s := by
  unfold freeClocks
  refine foldl_same (fun t i => ?_) _ _
  dsimp only
  split <;> rfl

theorem dropQueue_functions (key : Nat) (s : State) : functionsOf (dropQueue key s) = functionsOf s := by
  unfold dropQueue freeForeman
  dsimp only
  cases hmapped : (look key s.queues).bind (·.mapped) with
  | none => rfl
  | some hw =>
    dsimp only
    split <;> rfl

/-! ### Memory, when keys come in force -/

/-- A key that a table does not hold is none of its entries'. -/
theorem look_none_iff {α : Type} (k : Nat) (t : Tbl α) : look k t = none ↔ ∀ p ∈ t, p.1 ≠ k := by
  induction t with
  | nil => simp [look]
  | cons p t ih => by_cases h : p.1 = k <;> simp [look, h, ih]

/-- A line that is freed takes new bytes, 128 of them. -/
theorem freeLine_mem (f : Nat → Byte) (line : Nat) (s : State) :
    ∃ l : List Byte, l.length = 128 ∧ (freeLine f line s).mem = memWrite s.mem (line * 128) l := by
  have hlen : ((upto 128).map (fun i => f (s.freeCtr + i))).length = 128 := by
    rw [List.length_map, upto, List.length_range]
  unfold freeLine
  generalize (upto 128).map _ = bytes at hlen ⊢
  exact ⟨bytes, hlen, rfl⟩

/-- Lines freed one after another take nothing of a line that is none of them. -/
theorem memByte_foldl_freeLine (f : Nat → Byte) (cid : State → Nat × Nat → Tbl Nat) {a : Nat} (l : List (Nat × Nat))
    (hl : ∀ p ∈ l, p.1 ≠ lineOf a) (s : State) (hwf : Memory.wf s.mem = true) :
    memByte (l.foldl (fun s p => { freeLine f p.1 s with lineCid := cid s p }) s).mem a = memByte s.mem a := by
  induction l generalizing s with
  | nil => rfl
  | cons p l ih =>
    have hp := hl p (List.mem_cons_self ..)
    unfold lineOf at hp
    obtain ⟨bytes, hlen, hmem⟩ := freeLine_mem f p.1 s
    rw [List.foldl_cons]
    generalize freeLine f p.1 s = t at hmem
    rw [ih (fun q hq => hl q (List.mem_cons_of_mem _ hq)) _ (by exact hmem ▸ wf_memWrite hwf _ _)]
    exact (congrArg (memByte · a) hmem).trans (memByte_memWrite_of_outside hwf (by omega))

theorem memByte_garbleLines {s : State} (hwf : Memory.wf s.mem = true) (fn : Nat) {a : Nat}
    (ha : look (lineOf a) s.lineCid = none) : memByte (garbleLines fn s).mem a = memByte s.mem a := by
  unfold garbleLines
  exact memByte_foldl_freeLine _ (fun s p => put p.1 (lineTag s (p.2 % 2 ^ 16)) s.lineCid) _
    (fun _ hp => (look_none_iff ..).mp ha _ (List.mem_of_mem_filter hp)) s hwf

/-! ### Enabled and disabled -/

/-- The registers of a function that has been enabled. -/
def enabledVf (v : VF) : VF := { v with ctl := v.ctl ||| 1, state := 0, code := 0 }

/-- An enabled function has its bit set, its state 0 and the context of its descriptor; memory outside lines that had
a context's key stays. -/
theorem enable_spec (fn : Nat) (d : List Byte) (s : State) :
    (enable fn d s).vf fn = enabledVf (s.vf fn) ∧
    (enable fn d s).ctx fn = readDescriptor d (s.ctx fn) ∧
    (∀ a, Memory.wf s.mem = true → look (lineOf a) s.lineCid = none →
      memByte (enable fn d s).mem a = memByte s.mem a) := by
  unfold enable
  extract_lets t
  have ht : outsideEngines t = outsideEngines s := by
    simp only [t]
    split
    · rfl
    · exact clearEngines_outside fn s
  clear_value t
  have hfun : functionsOf t = functionsOf s := congrArg Prod.fst ht
  have hmem : t.mem = s.mem := congrArg (·.2.1) ht
  have hcid : t.lineCid = s.lineCid := congrArg (·.2.2) ht
  rw [← vf_of_functions hfun fn, ← ctx_of_functions hfun fn, ← hmem, ← hcid]
  refine ⟨?_, ?_, fun a hwf ha => memByte_garbleLines (s := (t.modCtx fn (readDescriptor d)).modVf fn _) hwf fn ha⟩
  · rw [vf_of_functions (garbleLines_functions fn _)]
    exact vf_modVf_same ..
  · rw [ctx_of_functions (garbleLines_functions fn _)]
    exact ctx_modCtx_same ..

theorem enabled_of_ctl {s : State} {fn : Nat} {c : DWord} (h : (s.vf fn).ctl = c ||| 1) : enabled s fn = true := by
  simp [enabled, h]

/-- A function that has been disabled is off, and its context has ended. -/
theorem disable_spec (fn : Nat) (s : State) : enabled (disable fn s) fn = false ∧ ((disable fn s).ctx fn).live = false := by
  unfold disable
  extract_lets t keys u
  have hdrop : functionsOf (keys.foldl (fun s k => dropQueue k s) u) = functionsOf u := by
    exact foldl_same (fun s k => dropQueue_functions k s) _ _
  have hlive : (u.ctx fn).live = false := by
    have htear : ((tearDown fn s).ctx fn).live = false := by
      unfold tearDown
      extract_lets gone a b
      exact congrArg Context.live (ctx_modCtx_same (scrub fn b) fn (fun c => { c with live := false }))
    exact htear
  generalize keys.foldl (fun s k => dropQueue k s) u = w at hdrop ⊢
  constructor
  · unfold enabled
    rw [vf_of_functions (freeClocks_functions _), vf_modVf_same]
    simp
  · rw [ctx_of_functions (freeClocks_functions _)]
    exact (congrArg Context.live (ctx_of_functions hdrop fn)).trans hlive

/-- A table made of entries with different keys holds each of them. -/
theorem look_foldl_put {α : Type} (l t : Tbl α) (hl : (l.map (·.1)).Nodup) (f : Nat) :
    look f (l.foldl (fun t p => put p.1 p.2 t) t) = (look f l).or (look f t) := by
  induction l generalizing t with
  | nil => rfl
  | cons p l ih =>
    obtain ⟨hp, hl⟩ := List.nodup_cons.mp hl
    rw [List.foldl_cons, ih _ hl, look_put]
    by_cases hf : p.1 = f
    · have hnone : look f l = none :=
        (look_none_iff ..).mpr fun q hq hqf => hp (List.mem_map.mpr ⟨q, hq, hqf.trans hf.symm⟩)
      simp [hnone, look, hf]
    · simp [look, hf, Ne.symm hf]

/-- The registers of a function that is off, after a write of VFCTL. -/
def vfctlWritten (value : DWord) (v : VF) : VF :=
  { v with ctl := (value &&& 0xFFFFFFFFFFFFF000) ||| (value &&& 0xF0) }

/-- Settles O47: VFCTL, VFBAND and the register blocks by the guards of each; enabling and disabling by what they leave. -/
theorem functionSteps : Obligations.FunctionSteps := by
  intro s fn hpf hlt
  have hfn : (fn = 0 || Config.functions ≤ fn) = false := by simp [hpf, hlt]
  refine ⟨fun hup value hoff => ⟨fun h0 => ?_, fun h0 hno => ?_, fun h0 hmay => ?_⟩, fun hup value hon h0 hrun => ?_,
    fun hup value => ⟨fun hle hceil hon hfloors => ?_, fun hbad => ?_⟩, fun channel demand => ?_,
    fun hup value => congrArg Host.Outcome.next (viaMgmt_up hup _), fun hup off value hoff => ?_,
    fun hup off value hoff => ?_⟩
  · simp only [exec, execVfctlWrite, viaMgmt_up hup, writeVfctl, hfn, hoff, h0, Bool.false_eq_true, if_false, Bool.not_false,
      if_true]
  · simp only [exec, execVfctlWrite, viaMgmt_up hup, writeVfctl, hfn, hoff, h0, hno, Bool.false_eq_true, if_false,
      Bool.not_false, Bool.not_true, if_true]
  · obtain ⟨hvf, hctx, hmem⟩ := enable_spec fn (memRead s.mem (value &&& 0xFFFFFFFFFFFFF000).toNat 128)
      (s.modVf fn (vfctlWritten value))
    refine ⟨_, ?_, enabled_of_ctl (congrArg VF.ctl hvf), congrArg VF.state hvf, hctx, fun a hinv => hmem a hinv.1⟩
    simp only [exec, execVfctlWrite, viaMgmt_up hup, writeVfctl, hfn, hoff, h0, Bool.false_eq_true, if_false, Bool.not_true]
    exact congrArg Host.Outcome.next (if_neg (by rw [hmay]; exact Bool.false_ne_true))
  · refine ⟨_, ?_, disable_spec fn (s.modVf fn (fun v => { v with
      ctl := (value &&& 0xFFFFFFFFFFFFF000) ||| (v.ctl &&& 0xF1) }))⟩
    have hidle : ((s.vf fn).state = 2 && (s.ctx fn).running) = false := by simp [hrun]
    simp only [exec, execVfctlWrite, viaMgmt_up hup, writeVfctl, hfn, hon, h0, Bool.false_eq_true, if_false, if_true]
    exact congrArg Host.Outcome.next (if_neg (by rw [Bool.not_eq_true]; exact hidle))
  · simp only [exec, execVfbandWrite, viaMgmt_up hup, writeVfband, hfn, Bool.false_eq_true, if_false]
    refine congrArg Host.Outcome.next (if_neg ?_)
    rw [Bool.or_eq_true, Bool.or_eq_true, decide_eq_true_iff, decide_eq_true_iff, Bool.and_eq_true, Bool.not_eq_true']
    rintro ((h | h) | ⟨-, h⟩)
    · exact absurd hle (not_le.mpr h)
    · exact absurd hceil (not_le.mpr h)
    · exact absurd hfloors (ne_true_of_eq_false h)
  · simp only [exec, execVfbandWrite, viaMgmt_up hup, writeVfband, hfn, Bool.false_eq_true, if_false]
    refine congrArg Host.Outcome.next (if_pos ?_)
    rw [Bool.or_eq_true, Bool.or_eq_true, decide_eq_true_iff, decide_eq_true_iff]
    exact .inl hbad
  · refine ⟨_, rfl, ?_, rfl, rfl, fun c hc f hnodup => ?_⟩
    · rw [look_put, if_pos rfl]
      cases look channel s.channels <;> rfl
    · rw [look_put, if_pos rfl] at hc
      cases hc
      rw [look_foldl_put _ _ hnodup]
      simp [look]
  · have hreg : writeMgmt (0x8000 + 0x20 * fn + off) value s = s.modVf fn (endpointWrite off value) := by
      have hfn' : (0x8000 + 0x20 * fn + off - 0x8000) / 0x20 = fn := by omega
      have hoff' : (0x8000 + 0x20 * fn + off) % 0x20 = off := by omega
      unfold Config.functions at hlt
      unfold writeMgmt
      rw [if_neg (by omega), if_neg (by omega), if_pos (by simp; omega), hfn', hoff']
    exact congrArg Host.Outcome.next ((viaMgmt_up hup _).trans hreg)
  · have hreg : writeMgmt (0x10000 + 0x80 * fn + off) value s = s.modVf fn (blockWrite s off value) := by
      have hfn' : (0x10000 + 0x80 * fn + off - 0x10000) / 0x80 = fn := by omega
      have hoff' : (0x10000 + 0x80 * fn + off) % 0x80 = off := by omega
      unfold Config.functions at hlt
      unfold writeMgmt Config.functions
      rw [if_neg (by omega), if_neg (by omega), if_neg (by simp; omega), if_pos (by simp; omega), hfn', hoff']
    exact congrArg Host.Outcome.next ((viaMgmt_up hup _).trans hreg)

end Sys2Proof.Machine
end
section
/-! SUPPORT. What traffic at the home slices leaves (R202, R203). -/

namespace Sys2Proof.Machine

/-- What reads and writes at the home slices leave: programs, cores, queues, functions and what leaves the package. -/
structure Programs where
  threads : Tbl Thread
  wgs : Tbl Workgroup
  cores : Tbl Core
  queues : Tbl Queue
  foreman : Tbl ForemanThread
  vfs : Tbl VF
  out : List Out

def programsOf (s : State) : Programs := ⟨s.threads, s.wgs, s.cores, s.queues, s.foreman, s.vfs, s.out⟩

/-- What reads there leave besides: the contexts. -/
def beyondSlices (s : State) : Programs × Tbl Context := (programsOf s, s.ctxs)

theorem walkSlices_beyond (fn va : Nat) (s : State) : beyondSlices (walkSlices fn va s) = beyondSlices s := by
  unfold walkSlices readTables
  exact foldl_same (fun _ _ => by rfl) _ _

theorem sectXlat_beyond (fn core va : Nat) (s : State) : beyondSlices (sectXlat fn core va s).2 = beyondSlices s := by
  unfold sectXlat
  split
  · rfl
  · split <;> exact walkSlices_beyond fn va s

theorem sliceReads_beyond (fn cid pa n : Nat) (s : State) : beyondSlices (sliceReads fn cid pa n s) = beyondSlices s := by
  unfold sliceReads
  exact foldl_same (fun _ _ => by rfl) _ _

theorem readNote_beyond (fn core fuel va n : Nat) (s : State) :
    beyondSlices (readNote fn core fuel va n s) = beyondSlices s := by
  induction fuel generalizing va n s with
  | zero => rfl
  | succ fuel ih =>
    unfold readNote
    dsimp only
    split
    · rfl
    · split
      · rw [ih, sliceReads_beyond, sectXlat_beyond]
      · exact sectXlat_beyond ..

theorem readNote_programs (fn core fuel va n : Nat) (s : State) : programsOf (readNote fn core fuel va n s) = programsOf s :=
  congrArg Prod.fst (readNote_beyond ..)

theorem tlbTake_ctxs (fn core va : Nat) (s : State) : (tlbTake fn core va s).ctxs = s.ctxs := by
  have hctxs : (sectXlat fn core va s).2.ctxs = s.ctxs := congrArg Prod.snd (sectXlat_beyond fn core va s)
  unfold tlbTake
  split
  · rfl
  · split <;> rename_i h <;> rw [h] at hctxs <;> exact hctxs

/-! ### Writes -/

theorem lineWrite_programs (fn cid : Nat) (s : State) (p : Nat × List Byte) :
    programsOf (lineWrite fn cid s p) = programsOf s := by
  unfold lineWrite
  dsimp only
  split <;> rfl

theorem loggedWrite_programs (fn cid d : Nat) (bytes : List Byte) (s : State) :
    programsOf (loggedWrite fn cid d bytes s) = programsOf s := by
  unfold loggedWrite
  exact foldl_same (lineWrite_programs fn cid) _ _

theorem engineWrite_programs {fn core fuel va : Nat} {l : List Byte} {s t : State}
    (h : engineWrite fn core fuel va l s = .inr t) : programsOf t = programsOf s := by
  induction fuel generalizing va l s with
  | zero => cases h; rfl
  | succ fuel ih =>
    unfold engineWrite at h
    split at h
    · cases h; rfl
    · dsimp only at h
      split at h
      · split at h
        · cases h
        · exact (ih h).trans ((loggedWrite_programs ..).trans (congrArg Prod.fst (sectXlat_beyond ..)))
      · cases h

theorem memWrite_append (m : List Host.Cell) (a : Nat) (l l' : List Byte) :
    memWrite m a (l ++ l') = memWrite (memWrite m a l) (a + l.length) l' := by
  induction l generalizing m a with
  | nil => rfl
  | cons b l ih => simp only [List.cons_append, memWrite, ih, List.length_cons, Nat.add_assoc, Nat.add_comm 1]

theorem lineWrite_mem (fn cid : Nat) (s : State) (p : Nat × List Byte) :
    (lineWrite fn cid s p).mem = memWrite s.mem p.1 p.2 := by
  unfold lineWrite
  dsimp only
  split <;> rfl

/-- Bytes written line by line are written in memory as one. -/
theorem foldl_lineWrite_mem (fn cid fuel d : Nat) (bytes : List Byte) (hfuel : bytes.length < fuel) (s : State) :
    ((linePieces fuel d bytes).foldl (lineWrite fn cid) s).mem = memWrite s.mem d bytes := by
  induction fuel generalizing d bytes s with
  | zero => omega
  | succ fuel ih =>
    unfold linePieces
    split
    next hnil => rw [List.isEmpty_iff.mp hnil]; rfl
    next hne =>
      have hpos : 0 < bytes.length := List.length_pos_iff.mpr (fun h => hne (List.isEmpty_iff.mpr h))
      dsimp only
      rw [List.foldl_cons, ih _ _ (by rw [List.length_drop]; omega), lineWrite_mem]
      conv_rhs => rw [← List.take_append_drop (128 - d % 128) bytes, memWrite_append]
      by_cases hlong : 128 - d % 128 ≤ bytes.length
      · rw [List.length_take_of_le hlong]
      · rw [List.drop_of_length_le (by omega)]
        rfl

theorem loggedWrite_mem (fn cid d : Nat) (bytes : List Byte) (s : State) :
    (loggedWrite fn cid d bytes s).mem = memWrite s.mem d bytes :=
  foldl_lineWrite_mem fn cid _ d bytes (Nat.lt_succ_self _) s

end Sys2Proof.Machine
end
section
/-! SUPPORT. Inbound packets and the Foreman (R389, R397, R399, R411, R412). -/

namespace Sys2Proof.Machine

/-! ### An inbound packet -/

/-- The state in which a packet is taken: what waited has been tried again, and its flow counts it. -/
def inboundReady (i : Inbound) (s : State) : State :=
  let s := retryInbound i.dest.fn (postLogs s)
  if i.dest.mode = .rod then { s with flows := put i.dest.flow (i.dest.seq + 1) s.flows } else s

/-- A packet that waits for nothing is performed. -/
theorem takeInbound_of_free {s : State} {i : Inbound} (hfree : inboundWaits s i = false) :
    takeInbound i s = performInbound i s := by
  have hroom : inboundRoom s i.dest.fn i.addr i.kind.writes = true := by
    unfold inboundWaits at hfree
    simpa using (Bool.or_eq_false_iff.mp hfree).2
  have hsound : (!(inboundLines s i.dest.fn i.addr i.kind.writes).isEmpty && !logSound s i.dest.fn) = false := by
    unfold inboundRoom undoHolds at hroom
    cases hl : inboundLines s i.dest.fn i.addr i.kind.writes with
    | nil => rfl
    | cons l ls =>
      rw [hl] at hroom
      simp only [List.length_cons, Nat.succ_ne_zero, decide_false, Bool.false_or, Bool.and_eq_true] at hroom
      simp [hroom.1]
  unfold takeInbound
  dsimp only
  rw [hsound, hfree]
  rfl

/-- A packet that comes by a delivery mode that its operation may not use, or is too long, is refused. -/
theorem arriveInbound_refused {s : State} {i : Inbound} {job : Word} (hacc : accepts412 s i.dest.addr i.dest.fn job = true)
    (hbad : i.kind.takes i.dest.mode = false ∨ packetBytes < i.kind.writes) :
    arriveInbound job i s = refuseInbound i.dest.fn s := by
  have hcond : (!i.kind.takes i.dest.mode || decide (packetBytes < i.kind.writes)) = true := by
    rcases hbad with h | h <;> simp [h]
  unfold arriveInbound
  rw [hacc, hcond]
  rfl

section
variable {s : State} {i : Inbound} {job : Word} (hacc : accepts412 s i.dest.addr i.dest.fn job = true)
  (htakes : i.kind.takes i.dest.mode = true) (hlen : i.kind.writes ≤ packetBytes)
include hacc htakes hlen

/-- One that was trimmed is asked for again. -/
theorem arriveInbound_trimmed (htrim : i.dest.trimmed = true) :
    arriveInbound job i s = { s with out := s.out ++ [.inboundTrimmed i.dest.fn] } := by
  unfold arriveInbound
  simp only [hacc, htakes, htrim, not_lt.mpr hlen, decide_false, Bool.not_true, Bool.or_self, Bool.false_eq_true, if_false,
    if_true]

/-- A packet in its turn that need not wait is performed. -/
theorem arriveInbound_performed (htrim : i.dest.trimmed = false)
    (hturn : i.dest.mode = .rod → i.dest.seq = (look i.dest.flow (retryInbound i.dest.fn (postLogs s)).flows).getD 0)
    (hfree : inboundWaits (inboundReady i s) i = false) :
    arriveInbound job i s = performInbound i (inboundReady i s) := by
  rw [← takeInbound_of_free hfree]
  unfold arriveInbound inboundReady
  simp only [hacc, htakes, htrim, not_lt.mpr hlen, decide_false, Bool.not_true, Bool.or_self, Bool.false_eq_true, if_false]
  split
  next hrod => rw [if_pos (hturn hrod)]
  next => rfl
end

/-! ### Records -/

theorem slotNote_programs (v : Queue) (n : Nat) (s : State) : programsOf (slotNote v n s) = programsOf s :=
  readNote_programs ..

section
variable {s : State} {fn q : Nat} {v : Queue} {r : List Byte} (hv : look (queueKey fn q) s.queues = some v)
  (hon : consuming s v = true)
include hv hon

theorem execAppendConsume_blocked (hfirst : v.rereads = 0) (hnone : v.sub = 0 ∨ announced v = 0) :
    execAppendConsume fn q s = .next (blockForeman v s) := by
  have hcond : (v.sub = 0 || announced v = 0) = true := by simpa using hnone
  simp only [execAppendConsume, hv, hon, hfirst, hcond, Bool.not_true, bne_self_eq_false, Bool.or_self, Bool.false_eq_true,
    if_false, if_true]

section
variable (hfirst : v.rereads = 0) (hsub : v.sub ≠ 0)
include hfirst hsub

theorem execAppendConsume_overrun (hover : 2 ^ v.logSub < announced v) :
    execAppendConsume fn q s = .next (queueError v 3 v.consumer s) := by
  have hcond : (v.sub = 0 || announced v = 0) = false := by
    rw [decide_eq_false hsub, decide_eq_false (Nat.ne_of_gt (Nat.zero_lt_of_lt hover)), Bool.or_self]
  simp only [execAppendConsume, hv, hon, hfirst, hcond, hover, Bool.not_true, bne_self_eq_false, Bool.or_self,
    Bool.false_eq_true, if_false, if_true]

/-- An announced record is taken where its stamp is right; else it is read again. -/
theorem execAppendConsume_record (hany : announced v ≠ 0) (hfits : announced v ≤ 2 ^ v.logSub)
    (hr : slotRecord s v v.consumer = some r) :
    execAppendConsume fn q s = .next (if valAt 0x30 2 r = stampOf v.consumer then takeRecord v r (slotNote v v.consumer s)
      else modForeman v (fun t => { t with timer := some 2400 })
        ((slotNote v v.consumer s).modQueue (queueKey fn q) (fun v => { v with rereads := 1 }))) := by
  have hcond : (v.sub = 0 || announced v = 0) = false := by
    rw [decide_eq_false hsub, decide_eq_false hany, Bool.or_self]
  simp only [execAppendConsume, hv, hon, hfirst, hcond, hr, not_lt.mpr hfits, Bool.not_true, bne_self_eq_false, Bool.or_self,
    Bool.false_eq_true, if_false]
  split <;> rfl
end

/-- A record that is read again is taken where its stamp is right, read once more, or given up after 16 times. -/
theorem execStampReread_record (hagain : v.rereads ≠ 0) (hr : slotRecord s v v.consumer = some r) :
    execStampReread fn q s = .next (if valAt 0x30 2 r = stampOf v.consumer
      then takeRecord v r ((slotNote v v.consumer s).modQueue (queueKey fn q) (fun v => { v with rereads := 0 }))
      else if 16 ≤ v.rereads then queueError v 2 v.consumer (slotNote v v.consumer s)
      else (slotNote v v.consumer s).modQueue (queueKey fn q) (fun v => { v with rereads := v.rereads + 1 })) := by
  simp only [execStampReread, hv, hon, hagain, hr, Bool.not_true, decide_false, Bool.or_self, Bool.false_eq_true, if_false]
  split
  · rfl
  · split <;> rfl

end

/-- A queue that is consumed has a Foreman thread. -/
theorem foreman_of_consuming {s : State} {v : Queue} (hon : consuming s v = true) {hw : Nat} (hmap : v.mapped = some hw) :
    ∃ t, look hw s.foreman = some t := by
  unfold consuming at hon
  rw [hmap, Option.bind_some] at hon
  cases ht : look hw s.foreman with
  | some t => exact ⟨t, rfl⟩
  | none => simp [ht] at hon

/-- After a torn append the queue counts one reading, and its thread waits. -/
theorem torn_record {s t : State} (ht : programsOf t = programsOf s) {fn q : Nat} {v : Queue}
    (hv : look (queueKey fn q) s.queues = some v) (hon : consuming s v = true) :
    let u := modForeman v (fun t => { t with timer := some 2400 }) (t.modQueue (queueKey fn q) (fun v => { v with rereads := 1 }))
    (look (queueKey fn q) u.queues).map (·.rereads) = some 1 ∧
    (∀ hw, v.mapped = some hw → (look hw u.foreman).map (·.timer) = some (some 2400)) := by
  have hqueues : t.queues = s.queues := congrArg Programs.queues ht
  have hforeman : t.foreman = s.foreman := congrArg Programs.foreman ht
  refine ⟨?_, fun hw hmap => ?_⟩
  · have hq : ∀ f (w : State), (modForeman v f w).queues = w.queues := by
      intro f w
      unfold modForeman
      split <;> rfl
    rw [hq, modQueue_queues, look_change, if_pos rfl, hqueues, hv]
    rfl
  · obtain ⟨z, hz⟩ := foreman_of_consuming hon hmap
    simp [modForeman, hmap, hforeman, hz]

/-- A notify write gives the queue of its slot a new producer index, and wakes its thread (R397). -/
theorem notifyAct_queue {s : State} {fn slot key : Nat} {v : Queue} (value : DWord)
    (hq : s.queues.find? (fun p => p.2.fn = fn && p.2.notify = slot) = some (key, v)) :
    notifyAct fn slot value s = wakeForeman v ((s.modVf fn (fun v => { v with
      notify := setNth (loWord value) slot v.notify })).modQueue key (fun v => { v with
      producer := loWord value, notified := true })) := by
  unfold notifyAct
  dsimp only [modVf_queues]
  rw [hq]

/-- Settles O46: an inbound packet that need not wait is performed; a record is taken, read again or given up. -/
theorem foremanSteps_hold : Obligations.ForemanSteps := by
  intro s fn q
  refine ⟨fun d job slot value key v hacc hslot => ⟨fun hmode => ?_, fun hmode htrim => ?_⟩,
    fun v hv hon => ⟨fun hfirst hnone => execAppendConsume_blocked hv hon hfirst hnone,
      fun hfirst hsub hover => execAppendConsume_overrun hv hon hfirst hsub hover,
      fun r hr hstamp => ⟨fun hfirst hsub hany hfits => ?_, fun hagain => ?_⟩,
      fun r hr hstamp hagain => ⟨fun hfew => ?_, fun hmany => ?_⟩,
      fun r hr hstamp hfirst hsub hany hfits => ⟨_, ?_, torn_record (slotNote_programs v v.consumer s) hv hon⟩⟩,
    fun hw t ht htimer => ?_⟩
  · have htakes : (InboundKind.notify slot value).takes d.mode = false := by
      cases hm : d.mode with
      | rod => exact absurd hm hmode
      | rud => rfl
      | other => rfl
    simp only [exec, execNotifyWrite, if_neg (not_le.mpr hslot)]
    exact congrArg Host.Outcome.next (arriveInbound_refused (i := ⟨d, 0, .notify slot value⟩) hacc (.inl htakes))
  · intro s0 s1 hturn hfree hq
    have htakes : (InboundKind.notify slot value).takes d.mode = true := by rw [hmode]; rfl
    have hready : inboundReady ⟨d, 0, .notify slot value⟩ s = s1 := if_pos hmode
    simp only [exec, execNotifyWrite, if_neg (not_le.mpr hslot)]
    rw [arriveInbound_performed (i := ⟨d, 0, .notify slot value⟩) hacc htakes (Nat.zero_le _) htrim (fun _ => hturn)
      (hready ▸ hfree), hready]
    simp only [performInbound, notifyAct_queue value hq]
  · exact (execAppendConsume_record hv hon hfirst hsub hany hfits hr).trans (by rw [if_pos hstamp])
  · exact (execStampReread_record hv hon hagain hr).trans (by rw [if_pos hstamp])
  · exact (execStampReread_record hv hon hagain hr).trans (by rw [if_neg hstamp, if_neg (by omega)])
  · exact (execStampReread_record hv hon hagain hr).trans (by rw [if_neg hstamp, if_pos hmany])
  · exact (execAppendConsume_record hv hon hfirst hsub hany hfits hr).trans (by rw [if_neg hstamp])
  · have hset : t.timer.isNone = false := by
      cases hc : t.timer with
      | none => exact absurd hc htimer
      | some _ => rfl
    simp only [exec, execForemanTimer, ht, hset, Bool.false_eq_true, if_false]
    exact ⟨_, rfl, by simp, by simp⟩

end Sys2Proof.Machine
end
section
/-! SUPPORT. What peers answer, and remote accesses that are performed (R411, R412, R415). -/

namespace Sys2Proof.Machine

section
variable {s : State} {id : Nat} {o : NetOp} (ho : look id s.net = some o) (hwait : netAwaited s o = true)
include ho hwait

theorem peerResponse_error (n : Nat) : execPeerResponse id (.error n) s = .next (netFail o n (netDrop id s)) := by
  simp only [execPeerResponse, ho, hwait, Bool.not_true, Bool.false_eq_true, if_false]

theorem transferAbandoned_awaited (n : Nat) : execTransferAbandoned id n s = .next (netFail o n (netDrop id s)) := by
  simp only [execTransferAbandoned, ho, hwait, if_true]

theorem peerResponse_ack (hop : o.op ≠ 0x311) : execPeerResponse id .ack s =
    .next (doneHead (.ne o.wg) (if o.short then 2 else 0) o.len (netDrop id s)) := by
  simp only [execPeerResponse, ho, hwait, hop, Bool.not_true, Bool.false_eq_true, if_false]

/-- Bytes that an NGET asked for are written as they come. -/
theorem peerResponse_data {c : Cmd} (hc : (queueOf s (.ne o.wg)).head? = some c) {off : Nat} {bytes : List Byte}
    (hfits : answerFits o c off bytes = true) : execPeerResponse id (.data off bytes) s =
    .next (ngetFinish o.wg (2 ^ 30) (modHead (.ne o.wg) (fun c => { c with answers := c.answers ++ [(off, bytes)] })
      (if answered c + bytes.length = o.len then netDrop id s else s))) := by
  have hfilter : (queueOf s (.ne o.wg)).head?.filter (fun c => answerFits o c off bytes) = some c := by
    rw [hc, Option.filter_some, if_pos hfits]
  simp only [execPeerResponse, ho, hwait, hfilter, Bool.not_true, Bool.false_eq_true, if_false]

theorem peerResponse_trimmed {i : Nat} {p : Out}
    (hp : (packets o (if o.op = 0x310 then ((queueOf s (.ne o.wg)).head?.map (·.data)).getD [] else []))[i]? = some p) :
    execPeerResponse id (.trimmed i) s = .next { s with out := s.out ++ [p] } := by
  simp only [execPeerResponse, ho, hwait, hp, Bool.not_true, Bool.false_eq_true, if_false]
  rfl
end

theorem netFail_of_put {o : NetOp} (hop : o.op ≠ 0x311) (n : Nat) (s : State) :
    netFail o n s = doneHead (.ne o.wg) 2 n s := if_pos (by simpa using hop)

/-- Bytes fit that are some, no more than a packet's and within what was asked for: of an ordered operation the next
ones, of an unordered one any that have not come. -/
theorem answerFits_of {o : NetOp} {c : Cmd} {off : Nat} {bytes : List Byte} (hop : o.op = 0x311) (hsome : bytes ≠ [])
    (hlen : bytes.length ≤ 4096) (hend : off + bytes.length ≤ o.len) (hnext : o.ordered = true → off = answered c)
    (hnew : o.ordered = false → ∀ x ∈ c.answers, off + bytes.length ≤ x.1 ∨ x.1 + x.2.length ≤ off) :
    answerFits o c off bytes = true := by
  unfold answerFits packetBytes
  cases hord : o.ordered with
  | true => simpa [hop, hsome, hlen, hend] using hnext hord
  | false => simpa [hop, hsome, hlen, hend] using hnew hord

/-! ### Bytes of a word -/

theorem ofBytes_lt (l : List Byte) : ofBytes l < 256 ^ l.length := by
  induction l with
  | nil => exact Nat.one_pos
  | cons b l ih =>
    have hb : b.toNat < 256 := b.isLt
    rw [List.length_cons, Nat.pow_succ']
    simp only [ofBytes]
    omega

theorem ofBytes_toBytes (n v : Nat) : ofBytes (toBytes n v) = v % 256 ^ n := by
  induction n generalizing v with
  | zero => exact (Nat.mod_one v).symm
  | succ n ih =>
    rw [toBytes, ofBytes, ih, Nat.pow_succ', Nat.mod_mul, BitVec.toNat_ofNat]

theorem toBytes_length (n v : Nat) : (toBytes n v).length = n := by
  induction n generalizing v with
  | zero => rfl
  | succ n ih => rw [toBytes, List.length_cons, ih]

/-- The word that an inbound atomic leaves. -/
theorem atomicValue_of_lt (max1 : Bool) {old : Nat} (hold : old < 2 ^ 64) (v : DWord) :
    atomicValue max1 old v % 256 ^ 8 = if max1 then max old v.toNat else (old + v.toNat) % 2 ^ 64 := by
  have hv := v.isLt
  unfold atomicValue wrapNat
  split <;> omega

/-! ### Remote accesses -/

theorem inboundReady_programs (i : Inbound) (s : State) :
    programsOf (inboundReady i s) = programsOf (retryInbound i.dest.fn (postLogs s)) := by
  unfold inboundReady
  dsimp only
  split <;> rfl

theorem inboundReady_leaves (i : Inbound) (s : State) :
    Leaves (retryInbound i.dest.fn (postLogs s)) (inboundReady i s) := by
  unfold inboundReady
  dsimp only
  split <;> exact ⟨rfl, rfl⟩

/-- The programs, cores and queues of two states are the same. -/
def SamePrograms (s t : State) : Prop :=
  t.threads = s.threads ∧ t.wgs = s.wgs ∧ t.cores = s.cores ∧ t.queues = s.queues

theorem SamePrograms.trans {s t u : State} (h : SamePrograms s t) (g : SamePrograms t u) : SamePrograms s u := by
  obtain ⟨hthreads, hwgs, hcores, hqueues⟩ := h
  obtain ⟨gthreads, gwgs, gcores, gqueues⟩ := g
  exact ⟨gthreads.trans hthreads, gwgs.trans hwgs, gcores.trans hcores, gqueues.trans hqueues⟩

theorem samePrograms_of {s t : State} (h : programsOf t = programsOf s) : SamePrograms s t :=
  ⟨congrArg Programs.threads h, congrArg Programs.wgs h, congrArg Programs.cores h, congrArg Programs.queues h⟩

section
variable {s : State} {d : EndpointName} {a : Nat}

theorem performInbound_refused {bytes : List Byte} (hok : inboundOk s d.fn .write a bytes.length = false) :
    performInbound ⟨d, a, .write bytes⟩ s = refuseInbound d.fn s := by
  simp only [performInbound, hok, Bool.not_false, if_true]

theorem performInbound_write {bytes : List Byte} (hok : inboundOk s d.fn .write a bytes.length = true) {t : State}
    (ht : engineWrite d.fn (firstCore s d.fn) (bytes.length / 4096 + 2) a bytes s = .inr t) :
    performInbound ⟨d, a, .write bytes⟩ s = { t with out := t.out ++ [.inboundAck d.fn []] } := by
  simp only [performInbound, hok, ht, Bool.not_true, Bool.false_eq_true, if_false]

theorem performInbound_read {len : Nat} (hok : inboundOk s d.fn .read a len = true) {b : List Byte}
    (hb : engineRead s d.fn (firstCore s d.fn) (len / 4096 + 2) a len = .inr b) :
    performInbound ⟨d, a, .read len⟩ s = { readNote d.fn (firstCore s d.fn) (len / 4096 + 2) a len s with
      out := (readNote d.fn (firstCore s d.fn) (len / 4096 + 2) a len s).out ++ readAnswer d.fn b } := by
  simp only [performInbound, hok, hb, Bool.not_true, Bool.false_eq_true, if_false]

/-- The state after an inbound atomic: the word has its new value, other bytes and programs stay, and the old word is
the answer. -/
theorem inboundAtomic_spec (hwf : Memory.wf s.mem = true) (fn core : Nat) (max1 : Bool) (v : DWord) (pa cid : Nat) :
    let old := ofBytes (memRead s.mem pa 8)
    let u := loggedWrite fn cid pa (toBytes 8 (atomicValue max1 old v)) (readNote fn core 2 a 8 s)
    programsOf u = programsOf s ∧
    ofBytes (memRead u.mem pa 8) = (if max1 then max old v.toNat else (old + v.toNat) % 2 ^ 64) ∧
    (∀ x, (x < pa ∨ pa + 8 ≤ x) → memByte u.mem x = memByte s.mem x) := by
  intro old u
  have hmem : u.mem = memWrite s.mem pa (toBytes 8 (atomicValue max1 old v)) :=
    (loggedWrite_mem ..).trans (by rw [readNote_mem])
  have hold : old < 2 ^ 64 := by
    have h := ofBytes_lt (memRead s.mem pa 8)
    rwa [memRead_length] at h
  refine ⟨(loggedWrite_programs ..).trans (readNote_programs ..), ?_, fun x hx => ?_⟩
  · have hread := memRead_memWrite hwf pa (toBytes 8 (atomicValue max1 old v))
    rw [toBytes_length] at hread
    rw [hmem, hread, ofBytes_toBytes, atomicValue_of_lt max1 hold]
  · rw [hmem, memByte_memWrite_of_outside hwf (by rwa [toBytes_length])]

/-- An inbound atomic is performed: the old word is the answer. -/
theorem performInbound_atomic (hwf : Memory.wf s.mem = true) (max1 : Bool) (v : DWord) {pa cid : Nat} (halign : a % 8 = 0)
    (hok : inboundOk s d.fn .write a 8 = true) (hx : engineXlat s d.fn (firstCore s d.fn) .write a 8 = .ok pa cid)
    (hown : foreign s cid pa = false) :
    let old := ofBytes (memRead s.mem pa 8)
    ∃ t, performInbound ⟨d, a, .atomic max1 v⟩ s = t ∧ t.out = s.out ++ [.inboundAck d.fn (toBytes 8 old)] ∧
      ofBytes (memRead t.mem pa 8) = (if max1 then max old v.toNat else (old + v.toNat) % 2 ^ 64) ∧
      (∀ x, (x < pa ∨ pa + 8 ≤ x) → memByte t.mem x = memByte s.mem x) ∧ SamePrograms s t := by
  intro old
  obtain ⟨hprog, hword, hbytes⟩ := inboundAtomic_spec (a := a) hwf d.fn (firstCore s d.fn) max1 v pa cid
  simp only [performInbound, halign, hok, hx, hown, bne_self_eq_false, Bool.not_true, Bool.or_self, Bool.false_eq_true,
    if_false]
  generalize loggedWrite _ _ _ _ _ = u at hprog hword hbytes ⊢
  have hout : u.out = s.out := congrArg Programs.out hprog
  have hsame : SamePrograms s u := samePrograms_of hprog
  exact ⟨_, rfl, congrArg (· ++ _) hout, hword, hbytes, hsame⟩
end

/-! ### What a function's partition is, when packets come -/

/-- The sections that a function has (R391): no packet changes them. -/
def sectionsNow (s : State) : Nat → DWord := fun fn => (s.vf fn).sect

theorem sectionsNow_of_vfs {s t : State} (h : t.vfs = s.vfs) : sectionsNow t = sectionsNow s := by
  unfold sectionsNow State.vf
  rw [h]

theorem firstCore_of_sections {s t : State} (h : sectionsNow t = sectionsNow s) (fn : Nat) : firstCore t fn = firstCore s fn :=
  congrArg (fun d : DWord => 4 * (sectionsOf d).headD 0) (congrFun h fn)

theorem raiseHalt_vfs (fn code unit : Nat) (note : List Byte) (s : State) : (raiseHalt fn code unit note s).vfs = s.vfs := by
  unfold raiseHalt abandonCkpt
  split
  · rfl
  · dsimp only
    split <;> rfl

theorem orIntegrity_vfs (fn unit : Nat) (met : Option (Nat × Nat)) (s : State) : (orIntegrity fn unit met s).vfs = s.vfs := by
  cases met with
  | none => rfl
  | some x => exact raiseHalt_vfs ..

theorem postLogs_vfs (s : State) : (postLogs s).vfs = s.vfs := by
  have hpost : ∀ (s : State) (p : Nat × Context), (postUndo p.1 s).vfs = s.vfs := by
    intro s p
    unfold postUndo
    exact foldl_same (g := State.vfs) (fun _ _ => by rfl) _ s
  unfold postLogs
  exact foldl_same hpost _ s

theorem notifyAct_sections (fn slot : Nat) (value : DWord) (s : State) :
    sectionsNow (notifyAct fn slot value s) = sectionsNow s := by
  have hmod : sectionsNow (s.modVf fn (fun v => { v with notify := setNth (loWord value) slot v.notify })) = sectionsNow s := by
    funext n
    unfold sectionsNow State.vf State.modVf
    rw [look_put]
    split
    next h => subst h; rfl
    next => rfl
  refine Eq.trans ?_ hmod
  unfold notifyAct wakeForeman modForeman
  dsimp only
  split
  · rfl
  · split <;> rfl

theorem performInbound_sections (i : Inbound) (s : State) : sectionsNow (performInbound i s) = sectionsNow s := by
  have hfail : ∀ fn met, sectionsNow (inboundFailed fn met s) = sectionsNow s := fun fn met =>
    sectionsNow_of_vfs (orIntegrity_vfs fn _ met _)
  unfold performInbound
  dsimp only
  split
  · split
    · rfl
    · split
      · exact hfail ..
      next h => exact sectionsNow_of_vfs (congrArg Programs.vfs (engineWrite_programs h))
  · split
    · rfl
    · split
      · exact hfail ..
      · exact sectionsNow_of_vfs (congrArg Programs.vfs (readNote_programs ..))
  · split
    · rfl
    · split
      · split
        · exact hfail ..
        · exact sectionsNow_of_vfs (congrArg Programs.vfs ((loggedWrite_programs ..).trans (readNote_programs ..)))
      · rfl
  · exact notifyAct_sections ..

theorem takeInbound_sections (i : Inbound) (s : State) : sectionsNow (takeInbound i s) = sectionsNow s := by
  unfold takeInbound
  dsimp only
  split
  · exact sectionsNow_of_vfs (raiseHalt_vfs ..)
  · split
    · rfl
    · exact performInbound_sections i s

theorem inboundReady_sections (i : Inbound) (s : State) : sectionsNow (inboundReady i s) = sectionsNow s := by
  have hretry : sectionsNow (retryInbound i.dest.fn (postLogs s)) = sectionsNow s := by
    unfold retryInbound
    exact (foldl_same (g := sectionsNow) (fun s i => takeInbound_sections i s) _ _).trans
      (sectionsNow_of_vfs (postLogs_vfs s))
  refine Eq.trans ?_ hretry
  unfold inboundReady
  dsimp only
  split <;> rfl

/-- An access by unordered delivery, or in its turn, that need not wait is performed in the state that its flow leaves. -/
theorem inbound_performed {s : State} {d : EndpointName} {job : Word} (hacc : accepts412 s d.addr d.fn job = true)
    (htrim : d.trimmed = false)
    (hturn : d.mode = .rod → d.seq = (look d.flow (retryInbound d.fn (postLogs s)).flows).getD 0) (a : Nat)
    {kind : InboundKind} (htakes : kind.takes d.mode = true) (hlen : kind.writes ≤ packetBytes)
    (hfree : inboundWaits (inboundReady ⟨d, a, kind⟩ s) ⟨d, a, kind⟩ = false) :
    arriveInbound job ⟨d, a, kind⟩ s = performInbound ⟨d, a, kind⟩ (inboundReady ⟨d, a, kind⟩ s) :=
  arriveInbound_performed (i := ⟨d, a, kind⟩) hacc htakes hlen htrim hturn hfree

/-- An access other than a notify write comes by ordered or unordered delivery. -/
theorem takes_of_access {m : Delivery} (hm : m ≠ .other) {kind : InboundKind}
    (hkind : ∀ slot value, kind ≠ .notify slot value) : kind.takes m = true := by
  cases kind with
  | notify slot value => exact absurd rfl (hkind slot value)
  | write _ | read _ | atomic _ _ =>
    cases m with
    | other => exact absurd rfl hm
    | rud | rod => rfl

/-- Settles O41: answers of peers by their kind; an inbound access is performed in the state that its flow leaves. -/
theorem networkSteps : Obligations.NetworkSteps := by
  refine ⟨fun s id o ho hwait => ?_, fun s d job addr hinv hacc => ?_⟩
  · exact ⟨fun n => ⟨peerResponse_error ho hwait n, transferAbandoned_awaited ho hwait n, fun hop => netFail_of_put hop n _⟩,
      peerResponse_ack ho hwait, fun c hc hop off bytes hsome hlen hend hnext hnew =>
        peerResponse_data ho hwait hc (answerFits_of hop hsome hlen hend hnext hnew),
      fun i p hp => peerResponse_trimmed ho hwait hp⟩
  · intro fn core s0 s1 Stays
    have hwf : Memory.wf s0.mem = true := ((keeps_postLogs s).trans (keeps_retryInbound fn _)).2 hinv.1
    have hcore : firstCore s1 fn = core := firstCore_of_sections (inboundReady_sections ⟨d, 0, .read 0⟩ s) fn
    rw [← hcore]
    have hstay : ∀ t, programsOf t = programsOf s1 → Stays t := fun t ht =>
      samePrograms_of (ht.trans (inboundReady_programs ⟨d, 0, .read 0⟩ s))
    have hleaves : Leaves s0 s1 := inboundReady_leaves ⟨d, 0, .read 0⟩ s
    refine ⟨fun bytes hbad => congrArg Host.Outcome.next (arriveInbound_refused (i := ⟨d, addr.toNat, .write bytes⟩) hacc ?_),
      fun bytes hmode hlen htrim => congrArg Host.Outcome.next
        (arriveInbound_trimmed (i := ⟨d, addr.toNat, .write bytes⟩) hacc (takes_of_access hmode (by simp)) hlen htrim),
      fun hmode htrim hturn => ⟨fun bytes hlen hfree => ?_, fun len b hfree hok hb => ?_,
        fun max1 v pa cid hfree halign hok hx hown => ?_⟩⟩
    · refine hbad.imp (fun hother => ?_) id
      show InboundKind.takes _ d.mode = false
      rw [hother]
      rfl
    · have harrive := inbound_performed hacc htrim hturn addr.toNat (kind := .write bytes)
        (takes_of_access hmode (by simp)) hlen hfree
      exact ⟨fun hok t ht => ⟨congrArg Host.Outcome.next (harrive.trans (performInbound_write hok ht)),
          hstay t (engineWrite_programs ht)⟩,
        fun hbad => congrArg Host.Outcome.next (harrive.trans (performInbound_refused hbad))⟩
    · have harrive := inbound_performed hacc htrim hturn addr.toNat (kind := .read len)
        (takes_of_access hmode (by simp)) (Nat.zero_le _) hfree
      exact ⟨congrArg Host.Outcome.next (harrive.trans (performInbound_read hok hb)),
        (readNote_mem ..).trans hleaves.1, hstay _ (readNote_programs ..)⟩
    · have harrive := inbound_performed hacc htrim hturn addr.toNat (kind := .atomic max1 v)
        (takes_of_access hmode (by simp)) (show 8 ≤ 4096 by decide) hfree
      have hwf1 : Memory.wf s1.mem = true := hleaves.1.symm ▸ hwf
      obtain ⟨t, ht, hout, hword, hbytes, hsame⟩ := performInbound_atomic hwf1 max1 v halign hok hx hown
      rw [hleaves.1] at hout hword hbytes
      have hprog : programsOf s1 = programsOf s0 := inboundReady_programs ⟨d, 0, .read 0⟩ s
      have hs1 : SamePrograms s0 s1 := samePrograms_of hprog
      exact ⟨t, congrArg Host.Outcome.next (harrive.trans ht), hout.trans (congrArg (· ++ _) (congrArg Programs.out hprog)),
        hword, hbytes, hs1.trans hsame⟩

end Sys2Proof.Machine
end
section
/-! SUPPORT. NWAIT and VSWPT (R299, R324, R416). -/

namespace Sys2Proof.Machine

/-- A word is at or past a target where their difference, as a signed word, is not negative. -/
theorem reaches_iff (word target : Nat) :
    reaches word target = !(BitVec.ofNat 64 word - BitVec.ofNat 64 target).msb := by
  have hdiff : wrapNat 64 ((word : Int) - target) = (BitVec.ofNat 64 word - BitVec.ofNat 64 target).toNat := by
    rw [BitVec.toNat_sub, BitVec.toNat_ofNat, BitVec.toNat_ofNat]
    unfold wrapNat
    omega
  unfold reaches sextInt
  rw [hdiff, BitVec.msb_eq_decide]
  generalize BitVec.ofNat 64 word - BitVec.ofNat 64 target = d
  have hd := d.isLt
  rw [← decide_not, decide_eq_decide, Nat.mod_eq_of_lt hd]
  dsimp only
  split <;> omega

/-- Nothing is recorded, and nothing replayed, at the ordering points of a context that does neither. -/
theorem orderPoint_of_idle {s : State} {fn : Nat} (hidle : recMode s fn = 0) (kind point : Nat) (object : DWord)
    (agent event : Nat) (seq : Option Nat) : orderPoint fn kind point object agent event seq s = s := by
  simp [orderPoint, hidle]

section
variable {f : Fields} {x : Issue}

theorem nwait_done (h : x.Of (.nwait f)) (hhold : accessHold x.t 0 = none) (hap : inAperture x.a = false)
    {pa cid : Nat}
    (hacc : checkAccess x.s x.t.fn x.core x.t.wg .read x.a 8 = .dev pa cid) (hown : foreign x.s cid pa = false)
    (hserved : nwaitServed x.s x.t x.core pa = true) (hrec : recMode x.s x.t.fn = 0) :
    (∀ n, look x.k x.s.noticed = some n → exec (.nwait f) x.s = .next
      (x.done [n] (l1Acquire x.core (forgetNotice x.k (tlbTake x.t.fn x.core x.a x.s))))) ∧
    (look x.k x.s.noticed = none → reaches (ofBytes (memRead x.s.mem pa 8)) x.b = true → exec (.nwait f) x.s = .next
      (x.done [ofBytes (memRead x.s.mem pa 8)]
        (l1Acquire x.core (forgetNotice x.k (tlbTake x.t.fn x.core x.a x.s))))) := by
  have hin : (decide (x.a < 2 ^ 57) && decide (x.a % 8 = 0) && inAperture x.a) = false := by rw [hap, Bool.and_false]
  have hready : ∀ object agent, orderReady x.s x.t.fn 1 (sliceOf pa) object agent 0 = true := fun object agent => by
    simp [orderReady, hrec]
  have hidle : recMode (tlbTake x.t.fn x.core x.a x.s) x.t.fn = 0 := by
    simpa [recMode, State.ctx, tlbTake_ctxs] using hrec
  unfold Issue.a Issue.b Issue.core at *
  refine ⟨fun n hn => h.done rfl rfl ?_, fun hn hreach => h.done rfl rfl ?_⟩
  · simp only [nwaitBody, hhold, hin, hacc, hserved, hown, hn, Bool.not_true, Bool.false_eq_true, if_false]
    rfl
  · simp only [nwaitBody, hhold, hin, hacc, hserved, hown, hn, hreach, hready, Bool.not_true, Bool.or_self,
      Bool.false_eq_true, if_false]
    rw [orderPoint_of_idle hidle]
    rfl

/-! ### VSWPT -/

/-- The switch point of a workgroup's VSWPT, once a thread has come to it. -/
def pointOf (f : Fields) (x : Issue) : Option SwitchPoint := x.w.vsw.find? (fun p => p.id = f.mod.toNat)

/-- Those that have come to it. -/
def hereOf (f : Fields) (x : Issue) : List Nat := ((pointOf f x).map (·.here)).getD []

/-- A switch point that has no target yet takes it from the switch condition. -/
theorem pointOf_untargeted (hnew : (pointOf f x).bind (·.target) = none) :
    (pointOf f x).filter (·.target.isSome) = none := by
  cases hp : pointOf f x with
  | none => rfl
  | some p =>
    rw [hp] at hnew
    have htarget : p.target = none := hnew
    simp [htarget]

theorem everybody_arrived (hall : ∀ p ∈ x.s.computeOf x.t.wg, p.1 = x.k ∨ p.1 ∈ hereOf f x) :
    (x.s.computeOf x.t.wg).all (fun p => p.1 = x.k || (hereOf f x).contains p.1) = true := by
  simpa using hall

section
variable (h : x.Of (.vswpt f)) (happ : x.t.apprentice = false) (hloops : x.t.loops = [])
include h happ hloops

/-- A thread waits for the others of its workgroup. -/
theorem vswpt_waits (hlate : ∃ p ∈ x.s.computeOf x.t.wg, p.1 ≠ x.k ∧ p.1 ∉ hereOf f x) :
    exec (.vswpt f) x.s = .next (x.waits (.vswpt f.mod.toNat) (x.s.modWg x.t.wg (putSwitch ⟨f.mod.toNat,
      hereOf f x ++ [x.k], x.ctx.clock, none, [], 0⟩))) := by
  have hsome : (x.s.computeOf x.t.wg).all (fun p => p.1 = x.k || (hereOf f x).contains p.1) = false := by
    simpa using hlate
  refine h.waits rfl rfl ?_
  unfold hereOf pointOf at *
  simp only [vswptBody, happ, hloops, h.2.workgroup, hsome, List.isEmpty_nil, Bool.not_true, Bool.not_false, Bool.or_self,
    Bool.false_eq_true, if_false, if_true]
  rfl

section
variable (hall : ∀ p ∈ x.s.computeOf x.t.wg, p.1 = x.k ∨ p.1 ∈ hereOf f x)
include hall

/-- Once all have come, the descriptor and the switch map are looked at first. -/
theorem vswpt_fault {z : Nat × Nat} (hz : (switchIntegrity x.t.wg x.w f.mod.toNat x.s).1 = some z) :
    exec (.vswpt f) x.s = .next (x.left (coreIntegrity x.k z (switchIntegrity x.t.wg x.w f.mod.toNat x.s).2)) := by
  have heverybody := everybody_arrived hall
  have hpair : switchIntegrity x.t.wg x.w f.mod.toNat x.s = (some z, (switchIntegrity x.t.wg x.w f.mod.toNat x.s).2) :=
    Prod.ext hz rfl
  refine h.gone rfl rfl ?_
  generalize (switchIntegrity x.t.wg x.w f.mod.toNat x.s).2 = u at hpair ⊢
  unfold hereOf pointOf at heverybody
  simp only [vswptBody, happ, hloops, h.2.workgroup, heverybody, hpair, List.isEmpty_nil, Bool.not_true, Bool.or_self,
    Bool.false_eq_true, if_false]

section
variable (hsound : (switchIntegrity x.t.wg x.w f.mod.toNat x.s).1 = none) (hnew : (pointOf f x).bind (·.target) = none)
include hsound hnew

/-- Where the switch condition gives no target, everybody goes on. -/
theorem vswpt_goes_on
    (hstay : switchTarget (switchIntegrity x.t.wg x.w f.mod.toNat x.s).2 x.t.wg x.w f.mod.toNat = none) :
    exec (.vswpt f) x.s = .next (x.done [] (closeSwitch x.t.wg f.mod.toNat (hereOf f x)
      (switchIntegrity x.t.wg x.w f.mod.toNat x.s).2)) := by
  have heverybody := everybody_arrived hall
  have hpair : switchIntegrity x.t.wg x.w f.mod.toNat x.s = (none, (switchIntegrity x.t.wg x.w f.mod.toNat x.s).2) :=
    Prod.ext hsound rfl
  have hopen := pointOf_untargeted hnew
  refine h.done rfl rfl ?_
  generalize (switchIntegrity x.t.wg x.w f.mod.toNat x.s).2 = u at hpair hstay ⊢
  unfold hereOf pointOf at *
  simp only [vswptBody, happ, hloops, h.2.workgroup, heverybody, hpair, hopen, hstay, List.isEmpty_nil, Bool.not_true,
    Bool.or_self, Bool.false_eq_true, if_false]

/-- Else the workgroup goes into the target variant, once its loads are in, nothing writes what is given up, and the undo
log has room. -/
theorem vswpt_switches {p : SwitchPoint} {b : Nat} {kn : Kernel} {r : SwitchRec} :
    let s := (switchIntegrity x.t.wg x.w f.mod.toNat x.s).2
    switchTarget s x.t.wg x.w f.mod.toNat = some p → p.target = some b →
    kernelAt s x.t.fn x.w.kernel = some kn →
    switchRec s x.t.fn x.w.core kn.variants.length f.mod.toNat 257 kn.switchMap = some r →
    (∀ q ∈ s.threadsOf x.t.wg, q.2.ld = 0) →
    ((kn.variant b).pool < x.w.spsize → padBusy s x.t.wg (kn.variant b).pool x.w.spsize = false) →
    switchHasRoom s x.t.wg x.t.fn (kn.variant b) = true →
    exec (.vswpt f) x.s = .next (x.left (doSwitch x.t.wg x.w kn r b x.k f.stop p.spots s)) := by
  intro s htarget hb hkn hr hld hpad hroom
  have heverybody := everybody_arrived hall
  have hpair : switchIntegrity x.t.wg x.w f.mod.toNat x.s = (none, s) := Prod.ext hsound rfl
  clear_value s
  have hopen := pointOf_untargeted hnew
  have hloaded : (s.threadsOf x.t.wg).any (fun p => p.2.ld != 0) = false := by simpa using hld
  have hquiet : (decide ((kn.variant b).pool < x.w.spsize) && padBusy s x.t.wg (kn.variant b).pool x.w.spsize) = false := by
    simpa using hpad
  refine h.gone rfl rfl ?_
  unfold hereOf pointOf at *
  simp only [vswptBody, happ, hloops, h.2.workgroup, heverybody, hpair, hopen, htarget, hkn, hb, Option.getD_some, hloaded,
    hquiet, hroom, hr, List.isEmpty_nil, Bool.not_true, Bool.or_self, Bool.false_eq_true, if_false]
end
end
end
end

/-- Settles O33: NWAIT by what it reads at the home slice; VSWPT by who has come, and then by the target. -/
theorem waitsForMemoryAndSwitches : Obligations.WaitsForMemoryAndSwitches := by
  refine fun f x => ⟨fun h hhold _ hap pa cid hacc hown hserved hrec => ?_, fun h happ hloops => ?_⟩
  · obtain ⟨hnoticed, hnow⟩ := nwait_done h hhold hap hacc hown hserved hrec
    refine ⟨hnoticed, fun hn hmsb => ?_⟩
    have hword : ofBytes (memRead x.s.mem pa 8) < 2 ^ 64 := by
      have hlt := ofBytes_lt (memRead x.s.mem pa 8)
      rwa [memRead_length] at hlt
    have hreach : reaches (ofBytes (memRead x.s.mem pa 8)) x.b = true := by rw [reaches_iff, hmsb, Bool.not_false]
    rw [BitVec.toNat_ofNat, Nat.mod_eq_of_lt hword]
    exact hnow hn hreach
  · exact ⟨fun hall z hz => vswpt_fault h happ hloops hall hz, vswpt_waits h happ hloops,
      fun hall hsound hnew hstay => vswpt_goes_on h happ hloops hall hsound hnew hstay,
      fun hall hsound hnew p b kn r htarget hp hkn hr hld hpad hroom =>
        vswpt_switches h happ hloops hall hsound hnew htarget hp hkn hr hld hpad hroom⟩

end Sys2Proof.Machine
end
section
/-! SUPPORT. Starts, health, loops and the die link (R195, R410, R420 to R423). -/

namespace Sys2Proof.Machine

/-! ### Starts -/

/-- What a start leaves as the reset has it: no memory, no programs. -/
def freshTables (s : State) : List Host.Cell × Tbl Thread × Tbl Workgroup × Tbl Queue :=
  (s.mem, s.threads, s.wgs, s.queues)

theorem bringSections_tables (o : StartOutcome) (s : State) : freshTables (bringSections o s) = freshTables s := by
  unfold bringSections
  exact (foldl_same (g := freshTables) (fun _ _ => by rfl) _ _).trans (foldl_same (g := freshTables) (fun _ _ => by rfl) _ _)

theorem bringUp_tables (o : StartOutcome) (done : Nat) (s : State) : freshTables (bringUp o done s) = freshTables s := by
  unfold bringUp
  extract_lets s₁ s₂
  have h₁ : freshTables s₁ = freshTables s := by simp only [s₁]; split <;> rfl
  have h₂ : freshTables s₂ = freshTables s₁ := by
    simp only [s₂]
    split
    · exact bringSections_tables ..
    · rfl
  have h₃ : freshTables (if 6 ≤ done then bringEndpoint s₂ else s₂) = freshTables s₂ := by split <;> rfl
  exact h₃.trans (h₂.trans h₁)

/-- What a start has brought up has no memory and no programs. -/
theorem start_tables (o : StartOutcome) (done : Nat) (s : State) :
    (bringUp o done (resetAll s)).mem = [] ∧ (bringUp o done (resetAll s)).threads = [] ∧
    (bringUp o done (resetAll s)).wgs = [] ∧ (bringUp o done (resetAll s)).queues = [] := by
  have h : freshTables (bringUp o done (resetAll s)) = ([], [], [], []) := bringUp_tables o done (resetAll s)
  simpa only [freshTables, Prod.mk.injEq] using h

theorem exec_start (o : StartOutcome) (s : State) :
    ∃ u, exec (.start o) s = .next u ∧ u.mem = [] ∧ u.threads = [] ∧ u.wgs = [] ∧ u.queues = [] ∧
      (stopStage o = none → u.boot.up = true ∧ u.boot.stage = 7 ∧ (s.boot.fails ≠ 3 → u.boot.fails = 0)) ∧
      (∀ k, stopStage o = some k → u.boot.up = false ∧ u.boot.stage = k - 1 ∧
        (o.hangs = false → u.boot.fails = min 3 (s.boot.fails + 1) ∧ u.boot.rc0 = reasonCode k o.reason ∧
          u.boot.rc1 = s.boot.rc0 ∧ u.boot.rc2 = s.boot.rc1)) := by
  have hboot : (resetAll s).boot = s.boot := rfl
  cases hstop : stopStage o with
  | none =>
    obtain ⟨hmem, hthreads, hwgs, hqueues⟩ := start_tables o 7 s
    simp only [exec, execStart, hstop, hboot]
    generalize bringUp o 7 (resetAll s) = w at hmem hthreads hwgs hqueues ⊢
    refine ⟨_, rfl, hmem, hthreads, hwgs, hqueues, fun _ => ?_, fun k hk => by cases hk⟩
    split
    next hmin => exact ⟨rfl, rfl, fun hfails => absurd (of_decide_eq_true (Bool.and_eq_true_iff.mp hmin).1) hfails⟩
    next => exact ⟨rfl, rfl, fun _ => rfl⟩
  | some k =>
    obtain ⟨hmem, hthreads, hwgs, hqueues⟩ := start_tables o (k - 1) s
    simp only [exec, execStart, hstop, hboot]
    generalize bringUp o (k - 1) (resetAll s) = w at hmem hthreads hwgs hqueues ⊢
    refine ⟨_, rfl, hmem, hthreads, hwgs, hqueues, fun hnone => (by cases hnone), fun j hj => ?_⟩
    cases hj
    split
    next hhang => exact ⟨rfl, rfl, fun hno => absurd (Bool.and_eq_true_iff.mp hhang).1 (by rw [hno]; exact Bool.false_ne_true)⟩
    next => exact ⟨rfl, rfl, fun _ => ⟨rfl, rfl, rfl, rfl⟩⟩

/-! ### Errors and tests -/

@[simp] theorem unitHealth_setHealth_same (s : State) (u : Nat) (h : Health) : (s.setHealth u h).unitHealth u = h := by
  simp [State.unitHealth, State.setHealth]

/-- An error that is not corrected is counted, and makes a healthy unit SUSPECT. -/
theorem countError_uncorrected (u : Nat) (s : State) :
    ((countError u false s).unitHealth u).errors = (s.unitHealth u).errors + 1 ∧
    ((countError u false s).unitHealth u).state = if (s.unitHealth u).state = 0 then 1 else (s.unitHealth u).state := by
  unfold countError
  rw [unitHealth_setHealth_same]
  by_cases h : (s.unitHealth u).state = 0 <;> simp [h]

theorem countError_corrected (u : Nat) (s : State) :
    ((countError u true s).unitHealth u).corrected = (s.unitHealth u).corrected + 1 := by
  unfold countError
  rw [unitHealth_setHealth_same]
  simp only [if_true]
  split <;> rfl

theorem raiseHalt_health (fn code unit : Nat) (note : List Byte) (s : State) :
    (raiseHalt fn code unit note s).health = s.health := by
  unfold raiseHalt abandonCkpt
  split
  · rfl
  · dsimp only
    split <;> rfl

theorem coreFault_health (k code : Nat) (s : State) : (coreFault k code s).health = s.health := by
  unfold coreFault
  split
  · rfl
  · exact raiseHalt_health ..

section
variable {s : State} (u : Nat) (c : Bool)

/-- A parity error in a frame line that can be repaired is. -/
theorem exec_frame_repaired {k line : Nat} (hrep : repairable s k line = true) :
    exec (.errorDetected u ⟨c, .frame k line⟩) s = .next (countError u true s) := by
  have hstill : repairable (countError u true s) k line = true := hrep
  simp only [exec, execErrorDetected, siteCorrected, hrep, parityError, hstill, Bool.or_true, if_true]
  split <;> rfl

/-- One that cannot halts the context. -/
theorem exec_frame_lost {k line : Nat} {z : Thread} (hz : look k s.threads = some z)
    (hline : (look line z.lines).isSome = true) (hrep : repairable s k line = false) :
    exec (.errorDetected u ⟨c, .frame k line⟩) s = .next (coreFault k fRegisterParity (countError u false s)) := by
  have hstill : repairable (countError u false s) k line = false := hrep
  have hsame : look k (countError u false s).threads = some z := hz
  have hkept : (look line z.lines).isNone = false := by
    rw [← Option.not_isSome, hline, Bool.not_true]
  simp only [exec, execErrorDetected, siteCorrected, hrep, parityError, hstill, hsame, hkept, Bool.or_self,
    Bool.false_eq_true, if_false]

theorem exec_scratchpad_lost {g : Nat} {w : Workgroup} (hw : look g s.wgs = some w) :
    exec (.errorDetected u ⟨c, .scratchpad g⟩) s =
      .next (raiseHalt w.fn fPoolParity (s.coreNo w.fn w.core) [] (countError u false s)) := by
  have hsame : look g (countError u false s).wgs = some w := hw
  simp only [exec, execErrorDetected, siteCorrected, parityError, wgParity, hsame]
  rfl

theorem core_modCore_same (s : State) (k : Nat) (f : Core → Core) : (s.modCore k f).core k = f (s.core k) := by
  unfold State.core State.modCore State.setCore
  rw [look_put, if_pos rfl]
  rfl

/-- A parity error in an L1 line drops the line. -/
theorem mem_l1_parity (s : State) (core line : Nat) (l : L1Line) :
    l ∈ ((parityError (.l1 core line) s).core core).l1 ↔ l ∈ (s.core core).l1 ∧ l.line ≠ line := by
  unfold parityError
  dsimp only
  rw [core_modCore_same, List.mem_filter, bne_iff_ne]
end

/-! ### Loops -/

/-- A clock that comes to its setpoint keeps that and its enable. -/
theorem freeClocks_loop (s : State) (u : Nat) :
    (((freeClocks s).loop u).set, ((freeClocks s).loop u).en) = ((s.loop u).set, (s.loop u).en) := by
  unfold freeClocks
  refine foldl_same (g := fun s => ((s.loop u).set, (s.loop u).en)) (fun s i => ?_) _ s
  dsimp only
  split
  · rfl
  · unfold State.loop State.setLoop
    rw [look_put]
    split
    next h => subst h; rfl
    next => rfl

theorem loop_setLoop_same (s : State) (u : Nat) (v : AdaptLoop) : (s.setLoop u v).loop u = v := by
  simp [State.loop, State.setLoop]

theorem exec_adaptiveLoopAction {s : State} {u : Nat} (hloop : isLoop u = true) (hen : (s.loop u).en = true)
    (hact : 0x1200 ≤ u) (value : DWord) :
    (u < 0x1C00 → exec (.adaptiveLoopAction u value) s = .next (s.setLoop u { s.loop u with
      cur := loopNext (loopCur s u).toNat (s.loop u).set.toNat (loWord value) % 64 })) ∧
    (∀ fn, 0x1C00 ≤ u → runningOn s (loopCore u) = some fn → exec (.adaptiveLoopAction u value) s =
      .next (loopWrite u (loopCore u) fn (loopNext (loopCur s u).toNat (s.loop u).set.toNat (loWord value)) s)) := by
  have hacts : (!isLoop u || !(s.loop u).en || decide (u < 0x1200)) = false := by
    rw [hloop, hen, decide_eq_false (not_lt.mpr hact)]
    rfl
  refine ⟨fun hlow => ?_, fun fn hhigh hrun => ?_⟩
  · simp only [exec, execAdaptiveLoopAction, hacts, hlow, Bool.false_eq_true, if_false, if_true]
  · simp only [exec, execAdaptiveLoopAction, hacts, not_lt.mpr hhigh, hrun, Bool.false_eq_true, if_false]

/-! ### The die link -/

theorem exec_bluordFlit {s : State} {die lane : Nat} (hdie : die < 2) (hlane : lane < 184) (flit : Flit) :
    exec (.bluordFlit die lane flit) s = .next (if lane ∈ (s.die die).lanesLost then s
      else if flitOk flit.got then takeFlit die flit.got (deliverFlit die lane flit.held s)
      else replayFlit die lane flit.held s) := by
  simp only [exec, execBluordFlit, decide_eq_false (not_le.mpr hdie), decide_eq_false (not_le.mpr hlane), Bool.false_or,
    List.contains_iff_mem]
  split
  · rfl
  · split <;> rfl

/-- Settles O49: a lemma for each kind of step: starts, errors, tests, loops and flits. -/
theorem packageSteps : Obligations.PackageSteps := by
  refine ⟨fun s o => ⟨exec_start o s, fun hstarting => ?_, fun hup => congrArg Host.Outcome.next (viaMgmt_up hup _),
    fun value hvalue => ?_⟩, ?_⟩
  · exact congrArg Host.Outcome.next (if_pos hstarting)
  · refine congrArg Host.Outcome.next ?_
    by_cases hup : mgmtUp s = true
    · exact (viaMgmt_up hup _).trans (if_neg hvalue)
    · exact viaMgmt_down (Bool.eq_false_of_not_eq_true hup) _
  intro s u h
  refine ⟨⟨_, rfl, countError_uncorrected u s⟩, fun c k line z hz hline =>
      ⟨fun hrep => ⟨_, exec_frame_repaired u c hrep, countError_corrected u s, rfl, rfl⟩,
        fun hrep hhalt => ⟨_, exec_frame_lost u c hz hline hrep, ?_, ?_⟩⟩,
    fun c g w hw hhalt => ⟨_, exec_scratchpad_lost u c hw, raiseHalt_halt (s := countError u false s) hhalt ..⟩,
    fun c core line => ⟨_, rfl, mem_l1_parity (countError u true s) core line, rfl, rfl⟩, fun hstate hunused => ?_, fun hstate => ⟨?_, ?_⟩,
    fun hloop hup value => ?_, fun hloop hen hact value => ?_, fun die lane flit hdie hlane => ?_⟩
  · exact (congrArg (fun l : Tbl Health => ((look u l).getD ⟨0, 0, 0, 0⟩).errors) (coreFault_health ..)).trans
      (countError_uncorrected u s).1
  · exact coreFault_halt (s := countError u false s) hz hhalt
  · have hidle : s.vfs.any (fun p => onPartition s p.1 && usesUnit p.2 u) = false := by
      simpa using hunused
    simp only [exec, execSelfTestBegin, hidle, Bool.not_false, Bool.and_true, decide_eq_true_eq]
    exact congrArg Host.Outcome.next (if_pos hstate)
  · have hrest : ((s.unitHealth u).state != 2) = false := by rw [bne_eq_false_iff_eq]; exact hstate
    simp only [exec, execSelfTestEnd, hrest, Bool.false_eq_true, if_false]
    rfl
  · have hrest : ((s.unitHealth u).state != 2) = false := by rw [bne_eq_false_iff_eq]; exact hstate
    simp only [exec, execSelfTestEnd, hrest, Bool.false_eq_true, if_false, if_true]
    rfl
  · have hkept := freeClocks_loop (s.setLoop u { s.loop u with set := value.extractLsb' 1 31, en := value.getLsbD 0 }) u
    rw [loop_setLoop_same, Prod.mk.injEq] at hkept
    refine ⟨_, congrArg Host.Outcome.next ((viaMgmt_up hup _).trans (if_neg ?_)), hkept⟩
    rw [hloop]
    exact Bool.false_ne_true
  · obtain ⟨hlow, hhigh⟩ := exec_adaptiveLoopAction hloop hen hact value
    exact ⟨hlow, fun core fn hle hcore hrun => by subst hcore; exact hhigh fn hle hrun⟩
  · have hexec := exec_bluordFlit (s := s) hdie hlane flit
    exact ⟨fun hlost => hexec.trans (by rw [if_pos hlost]), fun hin =>
      ⟨fun hok => hexec.trans (by rw [if_neg hin, if_pos hok]),
        fun hbad => hexec.trans (by rw [if_neg hin, hbad]; rfl)⟩⟩

end Sys2Proof.Machine
end
section
/-! SUPPORT. What the stop of a partition's units leaves: the functions' registers (R338, R339). -/

namespace Sys2Proof.Machine

theorem foldl_vfs {α : Type} {f : State → α → State} (h : ∀ s x, (f s x).vfs = s.vfs) (l : List α) (s : State) :
    (l.foldl f s).vfs = s.vfs := foldl_same (g := State.vfs) h l s

/-! ### Heads of queues, and the halts that they raise -/

@[simp] theorem modQueueOf_vfs (q : QRef) (f : List Cmd → List Cmd) (s : State) : (modQueueOf q f s).vfs = s.vfs := by
  cases q <;> rfl

@[simp] theorem modHead_vfs (q : QRef) (f : Cmd → Cmd) (s : State) : (modHead q f s).vfs = s.vfs := modQueueOf_vfs ..

@[simp] theorem unitMoved_vfs (q : QRef) (s : State) : (unitMoved q s).vfs = s.vfs := rfl

@[simp] theorem doneHead_vfs (q : QRef) (status value : Nat) (s : State) : (doneHead q status value s).vfs = s.vfs :=
  modHead_vfs ..

@[simp] theorem doneAt_vfs (q : QRef) (status value : Nat) (reach : List Nat) (s : State) :
    (doneAt q status value reach s).vfs = s.vfs := by simp [doneAt]

theorem takeEntry_vfs (die fn stage page va kind : Nat) (s : State) :
    (takeEntry die fn stage page va kind s).2.vfs = s.vfs := by
  have hwalk : (walkSlices fn va s).vfs = s.vfs := congrArg (·.1.vfs) (walkSlices_beyond fn va s)
  unfold takeEntry
  dsimp only
  split
  · exact hwalk
  · split <;> exact hwalk

@[simp] theorem parkHead_vfs (q : QRef) (stage page va kind : Nat) (s : State) :
    (parkHead q stage page va kind s).vfs = s.vfs := by
  have htake := takeEntry_vfs (dieOf (queueCore s q)) (queueFn s q) stage page va kind s
  unfold parkHead
  dsimp only
  split <;> exact (modHead_vfs ..).trans htake

@[simp] theorem stopHead_vfs (q : QRef) (status value : Nat) (x : EngStop) (s : State) :
    (stopHead q status value x s).vfs = s.vfs := by
  cases x with
  | hold cause => exact modHead_vfs ..
  | park stage page va => exact parkHead_vfs ..
  | fault => exact doneHead_vfs ..
  | integrity pa cid => exact raiseHalt_vfs ..

/-! ### Reads and writes of engines -/

theorem orderPoint_vfs (fn kind point : Nat) (object : DWord) (agent event : Nat) (seq : Option Nat) (s : State) :
    (orderPoint fn kind point object agent event seq s).vfs = s.vfs := by
  unfold orderPoint
  split
  · rfl
  · split <;> rfl

theorem linesDone_vfs (fn agent : Nat) (l : List Nat) (s : State) : (linesDone fn agent l s).vfs = s.vfs := by
  unfold linesDone
  split
  · rfl
  · exact foldl_vfs (fun _ _ => orderPoint_vfs ..) _ _

theorem sectXlat_vfs (fn core va : Nat) (s : State) : (sectXlat fn core va s).2.vfs = s.vfs :=
  congrArg (·.1.vfs) (sectXlat_beyond fn core va s)

theorem engReadDev_vfs {e : Eng} {fuel va n : Nat} {s : State} {r : List Byte × State}
    (h : engReadDev e fuel va n s = .inr r) : r.2.vfs = s.vfs := by
  induction fuel generalizing va n s r with
  | zero => cases h; rfl
  | succ fuel ih =>
    unfold engReadDev at h
    dsimp only at h
    split at h
    · cases h; rfl
    · split at h
      · cases h
      · cases h
      · cases h
      · split at h
        · cases h
        · split at h
          · cases h
          · split at h <;> cases h
            rename_i hrest
            exact (ih hrest).trans ((congrArg (·.1.vfs) (sliceReads_beyond ..)).trans
              ((linesDone_vfs ..).trans (sectXlat_vfs ..)))

theorem lineStore_vfs (fn agent cid : Nat) (s : State) (p : Nat × List Byte) : (lineStore fn agent cid s p).vfs = s.vfs := by
  have hline : (lineWrite fn cid s p).vfs = s.vfs := congrArg Programs.vfs (lineWrite_programs fn cid s p)
  unfold lineStore
  dsimp only
  split
  · exact hline
  · exact (orderPoint_vfs ..).trans hline

theorem engWriteDev_vfs {e : Eng} {fuel va : Nat} {l : List Byte} {s t : State} (h : engWriteDev e fuel va l s = .inr t) :
    t.vfs = s.vfs := by
  induction fuel generalizing va l s with
  | zero => cases h; rfl
  | succ fuel ih =>
    unfold engWriteDev at h
    dsimp only at h
    split at h
    · cases h; rfl
    · split at h
      · cases h
      · cases h
      · cases h
      · split at h
        · cases h
        · split at h
          · cases h
          · split at h
            · cases h
            · exact (ih h).trans ((foldl_vfs (fun _ _ => lineStore_vfs ..) _ _).trans (sectXlat_vfs ..))

theorem engGet_vfs {e : Eng} {wg va n : Nat} {s : State} {r : List Byte × State} (h : engGet e wg va n s = .inr r) :
    r.2.vfs = s.vfs := by
  unfold engGet at h
  split at h
  · split at h
    · cases h
    · split at h <;> cases h
      rfl
  · exact engReadDev_vfs h

theorem logPad_vfs (fn wg off : Nat) (s : State) : (logPad fn wg off s).vfs = s.vfs := by
  unfold logPad
  split
  · rfl
  · split <;> rfl

theorem engPut_vfs {e : Eng} {wg va : Nat} {l : List Byte} {s t : State} (h : engPut e wg va l s = .inr t) :
    t.vfs = s.vfs := by
  unfold engPut at h
  split at h
  · split at h
    · cases h
    · split at h
      · cases h
      · split at h
        · cases h
        · split at h <;> cases h
          exact foldl_vfs (fun _ _ => logPad_vfs ..) _ _
  · exact engWriteDev_vfs h

theorem engFold_vfs {α : Type} {f : α → State → Sum EngStop State} (h : ∀ a s t, f a s = .inr t → t.vfs = s.vfs)
    (l : List α) (r : EngRun) : (engFold f l r).s.vfs = r.s.vfs := by
  induction l generalizing r with
  | nil => rfl
  | cons a l ih =>
    unfold engFold
    split
    next hf => exact (ih _).trans (h _ _ _ hf)
    next => rfl

theorem engCollect_vfs (e : Eng) (g n : Nat) (l : List Nat) (s : State) : (engCollect e g n l s).2.1.vfs = s.vfs := by
  induction l generalizing s with
  | nil => rfl
  | cons a l ih =>
    unfold engCollect
    split
    next => rfl
    next hget => exact (ih _).trans (engGet_vfs hget)

theorem netCollect_vfs (e : Eng) (wg : Nat) (l : List (Nat × Nat)) (s : State) : (netCollect e wg l s).2.1.vfs = s.vfs := by
  induction l generalizing s with
  | nil => rfl
  | cons a l ih =>
    unfold netCollect
    split
    next => rfl
    next hget => exact (ih _).trans (engGet_vfs hget)

/-! ### The matrix unit -/

theorem addEntry_vfs (fn : Nat) (p : Kept) (cid : Nat) (bytes : List Byte) (s : State) :
    (addEntry fn p cid bytes s).vfs = s.vfs := rfl

theorem logUnit_vfs (fn sect : Nat) (l : List Nat) (s : State) : (logUnit fn sect l s).vfs = s.vfs := by
  unfold logUnit
  exact foldl_vfs (fun _ _ => addEntry_vfs ..) _ _

theorem changeBulk_vfs {fn sect : Nat} {f : Section → Section} {s t : State} (h : changeBulk fn sect f s = some t) :
    t.vfs = s.vfs := by
  unfold changeBulk at h
  dsimp only at h
  split at h <;> cases h
  exact (setSect_vfs ..).trans (logUnit_vfs ..)

theorem changeUnit_vfs {go : State → State} (hgo : ∀ s, (go s).vfs = s.vfs) (q : QRef) (sect : Nat)
    (f : Section → Section) (keep : Cmd → Cmd) (s : State) : (changeUnit q sect f keep go s).vfs = s.vfs := by
  unfold changeUnit
  split
  next hbulk => exact (hgo _).trans (changeBulk_vfs hbulk)
  next => simp

/-- A run of an engine that started in a state with the same functions ends in one. -/
theorem finishRun_vfs {q : QRef} {s : State} {r : EngRun} (hr : r.s.vfs = s.vfs) (keep : Cmd → Cmd) (okValue : Nat)
    (faultValue : Nat → Nat) (reach : List Nat) : (finishRun q s r keep okValue faultValue reach).vfs = s.vfs := by
  unfold finishRun
  split <;> simp [hr]

theorem finishUnit_vfs (q : QRef) (sect : Nat) (f : Section → Section) (r : EngRun) (keep : Cmd → Cmd) (okValue : Nat)
    (faultValue : Nat → Nat) (reach : List Nat) : (finishUnit q sect f r keep okValue faultValue reach).vfs = r.s.vfs := by
  unfold finishUnit
  split
  · exact changeUnit_vfs (fun s => finishRun_vfs rfl ..) ..
  · exact changeUnit_vfs (fun s => finishRun_vfs rfl ..) ..
  · exact finishRun_vfs rfl ..

theorem runPlan_vfs (q : QRef) (sect : Nat) (x : Reach) (p : Sum Nat MxPlan) (c : Cmd) (s : State) :
    (runPlan q sect x p c s).vfs = s.vfs := by
  unfold runPlan
  split
  · exact doneHead_vfs ..
  · rfl
  next p =>
    extract_lets addrs
    have hread : (collectOn p.eng p.wg p.size c p.lo p.hi addrs s).2.1.vfs = s.vfs := engCollect_vfs ..
    generalize collectOn p.eng p.wg p.size c p.lo p.hi addrs s = r at hread ⊢
    obtain ⟨l, s₁, stop, keep⟩ := r
    dsimp only at hread ⊢
    have hmoved : (if c.data.length < l.length * p.size then unitMoved q s₁ else s₁).vfs = s.vfs := by
      split <;> exact hread
    generalize (if c.data.length < l.length * p.size then unitMoved q s₁ else s₁) = u at hmoved ⊢
    split
    · exact (finishUnit_vfs ..).trans hmoved
    · refine (modHead_vfs ..).trans ?_
      split <;> simp [hmoved]
    · split
      · rfl
      · split
        · rfl
        next hbulk => exact (modHead_vfs ..).trans ((changeBulk_vfs hbulk).trans hmoved)

theorem stopMatrix_vfs (cohort : Nat) (s : State) : (stopMatrix cohort s).vfs = s.vfs := by
  unfold stopMatrix
  extract_lets q n s₁
  change _ = s₁.vfs
  clear_value s₁
  split
  · rfl
  · split
    · rfl
    · split
      · extract_lets l p
        split
        · rfl
        · exact runPlan_vfs ..
      · split
        · split
          · rfl
          · extract_lets r
            have hcells : r.s.vfs = s₁.vfs := engFold_vfs (fun _ _ _ h => engPut_vfs h) ..
            split
            · rfl
            · exact (modHead_vfs ..).trans hcells
        · exact runPlan_vfs ..

/-! ### The step sequencer -/

theorem sqRead_vfs {e : Eng} {va n : Nat} {s : State} {r : List Byte × State} (h : sqRead e va n s = .inr r) :
    r.2.vfs = s.vfs := by
  unfold sqRead at h
  split at h
  · cases h
  · exact engReadDev_vfs h

theorem sqWrite_vfs {e : Eng} {va : Nat} {l : List Byte} {s t : State} (h : sqWrite e va l s = .inr t) : t.vfs = s.vfs := by
  unfold sqWrite at h
  split at h
  · cases h
  · exact engWriteDev_vfs h

theorem cmpTile_vfs {e : Eng} {sect : Nat} {d : List Byte} {t : Nat} {s u : State} (h : cmpTile e sect d t s = .inr u) :
    u.vfs = s.vfs := by
  unfold cmpTile at h
  dsimp only at h
  split at h
  · cases h
  next hrec =>
    split at h
    · cases h
    next hentry =>
      have hread := (sqRead_vfs hentry).trans (sqRead_vfs hrec)
      split at h
      · split at h <;> cases h
        next hbulk => exact (changeBulk_vfs hbulk).trans hread
      · split at h
        · cases h
        next hbulk =>
          split at h <;> cases h
          next hwrite => exact (sqWrite_vfs hwrite).trans ((changeBulk_vfs hbulk).trans hread)

theorem sqCollect_vfs (e : Eng) (l : List Nat) (s : State) : (sqCollect e l s).2.1.vfs = s.vfs := by
  induction l generalizing s with
  | nil => rfl
  | cons a l ih =>
    unfold sqCollect
    split
    next => rfl
    next hread => exact (ih _).trans (sqRead_vfs hread)

theorem sigTile_vfs {e : Eng} {d : List Byte} {pat : DWord} {t : Nat} {s u : State} (h : sigTile e d pat t s = .inr u) :
    u.vfs = s.vfs := by
  have hread := sqCollect_vfs e (tilePieces d t) s
  unfold sigTile at h
  generalize sqCollect e (tilePieces d t) s = r at hread h
  obtain ⟨l, v, _ | x⟩ := r
  · dsimp only at hread h
    split at h <;> cases h
    next hwrite => exact (sqWrite_vfs hwrite).trans hread
  · cases h

theorem tileRun_vfs {f : Nat → State → Sum (EngStop × Nat) State} (hf : ∀ t s u, f t s = .inr u → u.vfs = s.vfs) (q : QRef)
    (l : List Nat) (s : State) : (tileRun q f id l s).vfs = s.vfs := by
  induction l generalizing s with
  | nil => rfl
  | cons t l ih =>
    unfold tileRun
    split
    next htile => exact (ih _).trans (((unitMoved_vfs ..).trans (modHead_vfs ..)).trans (hf _ _ _ htile))
    next => exact doneHead_vfs ..
    next => exact stopHead_vfs ..

theorem stopSequencer_vfs (cohort : Nat) (s : State) : (stopSequencer cohort s).vfs = s.vfs := by
  unfold stopSequencer
  extract_lets q n s₁
  change _ = s₁.vfs
  clear_value s₁
  split
  · rfl
  · split
    · rfl
    · split
      · rfl
      · extract_lets l e pat
        split
        · exact (tileRun_vfs (fun _ _ _ => sigTile_vfs) ..).trans (modHead_vfs ..)
        · split
          · exact tileRun_vfs (fun _ _ _ => cmpTile_vfs) ..
          · rfl

/-! ### The copy processors and the Network Engine -/

theorem cpyPart_vfs (q : QRef) (wg n : Nat) (c : Cmd) (s : State) : (cpyPart q wg n c s).vfs = s.vfs := by
  unfold cpyPart
  dsimp only
  split
  · rfl
  · split
    · rfl
    next hget =>
      split
      · exact engGet_vfs hget
      next hput => exact (modHead_vfs ..).trans ((engPut_vfs hput).trans (engGet_vfs hget))

theorem cpyStep_vfs (q : QRef) (wg : Nat) (s : State) : (cpyStep q wg s).vfs = s.vfs := by
  unfold cpyStep
  split
  · rfl
  · split
    · rfl
    · extract_lets d n e
      split
      · exact doneHead_vfs ..
      · split
        · exact stopHead_vfs ..
        next hget =>
          split
          · exact parkHead_vfs ..
          · exact stopHead_vfs ..
          next hput =>
            have hmoved := (engPut_vfs hput).trans (engGet_vfs hget)
            (repeat' split) <;> simp [hmoved]

theorem stopCopy_vfs (q : QRef) (wg fuel : Nat) (s : State) : (stopCopy q wg fuel s).vfs = s.vfs := by
  induction fuel generalizing s with
  | zero => rfl
  | succ fuel ih =>
    unfold stopCopy
    split
    · rfl
    · dsimp only
      split
      · rfl
      · split
        · exact (ih _).trans (cpyStep_vfs ..)
        · exact cpyPart_vfs ..

theorem ngetWrite_vfs (e : Eng) (wg a : Nat) (bytes : List Byte) (r : EngRun) :
    (ngetWrite e wg a bytes r).s.vfs = r.s.vfs := by
  unfold ngetWrite
  generalize pieces (bytes.length / 32 + 2) a bytes.length = l
  induction l generalizing r with
  | nil => rfl
  | cons p l ih =>
    refine (ih _).trans ?_
    dsimp only
    split
    · rfl
    · split
      next hput => exact engPut_vfs hput
      next => rfl

/-- Writing the parts of an answer, one after another, until one is stopped. -/
theorem ngetParts_vfs (e : Eng) (wg a : Nat) (l : List (Nat × List Byte)) (r : EngRun) :
    (l.foldl (fun r x => match r.stop with
      | some _ => r
      | none => ngetWrite e wg (a + x.1) x.2 r) r).s.vfs = r.s.vfs := by
  induction l generalizing r with
  | nil => rfl
  | cons x l ih =>
    refine (ih _).trans ?_
    dsimp only
    split
    · rfl
    · exact ngetWrite_vfs ..

theorem ngetFinish_vfs (wg most : Nat) (s : State) : (ngetFinish wg most s).vfs = s.vfs := by
  unfold ngetFinish
  dsimp only
  split
  · rfl
  next c _ _ =>
    split
    · rfl
    · have hr := ngetParts_vfs (engineOf s (.ne wg) c.id) wg (netLocal c) (answerParts c.progress most c.answers) ⟨s, 0, none⟩
      generalize (answerParts c.progress most c.answers).foldl _ (⟨s, 0, none⟩ : EngRun) = r at hr ⊢
      have hmoved : (if r.done = 0 then r.s else unitMoved (.ne wg) r.s).vfs = s.vfs := by
        split <;> exact hr
      generalize (if r.done = 0 then r.s else unitMoved (.ne wg) r.s) = u at hmoved ⊢
      (repeat' split) <;> simp [hmoved]

@[simp] theorem netClaim_vfs (wg a n p : Nat) (s : State) : (netClaim wg a n p s).vfs = s.vfs := modHead_vfs ..

@[simp] theorem netSend_vfs (q : QRef) (d : List Byte) (c : Cmd) (len : Nat) (short : Bool) (bytes : List Byte) (s : State) :
    (netSend q d c len short bytes s).vfs = s.vfs := (unitMoved_vfs ..).trans (modHead_vfs ..)

theorem netDescOnce_vfs {e : Eng} {wg : Nat} {c : Cmd} {s : State} {r : List Byte × State}
    (h : netDescOnce e wg c s = .inr r) : r.2.vfs = s.vfs := by
  unfold netDescOnce at h
  split at h
  · cases h; rfl
  · split at h <;> cases h
    next hdesc =>
      refine (modHead_vfs ..).trans ?_
      unfold netDesc at hdesc
      split at hdesc
      · cases hdesc
      · split at hdesc
        · cases hdesc
        · cases hdesc
        · cases hdesc
        next hget =>
          split at hdesc <;> cases hdesc
          exact engGet_vfs hget

theorem runNput_vfs (wg most : Nat) (c : Cmd) (s : State) : (runNput wg most c s).vfs = s.vfs := by
  unfold runNput
  dsimp only
  split
  · rfl
  · split
    · exact doneHead_vfs ..
    · exact stopHead_vfs ..
    next d s₀ hdesc =>
      have h₀ : s₀.vfs = s.vfs := netDescOnce_vfs hdesc
      split
      · exact (doneHead_vfs ..).trans h₀
      · split
        · exact doneHead_vfs ..
        · have hread := netCollect_vfs (engineOf s (.ne wg) c.id) wg
            (pieces (min (valAt 0x28 4 d) most / 32 + 2) (netLocal c) (min (valAt 0x28 4 d) most)) s₀
          generalize netCollect (engineOf s (.ne wg) c.id) wg
            (pieces (min (valAt 0x28 4 d) most / 32 + 2) (netLocal c) (min (valAt 0x28 4 d) most)) s₀ = r at hread ⊢
          obtain ⟨bytes, s₁, stop⟩ := r
          have h₁ : s₁.vfs = s.vfs := hread.trans h₀
          (repeat' split) <;> simp_all

theorem stopNet_vfs (wg : Nat) (s : State) : (stopNet wg s).vfs = s.vfs := by
  unfold stopNet
  extract_lets q n s₁
  change _ = s₁.vfs
  clear_value s₁
  split
  · rfl
  · split
    · rfl
    · split
      · exact runNput_vfs ..
      · split
        · exact ngetFinish_vfs ..
        · rfl

/-! ### The stop of a partition -/

theorem stopWg_vfs (wg : Nat) (s : State) : (stopWg wg s).vfs = s.vfs :=
  (stopNet_vfs ..).trans ((stopCopy_vfs ..).trans (stopCopy_vfs ..))

theorem writeStops_vfs (fn : Nat) (s : State) : (writeStops fn s).vfs = s.vfs := by
  unfold writeStops
  exact foldl_vfs (fun _ _ => by rfl) _ s

theorem stopUnits_vfs (fn : Nat) (s : State) : (stopUnits fn s).vfs = s.vfs := by
  unfold stopUnits
  extract_lets h s₁ s₂ s₃
  have h₂ : s₂.vfs = s.vfs := foldl_vfs (fun s c => (stopSequencer_vfs ..).trans (stopMatrix_vfs ..)) _ s₁
  have h₃ : s₃.vfs = s₂.vfs := foldl_vfs (fun s g => stopWg_vfs ..) _ s₂
  exact (writeStops_vfs ..).trans (h₃.trans h₂)

end Sys2Proof.Machine
end
section
/-! SUPPORT. Contexts that fault, halt, roll back, are restored, recorded and replayed (R338, R351, R353, R367, R370). -/

namespace Sys2Proof.Machine

/-! ### A restored context runs on -/

/-- Which contexts run. -/
def runs (s : State) : Nat → Bool := fun fn => (s.ctx fn).running

theorem runs_of_ctxs {s t : State} (h : t.ctxs = s.ctxs) : runs t = runs s := by
  funext fn
  exact congrArg Context.running (ctx_congr h fn)

theorem runs_modCtx {f : Context → Context} (hf : ∀ c, (f c).running = c.running) (fn : Nat) (s : State) :
    runs (s.modCtx fn f) = runs s := by
  funext n
  unfold runs State.ctx State.modCtx State.setCtx
  rw [look_put]
  split
  next h => subst h; exact hf _
  next => rfl

theorem foldl_runs {α : Type} {f : State → α → State} (h : ∀ s x, runs (f s x) = runs s) (l : List α) (s : State) :
    runs (l.foldl f s) = runs s := foldl_same (g := runs) h l s

theorem raiseHalt_runs (fn code unit : Nat) (note : List Byte) (s : State) : runs (raiseHalt fn code unit note s) = runs s := by
  have hends : ∀ u : State, runs (endCkptWaits fn false u) = runs u := fun _ => rfl
  unfold raiseHalt abandonCkpt
  split
  · rfl
  · refine (runs_modCtx (fun _ => by rfl) ..).trans ((hends _).trans ((runs_modCtx (fun _ => by rfl) ..).trans ?_))
    split <;> rfl

theorem orIntegrity_runs (fn unit : Nat) (met : Option (Nat × Nat)) (s : State) : runs (orIntegrity fn unit met s) = runs s := by
  cases met with
  | none => rfl
  | some x => exact raiseHalt_runs ..

theorem sectXlat_ctxs (fn core va : Nat) (s : State) : (sectXlat fn core va s).2.ctxs = s.ctxs :=
  congrArg Prod.snd (sectXlat_beyond fn core va s)

theorem orderPoint_runs (fn kind point : Nat) (object : DWord) (agent event : Nat) (seq : Option Nat) (s : State) :
    runs (orderPoint fn kind point object agent event seq s) = runs s := by
  unfold orderPoint
  split
  · exact runs_modCtx (fun _ => by rfl) ..
  · split
    · exact runs_modCtx (fun _ => by rfl) ..
    · rfl

/-! #### Fates of commands, in a replay -/

theorem noteDue_runs (k fn : Nat) (s : State) : runs (noteDue k fn s) = runs s := by
  unfold noteDue
  split
  · rfl
  · refine (runs_modCtx (fun c => ?_) ..).trans (orderPoint_runs ..)
    split <;> rfl

theorem takeFates_runs (fn : Nat) (l : List Cmd) (s : State) : runs (takeFates fn l s).2 = runs s := by
  have hfold : ∀ (l : List Cmd) (r : List Cmd × State), runs (l.foldl (fun (r : List Cmd × State) c =>
      if (c.op = 0x298 || c.op = 0x29A) && c.done.isNone
          && (nextEntry r.2 fn 7 0 (threadObject r.2 fn (c.pusher % 2 ^ 40))).any (·.carried) then
        (r.1 ++ [{ c with fate := fateOf r.2 (c.pusher % 2 ^ 40) fn }], noteDue (c.pusher % 2 ^ 40) fn r.2)
      else (r.1 ++ [c], r.2)) r).2 = runs r.2 := by
    intro l
    induction l with
    | nil => exact fun _ => rfl
    | cons c l ih =>
      intro r
      rw [List.foldl_cons, ih]
      split
      · exact noteDue_runs ..
      · rfl
  exact hfold l ([], s)

theorem giveFates_runs (fn : Nat) (s : State) : runs (giveFates fn s) = runs s := by
  unfold giveFates
  refine foldl_runs (fun s g => ?_) _ s
  exact takeFates_runs fn (queueOf s (.tk g)) s

/-! #### Rings, and the queues that have risen -/

theorem readsNote_ctxs (fn core : Nat) (l : List (Nat × Nat)) (s : State) : (readsNote fn core l s).ctxs = s.ctxs := by
  unfold readsNote
  exact foldl_same (g := State.ctxs) (fun _ _ => congrArg Prod.snd (readNote_beyond ..)) l s

theorem readRing_runs (s : State) (key : Nat) : runs (readRing s key) = runs s := by
  unfold readRing
  split
  · rfl
  · dsimp only
    split
    · rfl
    · split
      · exact (raiseHalt_runs ..).trans (runs_of_ctxs (readsNote_ctxs ..))
      · exact runs_of_ctxs (readsNote_ctxs ..)

theorem readRings_runs (fn : Nat) (s : State) : runs (readRings fn s) = runs s := by
  unfold readRings
  exact foldl_runs (fun s (p : Nat × Queue) => readRing_runs s p.1) _ s

theorem wakeQueue_runs (q : Nat) (s : State) : runs (wakeQueue q s) = runs s := by
  unfold wakeQueue
  split
  · rfl
  · exact foldl_runs (fun _ _ => by rfl) _ s

/-! #### The pool's charges, and the operand caches -/

theorem frameBack_runs (k : Nat) (t : Thread) (s : State) (n : Nat) : runs (frameBack k t s n) = runs s := by
  unfold frameBack
  split
  · exact orIntegrity_runs ..
  · exact runs_of_ctxs (sectXlat_ctxs ..)

theorem pushThreads_runs (core : Nat) (units : List Nat) (base : Nat) (l : Tbl Thread) (s : State) :
    runs (pushThreads core units base l s).2 = runs s := by
  induction l generalizing base s with
  | nil => rfl
  | cons p l ih =>
    obtain ⟨k, t⟩ := p
    unfold pushThreads
    by_cases hk : coreOf k = core
    · simp only [hk, if_true]
      exact (ih ..).trans (foldl_runs (fun _ _ => frameBack_runs ..) _ _)
    · simp only [hk, if_false]
      exact ih ..

theorem pushOut_runs (fn core : Nat) (units : List Nat) (s : State) : runs (pushOut fn core units s) = runs s := by
  unfold pushOut setImageThreads
  exact (runs_modCtx (fun _ => by rfl) ..).trans (pushThreads_runs ..)

theorem drainLowest_runs (core : Nat) (s : State) : runs (drainLowest core s) = runs s := by
  unfold drainLowest
  split
  · rfl
  · refine foldl_runs (fun s p => ?_) _ s
    split
    · exact pushOut_runs ..
    · rfl

theorem drainTo_runs (core fuel : Nat) (s : State) : runs (drainTo core fuel s) = runs s := by
  induction fuel generalizing s with
  | zero => rfl
  | succ fuel ih =>
    unfold drainTo
    split
    · rfl
    · exact (ih _).trans (drainLowest_runs ..)

theorem settlePool_ctxs (c : Nat) (s : State) : (settlePool c s).ctxs = s.ctxs := rfl

theorem takeCharge_runs (core : Nat) (s : State) : runs (takeCharge core s) = runs s := by
  unfold takeCharge
  exact (runs_of_ctxs (settlePool_ctxs ..)).trans (drainTo_runs ..)

theorem coldGrans_ctxs (fn : Nat) (was s : State) : (coldGrans fn was s).ctxs = s.ctxs := rfl

theorem takeCharges_runs (fn : Nat) (s : State) : runs (takeCharges fn s) = runs s := by
  unfold takeCharges
  exact (runs_of_ctxs (coldGrans_ctxs ..)).trans (foldl_runs (fun s c => takeCharge_runs ..) _ s)

theorem fillFrames_runs (k : Nat) (t : Thread) (lines : List Nat) (s : State) : runs (fillFrames k t lines s) = runs s := by
  have hmiss : ∀ n, runs (noteMisses (coreOf k) n s) = runs s := fun n => by
    unfold noteMisses
    split <;> rfl
  unfold fillFrames
  dsimp only
  split
  · rfl
  · refine (foldl_runs (fun s n => ?_) _ _).trans (hmiss _)
    split
    · exact runs_of_ctxs (sectXlat_ctxs ..)
    · rfl

theorem fillChecked_runs (k : Nat) (t : Thread) (lines : List Nat) (s : State) : runs (fillChecked k t lines s) = runs s := by
  unfold fillChecked
  split
  · refine (fillFrames_runs ..).trans ?_
    unfold coreIntegrity
    split
    · rfl
    · exact raiseHalt_runs ..
  · exact fillFrames_runs ..

theorem refillCaches_runs (fn : Nat) (s : State) : runs (refillCaches fn s) = runs s := by
  unfold refillCaches
  exact foldl_runs (fun _ _ => fillChecked_runs ..) _ s

theorem install_runs (fn : Nat) (i : Snapshot) (s : State) : runs (install fn i s) = runs s := by
  unfold install
  extract_lets later replays s₁ g s₂ s₃ s₄ s₅
  have h₁ : runs s₁ = runs s := runs_modCtx (fun _ => by rfl) fn s
  have h₃ : runs s₃ = runs s₁ := rfl
  clear_value s₃
  have h₄ : runs s₄ = runs s₃ := by
    simp only [s₄]
    split
    · exact giveFates_runs ..
    · rfl
  clear_value s₄
  have h₅ : runs s₅ = runs s₄ := (foldl_runs (fun _ _ => wakeQueue_runs ..) _ _).trans (readRings_runs ..)
  exact (refillCaches_runs ..).trans ((takeCharges_runs ..).trans (h₅.trans (h₄.trans (h₃.trans h₁))))

/-! ### Faults and halts -/

theorem countError_ctxs (u : Nat) (c : Bool) (s : State) : (countError u c s).ctxs = s.ctxs := rfl

theorem raiseHalt_ckpt {fn : Nat} {s : State} (h : (s.ctx fn).halt = none) (code unit : Nat) (note : List Byte) :
    ((raiseHalt fn code unit note s).ctx fn).ckpt = none := by
  unfold raiseHalt
  rw [h]
  dsimp only
  rw [ctx_modCtx_same, abandonCkpt_ctx]

theorem exec_contextFault {s : State} {fn : Nat} (hlive : (s.ctx fn).live = true) (hhalt : (s.ctx fn).halt = none)
    (code unit : Nat) : ∃ t, exec (.contextFault fn code unit) s = .next t ∧
      (t.ctx fn).halt = some ⟨code, unit, false, [], []⟩ ∧ (t.ctx fn).ckpt = none ∧ t.mem = s.mem := by
  obtain ⟨u, hu, hctxs, hmem⟩ : ∃ u : State, (if isHardware code = true then
      ((faultUnit s fn unit).map (fun u => countError u false s)).getD s else s) = u ∧ u.ctxs = s.ctxs ∧ u.mem = s.mem := by
    refine ⟨_, rfl, ?_⟩
    split
    · cases faultUnit s fn unit <;> exact ⟨rfl, rfl⟩
    · exact ⟨rfl, rfl⟩
  have hnone : (u.ctx fn).halt = none := by rw [ctx_congr hctxs, hhalt]
  refine ⟨raiseHalt fn code unit [] u, ?_, raiseHalt_halt hnone .., raiseHalt_ckpt hnone .., (raiseHalt_mem ..).trans hmem⟩
  simp only [exec, execContextFault, hlive, Bool.not_true, Bool.false_eq_true, if_false, hu]

theorem closeIfDue_of_open {s : State} {fn : Nat} (hopen : (s.vf fn).closing = false) : closeIfDue fn s = s := by
  simp [closeIfDue, hopen]

/-- A partition that has stopped has its state and its code in VFSTAT, and is halted once and for all. -/
theorem exec_partitionHalted {s : State} {fn : Nat} {h : Halt} (hhalt : (s.ctx fn).halt = some h) (hdone : h.done = false)
    (hcode : h.code ≠ 0) (hopen : (s.vf fn).closing = false) : ∃ t, exec (.partitionHalted fn) s = .next t ∧
      (t.vf fn).state = 4 ∧ (t.vf fn).code = h.code ∧ (t.ctx fn).halt.map (·.done) = some true := by
  simp only [exec, execPartitionHalted, hhalt, hdone, hcode, Bool.false_eq_true, if_false]
  have hvfs : (haltEvent fn (stopUnits fn s)).vfs = s.vfs := stopUnits_vfs fn s
  generalize haltEvent fn (stopUnits fn s) = u at hvfs ⊢
  have hstill : (u.vf fn).closing = false := by rwa [State.vf, hvfs, ← State.vf]
  have hreport : (reportEvent fn 1 h.code (u.ctx fn).epoch.toNat 0 u).vf fn = u.vf fn := rfl
  rw [closeIfDue_of_open (by rw [modCtx_at_vf, vf_modVf_same, hreport]; exact hstill)]
  refine ⟨_, rfl, ?_, ?_, ?_⟩
  · rw [modCtx_at_vf, vf_modVf_same]
  · rw [modCtx_at_vf, vf_modVf_same]
  · rw [ctx_modCtx_same, Option.map_some]

/-! ### Restored, or corrupt -/

theorem corrupt_state (fn code : Nat) (s : State) : ((corrupt fn code s).vf fn).state = 5 := by
  unfold corrupt
  exact congrArg VF.state (vf_modVf_same (scrub fn s) fn (fun v => { v with state := 5 }))

theorem scrub_images (fn : Nat) (s : State) : ((scrub fn s).ctx fn).images = [] := by
  unfold scrub
  dsimp only
  rw [ctx_modCtx_same]

theorem corrupt_images (fn code : Nat) (s : State) : ((corrupt fn code s).ctx fn).images = [] := scrub_images fn s

/-- A restore goes on where none of the partition's contexts runs and the function's turn has come. -/
theorem restore_due {s : State} {fn : Nat} (hidle : ∀ f ∈ tenants s fn, (s.ctx f).running = false)
    (hturn : nextFn s fn = some fn) :
    ((tenants s fn).any (fun f => (s.ctx f).running) || nextFn s fn != some fn) = false := by
  simpa [hturn] using hidle

section
variable {s : State} {fn : Nat} {sound : Bool} {i : Snapshot} {rest : List Snapshot}
  (hidle : ∀ f ∈ tenants s fn, (s.ctx f).running = false) (hturn : nextFn s fn = some fn)
  (himages : (s.ctx fn).images = i :: rest)
include hidle hturn himages

theorem exec_restore_corrupt {code : Nat} (hfault : imageFault s.fresh.2 fn i sound = some code) :
    exec (.restore fn sound) s = .next (corrupt fn code s.fresh.2) := by
  have hgo := restore_due hidle hturn
  simp only [exec, execRestore, hgo, himages, hfault, Bool.false_eq_true, if_false]

/-- A sound image is installed, and its context runs. -/
theorem exec_restore_sound (hsound : imageFault s.fresh.2 fn i sound = none) :
    ∃ t, exec (.restore fn sound) s = .next t ∧ (t.ctx fn).running = true ∧ (t.vf fn).state = 2 := by
  have hgo := restore_due hidle hturn
  simp only [exec, execRestore, hgo, himages, hsound, Bool.false_eq_true, if_false]
  refine ⟨_, rfl, ?_, ?_⟩
  · rw [modVf_at_ctx]
    refine (congrFun (install_runs fn _ _) fn).trans ?_
    unfold runs
    rw [ctx_modCtx_same]
  · rw [vf_modVf_same]
end

/-- Two changes of a context are the same where they leave the same of it. -/
theorem modCtx_congr {s : State} {fn : Nat} {f g : Context → Context} (h : f (s.ctx fn) = g (s.ctx fn)) :
    s.modCtx fn f = s.modCtx fn g := congrArg (s.setCtx fn) h

/-- Settles O44: units that stop leave the functions' registers, and an image that is installed leaves its context running. -/
theorem contextSteps_hold : Obligations.ContextSteps := by
  refine fun s fn sound => ⟨fun code unit hlive hhalt => exec_contextFault hlive hhalt code unit,
    fun h hhalt hdone hcode hopen => exec_partitionHalted hhalt hdone hcode hopen, fun hlive hhalt hrun => ?_,
    fun i rest hidle hturn himages => ⟨exec_restore_sound hidle hturn himages, fun code hfault =>
      ⟨exec_restore_corrupt hidle hturn himages hfault, corrupt_state .., corrupt_images ..⟩⟩,
    fun area hup => congrArg Host.Outcome.next (viaMgmt_up hup _), fun i rest hup himages => ?_,
    fun i j rest hup himages => ?_⟩
  · have hoffered : rollbackOffered s fn = true := by simp [rollbackOffered, hhalt]
    simp only [exec, execRollback, hlive, hoffered, runHalted_of_running hhalt, Bool.not_true, Bool.or_self, Bool.false_eq_true,
      if_false]
  · simp only [exec, execReplayStart, viaMgmt_up hup, himages, replayFrom]
    exact congrArg (fun u => Host.Outcome.next (returnTo fn i false sound u)) (modCtx_congr rfl)
  · simp only [exec, execReplayStart, viaMgmt_up hup, himages, replayFrom]
    exact congrArg (fun u => Host.Outcome.next (returnTo fn j true sound u)) (modCtx_congr rfl)

end Sys2Proof.Machine
end
